-- ==== Sys2Proof/Word.lean ====
section
/-! DEFINITION. The word types of the machine: 64-bit scalars, 32-bit lanes and bytes (00_scope R2, 01_organisation R15). -/

namespace Sys2Proof

/-- A scalar register's value, 64 bits. -/
abbrev Word := BitVec 64

/-- One lane of a vector register, an accumulator element or a 32-bit memory word. -/
abbrev W32 := BitVec 32

/-- One byte of memory. -/
abbrev Byte := BitVec 8

end Sys2Proof
end

