-- ==== Sys2Proof/Machine/SMap.lean ====
section
/-! DEFINITION. Maps by number, kept as lists of pairs in rising order of the key, and the byte memory in one canonical
form. A map's unlisted key reads as the default its user names; a memory's unlisted address reads as zero. -/

namespace Sys2Proof.Machine

/-- A finite map from numbers. -/
abbrev SMap (α : Type) := List (Nat × α)

/-- The entry at `k`, if one is listed. -/
def SMap.get? {α : Type} : SMap α → Nat → Option α
  | [], _ => none
  | (j, v) :: m, k => if j = k then some v else SMap.get? m k

/-- The entry at `k`, or `z` where none is listed. -/
def SMap.getD {α : Type} (m : SMap α) (k : Nat) (z : α) : α := (SMap.get? m k).getD z

/-- The map with `v` at `k`. -/
def SMap.set {α : Type} : SMap α → Nat → α → SMap α
  | [], k, v => [(k, v)]
  | (j, w) :: m, k, v =>
    if j = k then (k, v) :: m else if k < j then (k, v) :: (j, w) :: m else (j, w) :: SMap.set m k v

/-- The map without `k`. -/
def SMap.erase {α : Type} (m : SMap α) (k : Nat) : SMap α := m.filter fun e => e.1 ≠ k

/-- Whether `k` is listed. -/
def SMap.has {α : Type} (m : SMap α) (k : Nat) : Bool := (SMap.get? m k).isSome

/-- The lowest number from `n` on that is not listed, looking at `fuel` numbers. -/
def SMap.free {α : Type} (m : SMap α) : Nat → Nat → Option Nat
  | 0, _ => none
  | fuel + 1, n => if SMap.has m n then SMap.free m fuel (n + 1) else some n

/-- Memory: listed bytes by location. -/
abbrev Memory := List (Nat × Byte)

/-- What a location that is not listed reads as. DESIGN CHOICE (log 6): the manual gives memory no reset value. Unsafe. -/
def Memory.unlisted : Byte := 0

/-- The byte at a location. -/
def Memory.get (m : Memory) (k : Nat) : Byte := SMap.getD m k Memory.unlisted

/-- The memory with one byte written, in canonical form. -/
def Memory.set : Memory → Nat → Byte → Memory
  | [], k, v => if v = Memory.unlisted then [] else [(k, v)]
  | (j, w) :: m, k, v =>
    if j = k then (if v = Memory.unlisted then m else (k, v) :: m)
    else if k < j then (if v = Memory.unlisted then (j, w) :: m else (k, v) :: (j, w) :: m)
    else (j, w) :: Memory.set m k v

/-- Every listed location is above `lo` (at or above where `lo` is none), locations rise, no byte equals the unlisted one. -/
def Memory.wfFrom : Option Nat → Memory → Bool
  | _, [] => true
  | lo, (k, v) :: m =>
    (match lo with | none => true | some l => decide (l < k)) && decide (v ≠ Memory.unlisted) && Memory.wfFrom (some k) m

/-- The canonical form: locations strictly rising, no byte equal to what an unlisted location reads as. -/
def Memory.wf (m : Memory) : Bool := Memory.wfFrom none m

/-- The bytes of `k .. k + n - 1`, lowest location first. -/
def Memory.bytes (m : Memory) (k : Nat) : Nat → List Byte
  | 0 => []
  | n + 1 => Memory.get m k :: Memory.bytes m (k + 1) n

/-- Writes a list of cells, in order. -/
def Memory.setAll (m : Memory) (cells : List (Nat × Byte)) : Memory :=
  cells.foldl (fun m c => Memory.set m c.1 c.2) m

/-- Removes what is listed in `k .. k + n - 1`, so that the range reads as zero. -/
def Memory.zero (m : Memory) (k n : Nat) : Memory := m.filter fun c => c.1 < k || k + n ≤ c.1

/-- Little-endian value of bytes (R2). -/
def leNat : List Byte → Nat
  | [] => 0
  | b :: bs => b.toNat + 256 * leNat bs

/-- The `n` bytes of a number, lowest first (R2). -/
def leBytes : Nat → Nat → List Byte
  | 0, _ => []
  | n + 1, v => BitVec.ofNat 8 v :: leBytes n (v / 256)

/-- Cells at consecutive locations. -/
def cellsAt (k : Nat) : List Byte → List (Nat × Byte)
  | [] => []
  | b :: bs => (k, b) :: cellsAt (k + 1) bs

/-- Bits `hi .. lo` of a number (R2). -/
def bits (v hi lo : Nat) : Nat := v / 2 ^ lo % 2 ^ (hi - lo + 1)

/-- Whether bit `n` of a number is 1. -/
def bit (v n : Nat) : Bool := v / 2 ^ n % 2 = 1

/-- SignExtend of R8: the low `n` bits read as two's complement. -/
def signed (v n : Nat) : Int :=
  if v % 2 ^ n < 2 ^ (n - 1) then (v % 2 ^ n : Nat) else (v % 2 ^ n : Nat) - (2 ^ n : Nat)

/-- Trunc of R8 on an integer: modulo 2^n. -/
def trunc (x : Int) (n : Nat) : Nat := (x % (2 ^ n : Nat)).toNat

end Sys2Proof.Machine
end

