-- ==== Sys2Proof/Machine/Float.lean ====
section
/-! DEFINITION. Exact floating-point values, one rounding, and the element formats (07_scalar_control R99 to R101; 13_number_formats
R173 to R176, R189 to R194; 09_memory_instructions R150). A finite value is `m * 2^e` with its sign. -/

namespace Sys2Proof.Machine

/-- A floating-point value. -/
inductive Num where
  | nan
  | inf (neg : Bool)
  | fin (neg : Bool) (m : Nat) (e : Int)
  deriving DecidableEq, Repr

/-- How a result is rounded (R190). -/
inductive Rounding where
  /-- To nearest, ties to even. -/
  | rne
  /-- Toward zero. -/
  | rtz
  /-- Stochastic, with the generator's new state (R191). -/
  | sr (r : W32)
  deriving DecidableEq, Repr

/-- Number of significant bits. -/
def bitLen (m : Nat) : Nat := if m = 0 then 0 else Nat.log2 m + 1

/-- `m * 2^e` on the grid of multiples of `2^q`: the multiple, and whether it is inexact. -/
def roundTo (md : Rounding) (q : Int) (m : Nat) (e : Int) : Nat × Bool :=
  if q ≤ e then (m * 2 ^ (e - q).toNat, false)
  else
    let s := (q - e).toNat
    let t := m / 2 ^ s
    let rem := m % 2 ^ s
    if rem = 0 then (t, false)
    else match md with
      | .rtz => (t, true)
      | .rne =>
        let half := 2 ^ (s - 1)
        (if rem > half ∨ (rem = half ∧ t % 2 = 1) then t + 1 else t, true)
      | .sr r => (if r ≠ 0 ∧ rem * 2 ^ 24 / 2 ^ s > r.toNat / 256 then t + 1 else t, true)

/-- A floating-point format: mantissa bits, exponent bits, bias (R174). -/
structure FloatFmt where
  p : Nat
  eb : Nat
  bias : Nat
  /-- Encoding of the largest finite magnitude. -/
  top : Nat
  /-- The format has infinities. -/
  hasInf : Bool
  /-- Encoding of the NaN that is written, if there is one (R175). -/
  nan : Option Nat
  deriving DecidableEq, Repr

/-- The formats of codes 0 to 7 (R174, R175). -/
def floatFmt : Nat → FloatFmt
  | 0 => { p := 23, eb := 8, bias := 127, top := 0x7F7FFFFF, hasInf := true, nan := some 0x7FC00000 }
  | 1 => { p := 7, eb := 8, bias := 127, top := 0x7F7F, hasInf := true, nan := some 0x7FC0 }
  | 2 => { p := 10, eb := 5, bias := 15, top := 0x7BFF, hasInf := true, nan := some 0x7E00 }
  | 3 => { p := 2, eb := 5, bias := 15, top := 0x7B, hasInf := true, nan := some 0x7E }
  | 4 => { p := 3, eb := 4, bias := 7, top := 0x7E, hasInf := false, nan := some 0x7F }
  | 5 => { p := 2, eb := 3, bias := 3, top := 0x1F, hasInf := false, nan := none }
  | 6 => { p := 3, eb := 2, bias := 1, top := 0x1F, hasInf := false, nan := none }
  | _ => { p := 1, eb := 2, bias := 1, top := 0x7, hasInf := false, nan := none }

/-- The value of an encoding (R174, R175). -/
def FloatFmt.value (f : FloatFmt) (x : Nat) : Num :=
  let m := x % 2 ^ f.p
  let e := x / 2 ^ f.p % 2 ^ f.eb
  let neg := decide (x / 2 ^ (f.p + f.eb) % 2 = 1)
  let mag := x % 2 ^ (f.p + f.eb)
  if f.hasInf && decide (e = 2 ^ f.eb - 1) then (if m = 0 then .inf neg else .nan)
  else if f.nan.isSome && decide (f.top < mag) then .nan
  else if e = 0 then .fin neg m (1 - (f.bias : Int) - f.p)
  else .fin neg (2 ^ f.p + m) ((e : Int) - f.bias - f.p)

/-- The exponent of a format's smallest subnormal. -/
def FloatFmt.qmin (f : FloatFmt) : Int := 1 - (f.bias : Int) - f.p

/-- The magnitude's encoding after one rounding, without a limit, and whether it is inexact (R190). -/
def FloatFmt.grid (f : FloatFmt) (md : Rounding) (m : Nat) (e : Int) : Nat × Bool :=
  if m = 0 then (0, false)
  else
    let q := max (e + bitLen m - (f.p + 1)) f.qmin
    let r := roundTo md q m e
    ((q - f.qmin).toNat * 2 ^ f.p + r.1, r.2)

/-- A sign bit above a magnitude. -/
def FloatFmt.signed (f : FloatFmt) (neg : Bool) (mag : Nat) : Nat := if neg then 2 ^ (f.p + f.eb) + mag else mag

/-- Conversion of a value to the format (R190). -/
def FloatFmt.encode (f : FloatFmt) (md : Rounding) : Num → Nat
  | .nan => f.nan.getD 0
  | .inf neg => f.signed neg (if f.hasInf then f.top + 1 else f.top)
  | .fin neg m e =>
    let g := (f.grid md m e).1
    if g ≤ f.top then f.signed neg g
    else f.signed neg (if f.hasInf && decide (md = .rne) then f.top + 1 else f.top)

/-! ### FP32 with flags (R99) -/

/-- Flag bits of FFLAGS (R291). -/
def flagNV : BitVec 5 := 16
def flagDZ : BitVec 5 := 8
def flagOF : BitVec 5 := 4
def flagUF : BitVec 5 := 2
def flagNX : BitVec 5 := 1

/-- The quiet NaN that is written (R99). -/
def nan32 : W32 := 0x7FC00000

/-- The value of an FP32 word. -/
def num32 (x : W32) : Num := (floatFmt 0).value x.toNat

/-- The value of a BF16 half. -/
def num16 (x : Nat) : Num := (floatFmt 1).value x

/-- Whether an FP32 word is a NaN. -/
def isNan (x : W32) : Bool := decide (num32 x = .nan)

/-- Whether an FP32 word is a signalling NaN (R175). -/
def isSnan (x : W32) : Bool := isNan x && !x.getLsbD 22

/-- RoundRNE to FP32 with the flags OF, UF and NX (R99). -/
def round32 : Num → W32 × BitVec 5
  | .nan => (nan32, 0)
  | .inf neg => (BitVec.ofNat 32 ((floatFmt 0).signed neg 0x7F800000), 0)
  | .fin neg m e =>
    let g := (floatFmt 0).grid .rne m e
    let big := decide ((floatFmt 0).top < g.1)
    let tiny := decide (m ≠ 0 ∧ e + bitLen m - 1 < -126)
    (BitVec.ofNat 32 ((floatFmt 0).signed neg (min g.1 0x7F800000)),
      (if big then flagOF ||| flagNX else 0) ||| (if g.2 then flagNX else 0) ||| (if tiny && g.2 then flagUF else 0))

/-- RoundRNE to FP32 without flags. -/
def rne32 (x : Num) : W32 := (round32 x).1

/-- One rounding to BF16 with RNE (R150, R189). -/
def rne16 (x : Num) : Nat := (floatFmt 1).encode .rne x

/-- Exact negation. -/
def Num.neg : Num → Num
  | .nan => .nan
  | .inf s => .inf !s
  | .fin s m e => .fin (!s) m e

/-- The signed integer of a finite value at a common exponent `q ≤ e`. -/
def atExp (neg : Bool) (m : Nat) (e q : Int) : Int :=
  let v : Int := (m * 2 ^ (e - q).toNat : Nat)
  if neg then -v else v

/-- The finite value of an integer times a power of two; a zero takes the given sign. -/
def ofInt (z : Int) (q : Int) (zneg : Bool) : Num :=
  if z = 0 then .fin zneg 0 0 else .fin (decide (z < 0)) z.natAbs q

/-- Exact sum. An exact zero sum is +0 but for two zeros whose sum is -0 (R99). -/
def Num.add : Num → Num → Num
  | .nan, _ => .nan
  | _, .nan => .nan
  | .inf s, .inf t => if s = t then .inf s else .nan
  | .inf s, .fin .. => .inf s
  | .fin .., .inf t => .inf t
  | .fin s m e, .fin t n f =>
    let q := min e f
    ofInt (atExp s m e q + atExp t n f q) q (s && t && decide (m = 0 ∧ n = 0))

/-- Exact product. -/
def Num.mul : Num → Num → Num
  | .nan, _ => .nan
  | _, .nan => .nan
  | .inf s, .inf t => .inf (s != t)
  | .inf s, .fin t n _ => if n = 0 then .nan else .inf (s != t)
  | .fin s m _, .inf t => if m = 0 then .nan else .inf (s != t)
  | .fin s m e, .fin t n f => .fin (s != t) (m * n) (e + f)

/-- Quotient with enough bits for one rounding to a precision of at most 32 bits: the last bit is a sticky bit. -/
def Num.div : Num → Num → Num
  | .nan, _ => .nan
  | _, .nan => .nan
  | .inf _, .inf _ => .nan
  | .inf s, .fin t _ _ => .inf (s != t)
  | .fin s _ _, .inf t => .fin (s != t) 0 0
  | .fin s m e, .fin t n f =>
    if n = 0 then (if m = 0 then .nan else .inf (s != t))
    else
      let k := 64 + bitLen n
      let x := m * 2 ^ k
      .fin (s != t) (2 * (x / n) + (if x % n = 0 then 0 else 1)) (e - f - k - 1)

/-- Integer square root, one bit at a time from bit `i - 1` down. -/
def isqrt (n : Nat) : Nat → Nat → Nat
  | 0, acc => acc
  | i + 1, acc => let c := acc + 2 ^ i; isqrt n i (if c * c ≤ n then c else acc)

/-- Square root with a sticky last bit; -0 stays -0 (R100). -/
def Num.sqrt : Num → Num
  | .nan => .nan
  | .inf s => if s then .nan else .inf false
  | .fin s m e =>
    if m = 0 then .fin s 0 0
    else if s then .nan
    else
      let e' := if e % 2 = 0 then e else e - 1
      let x := (if e % 2 = 0 then m else 2 * m) * 2 ^ 80
      let r := isqrt x (bitLen x / 2 + 1) 0
      .fin false (2 * r + (if r * r = x then 0 else 1)) (e' / 2 - 41)

/-- Numeric comparison of values that are no NaN: whether `a < b`; -0 equals +0. -/
def Num.lt : Num → Num → Bool
  | .nan, _ => false
  | _, .nan => false
  | .inf s, .inf t => s && !t
  | .inf s, .fin .. => s
  | .fin .., .inf t => !t
  | .fin s m e, .fin t n f => let q := min e f; decide (atExp s m e q < atExp t n f q)

/-- Numeric equality of values that are no NaN. -/
def Num.eq : Num → Num → Bool
  | .nan, _ => false
  | _, .nan => false
  | a, b => !a.lt b && !b.lt a

/-- A zero of either sign. -/
def Num.isZero : Num → Bool
  | .fin _ m _ => decide (m = 0)
  | _ => false

def Num.isInf : Num → Bool
  | .inf _ => true
  | _ => false

/-- The sign. -/
def Num.isNeg : Num → Bool
  | .nan => false
  | .inf s => s
  | .fin s _ _ => s

/-- The larger of two FP32 words under the order with -0 below +0; a NaN is ignored in favour of the other word, and two NaNs
give the quiet NaN (R150, R199). -/
def max32 (x y : W32) : W32 :=
  if isNan x then (if isNan y then nan32 else y)
  else if isNan y then x
  else if (num32 x).lt (num32 y) || ((num32 x).eq (num32 y) && (num32 x).isNeg) then y else x

/-- The smaller of two FP32 words, with the rules of `max32`. -/
def min32 (x y : W32) : W32 :=
  if isNan x then (if isNan y then nan32 else y)
  else if isNan y then x
  else if (num32 y).lt (num32 x) || ((num32 x).eq (num32 y) && (num32 y).isNeg) then y else x

/-- Truncation of a finite value toward zero, as an integer, and whether it is exact. -/
def truncInt (neg : Bool) (m : Nat) (e : Int) : Int × Bool :=
  if 0 ≤ e then (let v : Int := (m * 2 ^ e.toNat : Nat); (if neg then -v else v, true))
  else
    let s := (-e).toNat
    let v : Int := (m / 2 ^ s : Nat)
    (if neg then -v else v, decide (m % 2 ^ s = 0))

/-- Floor of a finite value. -/
def floorInt (neg : Bool) (m : Nat) (e : Int) : Int :=
  let t := truncInt neg m e
  if neg && !t.2 then t.1 - 1 else t.1

/-! ### FP32 operations -/

def add32 (x y : W32) : W32 := rne32 ((num32 x).add (num32 y))
def sub32 (x y : W32) : W32 := rne32 ((num32 x).add (num32 y).neg)
def mul32 (x y : W32) : W32 := rne32 ((num32 x).mul (num32 y))
def div32 (x y : W32) : W32 := rne32 ((num32 x).div (num32 y))
def sqrt32 (x : W32) : W32 := rne32 (num32 x).sqrt
/-- `x * y + z` rounded once. -/
def fma32 (x y z : W32) : W32 := rne32 (((num32 x).mul (num32 y)).add (num32 z))
def neg32 (x : W32) : W32 := x ^^^ 0x80000000

/-- BF16 halves. -/
def add16 (x y : Nat) : Nat := rne16 ((num16 x).add (num16 y))
def mul16 (x y : Nat) : Nat := rne16 ((num16 x).mul (num16 y))
def fma16 (x y z : Nat) : Nat := rne16 (((num16 x).mul (num16 y)).add (num16 z))

/-! ### Integer formats and conversions (R176, R190 to R193) -/

/-- Conversion of a value to a two's-complement integer of n bits (R190). -/
def encodeInt (n : Nat) (md : Rounding) : Num → Nat
  | .nan => 0
  | .inf neg => if neg then 2 ^ (n - 1) else 2 ^ (n - 1) - 1
  | .fin neg m e =>
    let r := (roundTo md 0 m e).1
    if neg then (2 ^ n - min r (2 ^ (n - 1))) % 2 ^ n else min r (2 ^ (n - 1) - 1)

/-- One advance of a generator (R192). -/
def advance (x : W32) : W32 :=
  let x := x ^^^ (x <<< 13)
  let x := x ^^^ (x >>> 17)
  x ^^^ (x <<< 5)

/-- Conversion of an FP32 word to the format of a code: 1 to 7 floating-point, 8 INT8, 9 INT4 (R190). -/
def narrow (code : Nat) (md : Rounding) (x : W32) : Nat :=
  if code = 8 then encodeInt 8 md (num32 x)
  else if code = 9 then encodeInt 4 md (num32 x)
  else (floatFmt code).encode md (num32 x)

/-- Bits of an element of a format code (R174, R176). -/
def elemBits (code : Nat) : Nat :=
  match code with
  | 0 => 32
  | 1 => 16
  | 2 => 16
  | 3 => 8
  | 4 => 8
  | 5 => 6
  | 6 => 6
  | 7 => 4
  | 8 => 8
  | 9 => 4
  | 10 => 8
  | _ => 4

/-- The value of an element of a format code; an asymmetric one is q itself (R174, R176, R193). -/
def elemValue (code x : Nat) : Num :=
  if code ≤ 7 then (floatFmt code).value x
  else if code = 8 then ofInt (signed x 8) 0 false
  else if code = 9 then ofInt (signed x 4) 0 false
  else ofInt x 0 false

/-- Exact widening to FP32 (R193). -/
def widen (code x : Nat) : W32 := rne32 (elemValue code x)

/-! ### The LSE3 exponent function (R194) -/

/-- The coefficients c5 to c0, in the order in which the steps use them. -/
def expCoeffs : List W32 := [0x3AAEC3FF, 0x3C1D955B, 0x3D635847, 0x3E75FDF0, 0x3F317218, 0x3F800000]

/-- The Horner steps at a fraction f, from c6 on (R194). -/
def expPoly (f : Num) : W32 := expCoeffs.foldl (fun p c => rne32 (((num32 p).mul f).add (num32 c))) 0x39218489

/-- `p * 2^n` rounded once, with p from the Horner steps at `d - floor d` (R194). An n beyond 400 either way gives the same rounded
result as 400 does. -/
def exp2Finite (neg : Bool) (m : Nat) (e : Int) : W32 :=
  let n := floorInt neg m e
  let q := min e 0
  let f := ofInt (atExp neg m e q - n * 2 ^ (-q).toNat) q false
  match num32 (expPoly f) with
  | .fin s m' e' => rne32 (.fin s m' (e' + max (-400) (min 400 n)))
  | x => rne32 x

/-- Exp2Scale(mi, m) (R194). -/
def exp2Scale (mi m : W32) : W32 :=
  if isNan mi || isNan m then nan32
  else if num32 mi = .inf true then 0
  else if (num32 mi).eq (num32 m) then 0x3F800000
  else
    match num32 (sub32 mi m) with
    | .fin s k e => exp2Finite s k e
    | .inf true => 0
    | x => rne32 x

/-! ### Approximations (R208) -/

/-- One rounding with RNE to the nearest member of Gk, as an FP32 word. -/
def toGrid (k : Nat) : Num → W32
  | .fin neg m e =>
    if m = 0 then rne32 (.fin neg 0 0)
    else
      let q := max (e + bitLen m - k) (-149)
      rne32 (.fin neg (roundTo .rne q m e).1 q)
  | x => rne32 x

/-- 1/x on G12. -/
def rcp32 (x : W32) : W32 := toGrid 12 ((Num.fin false 1 0).div (num32 x))

/-- 1/sqrt x with a sticky last bit, for x a positive `m * 2^e` with e even. -/
def rsqrtFinite (m : Nat) (e : Int) : Num :=
  let k := 2 ^ 256
  let r := isqrt (k / m) 129 0
  .fin false (2 * r + (if r * r * m = k then 0 else 1)) (-(e / 2) - 129)

/-- 1/sqrt x on G12. -/
def rsqrt32 (x : W32) : W32 :=
  match num32 x with
  | .nan => nan32
  | .inf neg => if neg then nan32 else 0
  | .fin neg m e =>
    if m = 0 then rne32 (.inf neg)
    else if neg then nan32
    else if e % 2 = 0 then toGrid 12 (rsqrtFinite m e) else toGrid 12 (rsqrtFinite (2 * m) (e - 1))

/-- Exponential base 2. -/
def vexp32 (x : W32) : W32 :=
  match num32 x with
  | .nan => nan32
  | .inf neg => if neg then 0 else 0x7F800000
  | .fin neg m e => exp2Finite neg m e

/-- Bits of the fraction of log2 of `y / 2^256`, 1 <= y / 2^256 < 2, highest first: each squaring gives one bit. -/
def logBits : Nat → Nat → Nat → Nat
  | 0, _, acc => acc
  | n + 1, y, acc =>
    let z := y * y / 2 ^ 256
    if 2 ^ 257 ≤ z then logBits n (z / 2) (2 * acc + 1) else logBits n z (2 * acc)

/-- log2 x on G16. The fraction is taken to 128 bits and a sticky bit; log2 of no other value than a power of two is a binary
fraction. -/
def log2Approx (x : W32) : W32 :=
  match num32 x with
  | .nan => nan32
  | .inf neg => if neg then nan32 else 0x7F800000
  | .fin neg m e =>
    if m = 0 then 0xFF800000
    else if neg then nan32
    else
      let n := bitLen m - 1
      let whole : Int := e + n
      let y := m * 2 ^ (256 - n)
      if y = 2 ^ 256 then toGrid 16 (ofInt whole 0 false)
      else toGrid 16 (ofInt (whole * 2 ^ 129 + (2 * logBits 128 y 0 + 1 : Nat)) (-129) false)

end Sys2Proof.Machine
end

