-- ==== Sys2Proof/Syntax.lean ====
section
/-! DEFINITION. The steps of the machine, one constructor per row of the opcode table: the 202 instructions of Dzinis and
the word ILLEGAL with the fields of their encoding (04_formats, R54 to R67), and after them the steps without a word (95_what_each_step_holds)
with the arguments that say which unit, thread or packet the step concerns. -/

namespace Sys2Proof

/-- One row of the opcode table. Register fields hold the register's number; a modifier field holds the value the group
tables of R61 to R67 name. Thread keys `t`, core numbers `g`, cluster numbers `cl`, die numbers `d`, module numbers `m` and
switch numbers `sw` are those of `Sys2Proof.Machine.State`; `i` counts packets in flight. -/
inductive Instr where
  /-- Adds two scalars modulo 2^64. (R94) -/
  | add (d : BitVec 6) (a : BitVec 6) (b : BitVec 6)
  /-- Subtracts scalar b from scalar a modulo 2^64. (R94) -/
  | sub (d : BitVec 6) (a : BitVec 6) (b : BitVec 6)
  /-- Bitwise AND of two scalars. (R94) -/
  | and (d : BitVec 6) (a : BitVec 6) (b : BitVec 6)
  /-- Bitwise OR of two scalars. (R94) -/
  | or (d : BitVec 6) (a : BitVec 6) (b : BitVec 6)
  /-- Bitwise XOR of two scalars. (R94) -/
  | xor (d : BitVec 6) (a : BitVec 6) (b : BitVec 6)
  /-- Shifts scalar a left by the low six bits of scalar b. (R94) -/
  | sll (d : BitVec 6) (a : BitVec 6) (b : BitVec 6)
  /-- Logical right shift of scalar a by the low six bits of b. (R94) -/
  | srl (d : BitVec 6) (a : BitVec 6) (b : BitVec 6)
  /-- Arithmetic right shift of scalar a by the low six bits of b. (R94) -/
  | sra (d : BitVec 6) (a : BitVec 6) (b : BitVec 6)
  /-- Writes 1 when a is less than b as signed values, else 0. (R94) -/
  | slt (d : BitVec 6) (a : BitVec 6) (b : BitVec 6)
  /-- Writes 1 when a is less than b as unsigned values, else 0. (R94) -/
  | sltu (d : BitVec 6) (a : BitVec 6) (b : BitVec 6)
  /-- Writes 1 when the two scalars are equal, else 0. (R94) -/
  | seq (d : BitVec 6) (a : BitVec 6) (b : BitVec 6)
  /-- Writes the smaller of two scalars read as signed. (R94) -/
  | min (d : BitVec 6) (a : BitVec 6) (b : BitVec 6)
  /-- Writes the larger of two scalars read as signed. (R94) -/
  | max (d : BitVec 6) (a : BitVec 6) (b : BitVec 6)
  /-- Writes the smaller of two scalars read as unsigned. (R94) -/
  | minu (d : BitVec 6) (a : BitVec 6) (b : BitVec 6)
  /-- Writes the larger of two scalars read as unsigned. (R94) -/
  | maxu (d : BitVec 6) (a : BitVec 6) (b : BitVec 6)
  /-- Low 64 bits of the product of two scalars. (R95) -/
  | mul (d : BitVec 6) (a : BitVec 6) (b : BitVec 6)
  /-- High 64 bits of the signed 128-bit product. (R95) -/
  | mulh (d : BitVec 6) (a : BitVec 6) (b : BitVec 6)
  /-- High 64 bits of the unsigned 128-bit product. (R95) -/
  | mulhu (d : BitVec 6) (a : BitVec 6) (b : BitVec 6)
  /-- Signed division truncating toward zero; parks the thread. (R95) -/
  | div (d : BitVec 6) (a : BitVec 6) (b : BitVec 6)
  /-- Unsigned division; parks the thread. (R95) -/
  | divu (d : BitVec 6) (a : BitVec 6) (b : BitVec 6)
  /-- Signed remainder taking the sign of the dividend; parks the thread. (R95) -/
  | rem (d : BitVec 6) (a : BitVec 6) (b : BitVec 6)
  /-- Unsigned remainder; parks the thread. (R95) -/
  | remu (d : BitVec 6) (a : BitVec 6) (b : BitVec 6)
  /-- Counts leading zero bits of a scalar. (R96) -/
  | clz (d : BitVec 6) (a : BitVec 6)
  /-- Counts trailing zero bits of a scalar. (R96) -/
  | ctz (d : BitVec 6) (a : BitVec 6)
  /-- Counts one bits of a scalar. (R96) -/
  | popc (d : BitVec 6) (a : BitVec 6)
  /-- Sign-extends the low 8 bits. (R96) -/
  | sextb (d : BitVec 6) (a : BitVec 6)
  /-- Sign-extends the low 16 bits. (R96) -/
  | sexth (d : BitVec 6) (a : BitVec 6)
  /-- Sign-extends the low 32 bits. (R96) -/
  | sextw (d : BitVec 6) (a : BitVec 6)
  /-- Zero-extends the low 32 bits. (R96) -/
  | zextw (d : BitVec 6) (a : BitVec 6)
  /-- Adds a sign-extended 13-bit immediate to a scalar. (R97) -/
  | addi (d : BitVec 6) (a : BitVec 6) (i : BitVec 13)
  /-- Bitwise AND with a sign-extended immediate. (R97) -/
  | andi (d : BitVec 6) (a : BitVec 6) (i : BitVec 13)
  /-- Bitwise OR with a sign-extended immediate. (R97) -/
  | ori (d : BitVec 6) (a : BitVec 6) (i : BitVec 13)
  /-- Bitwise XOR with a sign-extended immediate. (R97) -/
  | xori (d : BitVec 6) (a : BitVec 6) (i : BitVec 13)
  /-- Left shift by an immediate count. (R97) -/
  | slli (d : BitVec 6) (a : BitVec 6) (i : BitVec 6)
  /-- Logical right shift by an immediate count. (R97) -/
  | srli (d : BitVec 6) (a : BitVec 6) (i : BitVec 6)
  /-- Arithmetic right shift by an immediate count. (R97) -/
  | srai (d : BitVec 6) (a : BitVec 6) (i : BitVec 6)
  /-- Writes 1 when a scalar is below a signed immediate. (R97) -/
  | slti (d : BitVec 6) (a : BitVec 6) (i : BitVec 13)
  /-- Selects scalar a when scalar c is nonzero, else b. (R98) -/
  | csel (d : BitVec 6) (a : BitVec 6) (b : BitVec 6) (c : BitVec 6)
  /-- Selects scalar a when scalar c is zero, else b. (R98) -/
  | cselz (d : BitVec 6) (a : BitVec 6) (b : BitVec 6) (c : BitVec 6)
  /-- Loads a sign-extended 19-bit immediate shifted left by 13. (R98) -/
  | lui (d : BitVec 6) (i : BitVec 19)
  /-- FP32 addition rounded once with RNE. (R100) -/
  | fadd (d : BitVec 6) (a : BitVec 6) (b : BitVec 6)
  /-- FP32 subtraction rounded once with RNE. (R100) -/
  | fsub (d : BitVec 6) (a : BitVec 6) (b : BitVec 6)
  /-- FP32 multiplication rounded once with RNE. (R100) -/
  | fmul (d : BitVec 6) (a : BitVec 6) (b : BitVec 6)
  /-- FP32 division; parks the thread for 20 cycles. (R100) -/
  | fdiv (d : BitVec 6) (a : BitVec 6) (b : BitVec 6)
  /-- FP32 square root; parks the thread for 20 cycles. (R100) -/
  | fsqrt (d : BitVec 6) (a : BitVec 6)
  /-- FP32 fused multiply-add rounded once. (R100) -/
  | fmadd (d : BitVec 6) (a : BitVec 6) (b : BitVec 6) (c : BitVec 6)
  /-- Writes 1 when two FP32 values are equal. (R101) -/
  | feq (d : BitVec 6) (a : BitVec 6) (b : BitVec 6)
  /-- Writes 1 when FP32 a is less than b. (R101) -/
  | flt (d : BitVec 6) (a : BitVec 6) (b : BitVec 6)
  /-- Converts FP32 to a signed 64-bit integer toward zero. (R101) -/
  | ftoi (d : BitVec 6) (a : BitVec 6)
  /-- Converts a signed 64-bit integer to FP32 with RNE. (R101) -/
  | itof (d : BitVec 6) (a : BitVec 6)
  /-- Compares two scalars under cond and branches PC-relative when it holds. (R102) -/
  | br (a : BitVec 6) (b : BitVec 6) (n : BitVec 3) (o : BitVec 10)
  /-- Writes PC+4 and jumps PC-relative. (R103) -/
  | jal (d : BitVec 6) (i : BitVec 19)
  /-- Writes PC+4 and jumps to a scalar plus immediate; ALIGN on misaligned target. (R103) -/
  | jalr (d : BitVec 6) (a : BitVec 6) (i : BitVec 13)
  /-- Adds a shifted 19-bit immediate to the PC. (R98) -/
  | auipc (d : BitVec 6) (i : BitVec 19)
  /-- Tests the lane bits of a predicate under ANY, ALL or NONE and branches. (R102) -/
  | brp (a : BitVec 6) (n : BitVec 3) (o : BitVec 10)
  /-- Ends the task, frees its slot, window and tiles, commits or finishes speculatively. (R105) -/
  | tend
  /-- Returns an unordered task to ready as a fresh run at PC+4. (R106) -/
  | yield
  /-- Asks a slice to enter a task descriptor held in a register, as a device-scope release. (R108) -/
  | tspawn (d : BitVec 6) (a : BitVec 6) (b : BitVec 6)
  /-- Pushes a range with tag at the tail of the core's range deque. (R112) -/
  | dqpush (a : BitVec 6)
  /-- Removes the tail entry of the range deque into three scalars. (R112) -/
  | dqpop (d : BitVec 6)
  /-- Takes up to k elements from the tail entry of the deque. (R112) -/
  | dqsplit (d : BitVec 6) (a : BitVec 6)
  /-- Searches victim cores and steals half of an entry nearest the head. (R50) -/
  | dqsteal (d : BitVec 6)
  /-- Writes the number of deque entries. (R112) -/
  | dqcount (d : BitVec 6)
  /-- Decreases nesting depth, or commits the outermost transaction. (R269) -/
  | sclose
  /-- Aborts the open run with EXPLICIT and a code. (R270) -/
  | sdrop (a : BitVec 6)
  /-- Writes the transaction depth, IRREV and ordered-run bit. (R271) -/
  | sdepth (d : BitVec 6)
  /-- Opens or nests a transaction and records the fallback target. (R268) -/
  | sopen (i : BitVec 13)
  /-- Adds a signed delta to a dependence counter, as a device-scope release. (R109) -/
  | tsignal (a : BitVec 6) (b : BitVec 6) (i : BitVec 13)
  /-- Loads 1 to 8 bytes through a layout entry, zero-extended. (R145) -/
  | ld (d : BitVec 6) (l : BitVec 8) (c : BitVec 6) (w : BitVec 2) (r : BitVec 1) (s : BitVec 2)
  /-- Loads 1 to 4 bytes through a layout entry, sign-extended. (R145) -/
  | lds (d : BitVec 6) (l : BitVec 8) (c : BitVec 6) (w : BitVec 2) (r : BitVec 1) (s : BitVec 2)
  /-- Stores the low bytes of a scalar through a layout entry. (R146) -/
  | st (d : BitVec 6) (l : BitVec 8) (c : BitVec 6) (w : BitVec 2) (r : BitVec 1) (s : BitVec 2)
  /-- Loads 128 bytes into a vector register under a predicate. (R147) -/
  | vld (d : BitVec 6) (l : BitVec 8) (c : BitVec 6) (p : BitVec 3)
  /-- Stores the active lanes of a vector register. (R147) -/
  | vst (d : BitVec 6) (l : BitVec 8) (c : BitVec 6) (p : BitVec 3)
  /-- Atomic read-modify-write of one element at its home. (R149) -/
  | amo (d : BitVec 6) (l : BitVec 8) (c : BitVec 6) (k : BitVec 3) (r : BitVec 2)
  /-- Applies a reduction to one element at its home without a result. (R150) -/
  | red (d : BitVec 6) (l : BitVec 8) (c : BitVec 6) (k : BitVec 3) (r : BitVec 1) (m : BitVec 1)
  /-- Orders the thread's accesses at a scope by kind. (R152) -/
  | fence (k : BitVec 2) (s : BitVec 3)
  /-- Hints a line into L1 or L2 without faulting. (R153) -/
  | pref (l : BitVec 8) (c : BitVec 6) (v : BitVec 2)
  /-- Writes back dirty bytes of directed lines in a range. (R252) -/
  | wbr (d : BitVec 6) (l : BitVec 8) (c : BitVec 6)
  /-- Removes directed lines overlapping a range, writing back dirty bytes outside it. (R253) -/
  | invr (d : BitVec 6) (l : BitVec 8) (c : BitVec 6)
  /-- Lane-wise 32-bit integer addition. (R198) -/
  | vadd (d : BitVec 6) (a : BitVec 6) (b : BitVec 6) (p : BitVec 3)
  /-- Lane-wise 32-bit integer subtraction. (R198) -/
  | vsub (d : BitVec 6) (a : BitVec 6) (b : BitVec 6) (p : BitVec 3)
  /-- Lane-wise low half of the 32-bit product. (R198) -/
  | vmul (d : BitVec 6) (a : BitVec 6) (b : BitVec 6) (p : BitVec 3)
  /-- Lane-wise signed minimum. (R198) -/
  | vmin (d : BitVec 6) (a : BitVec 6) (b : BitVec 6) (p : BitVec 3)
  /-- Lane-wise signed maximum. (R198) -/
  | vmax (d : BitVec 6) (a : BitVec 6) (b : BitVec 6) (p : BitVec 3)
  /-- Lane-wise unsigned minimum. (R198) -/
  | vminu (d : BitVec 6) (a : BitVec 6) (b : BitVec 6) (p : BitVec 3)
  /-- Lane-wise unsigned maximum. (R198) -/
  | vmaxu (d : BitVec 6) (a : BitVec 6) (b : BitVec 6) (p : BitVec 3)
  /-- Lane-wise bitwise AND. (R198) -/
  | vand (d : BitVec 6) (a : BitVec 6) (b : BitVec 6) (p : BitVec 3)
  /-- Lane-wise bitwise OR. (R198) -/
  | vor (d : BitVec 6) (a : BitVec 6) (b : BitVec 6) (p : BitVec 3)
  /-- Lane-wise bitwise XOR. (R198) -/
  | vxor (d : BitVec 6) (a : BitVec 6) (b : BitVec 6) (p : BitVec 3)
  /-- Lane-wise left shift. (R198) -/
  | vsll (d : BitVec 6) (a : BitVec 6) (b : BitVec 6) (p : BitVec 3)
  /-- Lane-wise logical right shift. (R198) -/
  | vsrl (d : BitVec 6) (a : BitVec 6) (b : BitVec 6) (p : BitVec 3)
  /-- Lane-wise arithmetic right shift. (R198) -/
  | vsra (d : BitVec 6) (a : BitVec 6) (b : BitVec 6) (p : BitVec 3)
  /-- Lane-wise saturating signed addition. (R198) -/
  | vadds (d : BitVec 6) (a : BitVec 6) (b : BitVec 6) (p : BitVec 3)
  /-- Lane-wise saturating signed subtraction. (R198) -/
  | vsubs (d : BitVec 6) (a : BitVec 6) (b : BitVec 6) (p : BitVec 3)
  /-- Lane-wise FP32 addition. (R199) -/
  | vfadd (d : BitVec 6) (a : BitVec 6) (b : BitVec 6) (p : BitVec 3)
  /-- Lane-wise FP32 subtraction. (R199) -/
  | vfsub (d : BitVec 6) (a : BitVec 6) (b : BitVec 6) (p : BitVec 3)
  /-- Lane-wise FP32 multiplication. (R199) -/
  | vfmul (d : BitVec 6) (a : BitVec 6) (b : BitVec 6) (p : BitVec 3)
  /-- Lane-wise FP32 minimum. (R199) -/
  | vfmin (d : BitVec 6) (a : BitVec 6) (b : BitVec 6) (p : BitVec 3)
  /-- Lane-wise FP32 maximum. (R199) -/
  | vfmax (d : BitVec 6) (a : BitVec 6) (b : BitVec 6) (p : BitVec 3)
  /-- Clears bit 31 of each active lane. (R199) -/
  | vfabs (d : BitVec 6) (a : BitVec 6) (p : BitVec 3)
  /-- Inverts bit 31 of each active lane. (R199) -/
  | vfneg (d : BitVec 6) (a : BitVec 6) (p : BitVec 3)
  /-- Lane-wise FP32 fused multiply-add into the destination. (R199) -/
  | vfma (d : BitVec 6) (a : BitVec 6) (b : BitVec 6) (p : BitVec 3)
  /-- Lane-wise FP32 fused multiply-subtract from the destination. (R199) -/
  | vfms (d : BitVec 6) (a : BitVec 6) (b : BitVec 6) (p : BitVec 3)
  /-- BF16 addition on each half of each active lane. (R200) -/
  | vbadd (d : BitVec 6) (a : BitVec 6) (b : BitVec 6) (p : BitVec 3)
  /-- BF16 multiplication on each half of each active lane. (R200) -/
  | vbmul (d : BitVec 6) (a : BitVec 6) (b : BitVec 6) (p : BitVec 3)
  /-- BF16 fused multiply-add on each half. (R200) -/
  | vbfma (d : BitVec 6) (a : BitVec 6) (b : BitVec 6) (p : BitVec 3)
  /-- Sets predicate lanes where the bit patterns are equal. (R202) -/
  | vceq (d : BitVec 6) (a : BitVec 6) (b : BitVec 6) (p : BitVec 3)
  /-- Sets predicate lanes where the bit patterns differ. (R202) -/
  | vcne (d : BitVec 6) (a : BitVec 6) (b : BitVec 6) (p : BitVec 3)
  /-- Signed less-than compare into a predicate. (R202) -/
  | vclt (d : BitVec 6) (a : BitVec 6) (b : BitVec 6) (p : BitVec 3)
  /-- Signed less-or-equal compare into a predicate. (R202) -/
  | vcle (d : BitVec 6) (a : BitVec 6) (b : BitVec 6) (p : BitVec 3)
  /-- Unsigned less-than compare into a predicate. (R202) -/
  | vcltu (d : BitVec 6) (a : BitVec 6) (b : BitVec 6) (p : BitVec 3)
  /-- Unsigned less-or-equal compare into a predicate. (R202) -/
  | vcleu (d : BitVec 6) (a : BitVec 6) (b : BitVec 6) (p : BitVec 3)
  /-- FP32 equality compare into a predicate. (R202) -/
  | vfceq (d : BitVec 6) (a : BitVec 6) (b : BitVec 6) (p : BitVec 3)
  /-- FP32 less-than compare into a predicate. (R202) -/
  | vfclt (d : BitVec 6) (a : BitVec 6) (b : BitVec 6) (p : BitVec 3)
  /-- FP32 less-or-equal compare into a predicate. (R202) -/
  | vfcle (d : BitVec 6) (a : BitVec 6) (b : BitVec 6) (p : BitVec 3)
  /-- Sets predicate lanes where either operand is NaN. (R202) -/
  | vfcun (d : BitVec 6) (a : BitVec 6) (b : BitVec 6) (p : BitVec 3)
  /-- Selects each lane from a or b by predicate bit. (R203) -/
  | vsel (d : BitVec 6) (a : BitVec 6) (b : BitVec 6) (p : BitVec 3)
  /-- AND of two predicates. (R203) -/
  | pand (d : BitVec 6) (a : BitVec 6) (b : BitVec 6)
  /-- OR of two predicates. (R203) -/
  | por (d : BitVec 6) (a : BitVec 6) (b : BitVec 6)
  /-- XOR of two predicates. (R203) -/
  | pxor (d : BitVec 6) (a : BitVec 6) (b : BitVec 6)
  /-- Complement of a predicate. (R203) -/
  | pnot (d : BitVec 6) (a : BitVec 6)
  /-- Converts signed 32-bit lanes to FP32. (R204) -/
  | vcvtif (d : BitVec 6) (a : BitVec 6) (p : BitVec 3)
  /-- Converts FP32 lanes to signed 32-bit integers toward zero. (R204) -/
  | vcvtfi (d : BitVec 6) (a : BitVec 6) (p : BitVec 3)
  /-- Narrows an FP32 group to a packed format with RNE. (R206) -/
  | vcvtn (d : BitVec 6) (a : BitVec 6) (t : BitVec 4)
  /-- Narrows an FP32 group to a packed format toward zero. (R206) -/
  | vcvtz (d : BitVec 6) (a : BitVec 6) (t : BitVec 4)
  /-- Narrows an FP32 group with stochastic rounding, advancing generators. (R206) -/
  | vcvts (d : BitVec 6) (a : BitVec 6) (t : BitVec 4)
  /-- Widens a packed group exactly to FP32. (R207) -/
  | vcvtw (d : BitVec 6) (a : BitVec 6) (t : BitVec 4)
  /-- Approximate reciprocal rounded to G12. (R208) -/
  | vrcp (d : BitVec 6) (a : BitVec 6) (p : BitVec 3)
  /-- Approximate reciprocal square root rounded to G12. (R208) -/
  | vrsqrt (d : BitVec 6) (a : BitVec 6) (p : BitVec 3)
  /-- Base-2 exponential by the Horner evaluation of R194. (R208) -/
  | vexp2 (d : BitVec 6) (a : BitVec 6) (p : BitVec 3)
  /-- Base-2 logarithm rounded to G16. (R208) -/
  | vlog2 (d : BitVec 6) (a : BitVec 6) (p : BitVec 3)
  /-- Lane-wise FP32 division; parks for 24 cycles. (R201) -/
  | vfdiv (d : BitVec 6) (a : BitVec 6) (b : BitVec 6) (p : BitVec 3)
  /-- Lane-wise FP32 square root; parks for 24 cycles. (R201) -/
  | vfsqrt (d : BitVec 6) (a : BitVec 6) (p : BitVec 3)
  /-- Wrapped integer sum of active lanes into a scalar. (R209) -/
  | vredadd (d : BitVec 6) (a : BitVec 6) (p : BitVec 3)
  /-- Fixed-tree FP32 sum of active lanes into a scalar. (R210) -/
  | vredfadd (d : BitVec 6) (a : BitVec 6) (p : BitVec 3)
  /-- Largest signed active lane into a scalar. (R209) -/
  | vredmax (d : BitVec 6) (a : BitVec 6) (p : BitVec 3)
  /-- Largest FP32 active lane into a scalar. (R209) -/
  | vredfmax (d : BitVec 6) (a : BitVec 6) (p : BitVec 3)
  /-- Smallest signed active lane into a scalar. (R209) -/
  | vredmin (d : BitVec 6) (a : BitVec 6) (p : BitVec 3)
  /-- Smallest FP32 active lane into a scalar. (R209) -/
  | vredfmin (d : BitVec 6) (a : BitVec 6) (p : BitVec 3)
  /-- Inclusive wrapped integer prefix sum over active lanes. (R211) -/
  | vscanadd (d : BitVec 6) (a : BitVec 6) (p : BitVec 3)
  /-- Sequential FP32 prefix sum over active lanes. (R211) -/
  | vscanfadd (d : BitVec 6) (a : BitVec 6) (p : BitVec 3)
  /-- Permutes lanes by indices in another vector. (R212) -/
  | vperm (d : BitVec 6) (a : BitVec 6) (b : BitVec 6)
  /-- Broadcasts a scalar into active lanes. (R212) -/
  | vbcast (d : BitVec 6) (a : BitVec 6) (p : BitVec 3)
  /-- Rotates lanes by a scalar amount. (R212) -/
  | vrot (d : BitVec 6) (a : BitVec 6) (b : BitVec 6)
  /-- Extracts one lane into a scalar. (R212) -/
  | vextr (d : BitVec 6) (a : BitVec 6) (b : BitVec 6)
  /-- Inserts a scalar into one lane. (R212) -/
  | vinsr (d : BitVec 6) (a : BitVec 6) (b : BitVec 6)
  /-- Copies a window register named by a scalar index into a vector. (R214) -/
  | vmovi (d : BitVec 6) (a : BitVec 6)
  /-- Copies a vector into a window register named by a scalar index. (R214) -/
  | vstoi (d : BitVec 6) (a : BitVec 6)
  /-- Gathers words across lanes from window registers. (R215) -/
  | vgath (d : BitVec 6) (a : BitVec 6) (b : BitVec 6) (p : BitVec 3)
  /-- Reads per-lane from indexed window registers. (R215) -/
  | vldx (d : BitVec 6) (a : BitVec 6) (b : BitVec 6) (p : BitVec 3)
  /-- Writes per-lane into indexed window registers. (R215) -/
  | vstx (d : BitVec 6) (a : BitVec 6) (b : BitVec 6) (p : BitVec 3)
  /-- Packs nonzero lanes into value and gap streams under a cursor. (R217) -/
  | vcompress (d : BitVec 6) (a : BitVec 6) (b : BitVec 6) (p : BitVec 3)
  /-- Rebuilds a vector from compacted streams under a cursor. (R218) -/
  | vexpand (d : BitVec 6) (a : BitVec 6) (b : BitVec 6) (p : BitVec 3)
  /-- Writes the lane number into every lane. (R213) -/
  | viota (d : BitVec 6)
  /-- Counts set bits of a predicate into a scalar. (R213) -/
  | vpopc (d : BitVec 6) (a : BitVec 6)
  /-- Term-array tile product accumulated into a locked accumulator tile; parks the thread. (R226) -/
  | mma (e : BitVec 5) (a : BitVec 6) (b : BitVec 6) (f : BitVec 2) (z : BitVec 1) (u : BitVec 1)
  /-- Zeroes an accumulator tile. (R229) -/
  | acczero (e : BitVec 5)
  /-- Loads an accumulator tile from 8 window registers. (R229) -/
  | accld (e : BitVec 5) (a : BitVec 6)
  /-- Stores an accumulator tile into 8 window registers. (R229) -/
  | accst (e : BitVec 5) (a : BitVec 6)
  /-- Converts an accumulator tile to a packed format in window registers. (R230) -/
  | acccvt (e : BitVec 5) (a : BitVec 6) (f : BitVec 2)
  /-- Writes a shadow format register, relocating scale indices. (R231) -/
  | fmtw (d : BitVec 6) (a : BitVec 6)
  /-- Reads a shadow format register with window-relative indices. (R231) -/
  | fmtr (d : BitVec 6) (a : BitVec 6)
  /-- Near-bank matrix-vector product into registers or memory. (R234) -/
  | nbmv (d : BitVec 6) (l : BitVec 8) (c : BitVec 6) (t : BitVec 2) (f : BitVec 2)
  /-- Reads a term counter. (R237) -/
  | termrd (d : BitVec 6) (a : BitVec 6)
  /-- Clears one term counter or all of them. (R237) -/
  | termclr (a : BitVec 6)
  /-- Checks and hands a tile copy to the cluster's copy engine, writing XCLIP. (R241) -/
  | xcopy (a : BitVec 6) (s : BitVec 3)
  /-- Reads a source tile and multicasts it to subscribers of a tag. (R249) -/
  | xmcast (a : BitVec 6) (s : BitVec 3)
  /-- Subscribes the cluster to a multicast tag and sends a join. (R247) -/
  | msub (a : BitVec 6)
  /-- Removes the cluster's subscription to a tag and sends a leave. (R247) -/
  | munsub (a : BitVec 6)
  /-- Starts a gather stream on the access processor. (R307) -/
  | apgather (d : BitVec 6) (a : BitVec 6)
  /-- Starts a scatter stream on the access processor. (R310) -/
  | apscatter (d : BitVec 6) (a : BitVec 6)
  /-- Starts a scatter-add stream applying reductions per word. (R311) -/
  | apscatteradd (d : BitVec 6) (a : BitVec 6)
  /-- Starts a binning stream in COUNT or PLACE mode. (R316) -/
  | apbin (d : BitVec 6) (a : BitVec 6) (m : BitVec 1)
  /-- Pops the next unit of a gather queue into a vector register. (R309) -/
  | apqpop (d : BitVec 6) (a : BitVec 6)
  /-- Pushes a vector register as the next unit of a scatter queue. (R313) -/
  | apqpush (d : BitVec 6) (a : BitVec 6)
  /-- Waits for a stream to end and reads its status. (R318) -/
  | apwait (d : BitVec 6) (a : BitVec 6)
  /-- Reads the status of an AP queue. (R319) -/
  | apqstat (d : BitVec 6) (a : BitVec 6)
  /-- Sends a 64-bit value to a mailbox of another core as a release. (R113) -/
  | send (i : BitVec 5) (a : BitVec 6) (b : BitVec 6)
  /-- Consumes a mailbox value, or parks while it is empty. (R115) -/
  | mrecv (d : BitVec 6) (a : BitVec 6)
  /-- Reads mailbox presence bits and queue occupancy. (R115) -/
  | mpoll (d : BitVec 6)
  /-- Arms a CSM word for the thread and reads it atomically. (R154) -/
  | watch (d : BitVec 6) (l : BitVec 8) (c : BitVec 6)
  /-- Disarms the thread's watch on a word. (R156) -/
  | unwatch (l : BitVec 8) (c : BitVec 6)
  /-- Parks until a watch fires or a timeout runs out. (R155) -/
  | waitw (d : BitVec 6) (a : BitVec 6)
  /-- Configures or frees a hardware barrier object. (R117) -/
  | barcfg (d : BitVec 6) (a : BitVec 6)
  /-- Sends one arrival to a barrier object and parks. (R118) -/
  | barrier (a : BitVec 6)
  /-- Reads a barrier's phase number and arrivals. (R119) -/
  | barpoll (d : BitVec 6) (a : BitVec 6)
  /-- Grants Moraine pages, zeroes them and writes a layout entry. (R329) -/
  | mgrant (d : BitVec 6) (a : BitVec 6) (m : BitVec 1)
  /-- Releases and frees Moraine pages of a range. (R330) -/
  | mrelease (d : BitVec 6) (a : BitVec 6)
  /-- Reads remaining Moraine budget and switch quotas. (R331) -/
  | mquota (d : BitVec 6)
  /-- Sends a contribution to an in-switch reduction object as a fabric release. (R336) -/
  | fred (a : BitVec 6) (k : BitVec 3)
  /-- Sends one arrival to a fabric barrier and parks. (R340) -/
  | fbarrier (a : BitVec 6)
  /-- Reads a fabric barrier's phase and arrivals. (R341) -/
  | fbarpoll (d : BitVec 6) (a : BitVec 6)
  /-- Reads a control-state register. (R290) -/
  | csrr (d : BitVec 6) (n : BitVec 12)
  /-- Writes a control-state register. (R290) -/
  | csrw (a : BitVec 6) (n : BitVec 12)
  /-- Raises ECALL precisely. (R287) -/
  | ecall
  /-- Raises BREAK, or stops the core when debug is enabled. (R287) -/
  | ebreak
  /-- Resolves the TSEL record with RESUME. (R287) -/
  | tret
  /-- Reads the package timebase. (R288) -/
  | rdtime (d : BitVec 6)
  /-- Reads the core's cycle count. (R288) -/
  | rdcycle (d : BitVec 6)
  /-- Reads the thread's completed instruction count. (R288) -/
  | rdinsn (d : BitVec 6)
  /-- Drops cached translations module-wide and waits for users to drain. (R133) -/
  | tlbinv (a : BitVec 6) (b : BitVec 6)
  /-- Parks a CCC thread until a record, a pre-emption end or a timeout. (R289) -/
  | wfi
  /-- The all-zero word; raises ILLEGAL in every mode and unit. (R71) -/
  | illegal
  /-- A write of an RCB address sets BUSY and starts a region launch, or sets LOST while busy. (R28) -/
  | rgnstart (m : Nat) (v : BitVec 64)
  /-- The HTS reads and checks the RCB, assigns a region number, allocates CSM, enters the initial descriptors and clears BUSY. (R28) -/
  | regionLaunch (m : Nat)
  /-- When all work has ended the HTS writes STATE 2 as a release and frees the region's resources. (R29) -/
  | regionFinish (m r : Nat)
  /-- On a freed slot or a newly ready task the slice chooses and places a task, or marks it held. (R44) -/
  | taskDispatch (cl : Nat)
  /-- The copy engine stages a dispatched task's input tiles before its first issue. (R40) -/
  | tileStaging (t : Nat)
  /-- A slice with a free slot and no fitting ready task takes one unordered task from another slice. (R46) -/
  | taskSteal (cl : Nat)
  /-- A complete ageing interval raises a ready task's effective priority by one level up to CEIL. (R45) -/
  | ageingInterval (cl dslot : Nat)
  /-- Every 256 ticks the package recomputes GVT and OLDEST and commits finished-speculative tasks below GVT. (R48) -/
  | gvtRecompute (m : Nat)
  /-- A parked thread's reply arrives, its destination is written and it wakes. (R42) -/
  | accessResponse (t : Nat) (delay : BitVec 16)
  /-- A scalar integer divide finishes after its data-dependent latency and wakes the thread. (R93) -/
  | divideComplete (t : Nat)
  /-- FDIV or FSQRT finishes 20 cycles after issue and wakes the thread. (R93) -/
  | fpDivideComplete (t : Nat)
  /-- VFDIV or VFSQRT writes all lanes 24 cycles after issue and wakes the thread. (R196) -/
  | vectorDivideComplete (t : Nat)
  /-- A queued MMA starts on the term array after the previous MMA's last array cycle. (R223) -/
  | mmaArrayStart (t : Nat)
  /-- An MMA writes its tile, clears the lock, adds term counters and wakes its thread. (R223) -/
  | mmaComplete (t : Nat)
  /-- The head side-log entry is retried after its fault is serviced and entries replay in order. (R138) -/
  | sideLogReplay (g : Nat)
  /-- A WAITW's tick timeout runs out with no watch fired and the thread wakes with 0. (R155) -/
  | waitwTimeout (t : Nat)
  /-- A sent value arrives at a core, filling a mailbox or the inbound queue. (R114) -/
  | mailboxArrival (i : Nat)
  /-- An explicit transaction aborts, discards its work and restores the thread to the fallback target. (R262) -/
  | runAbort (t cause code : Nat)
  /-- An ordered run aborts, its task returns to ready and its children are squashed. (R273) -/
  | orderedAbort (cl dslot cause code : Nat)
  /-- A waiting thread receives the die's irrevocable token. (R264) -/
  | tokenGrant (d : Nat)
  /-- A PAGE, ASSIST or ECALL record enters the CCC trap queue when there is room. (R280) -/
  | trapQueueEntry (h : BitVec 64)
  /-- The hub walks the fault-domain chain and enters the handler task for a record. (R281) -/
  | handlerEntry (h : BitVec 64)
  /-- Resolving a record with RESUME restarts the thread, entry, staging or task. (R283) -/
  | tresResume (h : BitVec 64)
  /-- Resolving a record with SKIP resumes at TPC+4 or removes the head entry. (R283) -/
  | tresSkip (h : BitVec 64)
  /-- Resolving a record with DISCARD aborts the task or removes the entry. (R283) -/
  | tresDiscard (h : BitVec 64)
  /-- Resolving a record with FORWARD continues it up the fault-domain chain. (R283) -/
  | tresForward (h : BitVec 64)
  /-- Reading TQ returns the oldest unread record handle and marks it read. (R290) -/
  | tq (d : BitVec 6)
  /-- Reads or writes the state of the TSEL thread selected by TXIDX. (R292) -/
  | txdata (wr : Bool) (r : BitVec 6)
  /-- A PRECTL save stops issue, aborts runs and drains the residency. (R294) -/
  | preemptSave (cl : Nat) (v : BitVec 64)
  /-- After the drain the image is written incrementally and the residency ends. (R296) -/
  | saveImageWrite (cl : Nat)
  /-- A PRECTL restore reads an image onto a core with no residency. (R298) -/
  | preemptRestore (cl : Nat) (v : BitVec 64)
  /-- A PRECTL discard aborts the image's tasks and frees its budget. (R299) -/
  | imageDiscard (cl : Nat) (v : BitVec 64)
  /-- The copy engine accepts a copy when it has room, translates parts, takes X lines and wakes the thread. (R242) -/
  | copyAccept (cl : Nat)
  /-- After all parts are written or skipped the engine decrements the counter as a release. (R243) -/
  | copyComplete (cl i : Nat)
  /-- An NBMV.L2 finishes writing results and decrements its counter as a release. (R235) -/
  | nbmvComplete (cl i : Nat)
  /-- The AP accepts a stream when a slot frees and writes the slot number. (R302) -/
  | streamAccept (cl : Nat)
  /-- The AP reads indices and elements of a gather into its queue while there is room. (R307) -/
  | gatherRunahead (cl slot : Nat)
  /-- The AP writes or reduces an accepted scatter element when its value is present. (R311) -/
  | scatterElementWrite (cl slot : Nat)
  /-- The AP counts or places one particle in its cell. (R316) -/
  | binningParticle (cl slot : Nat)
  /-- A stream completes or stops, records its status and decrements its counter as a release. (R317) -/
  | streamEnd (cl slot : Nat)
  /-- A write starts installing a collective object descriptor on a switch. (R334) -/
  | fcolcfg (m : Nat) (v : BitVec 64)
  /-- A read request packet arrives and is performed at its home. (R323) -/
  | firnRd (i : Nat)
  /-- A write request packet arrives and is performed at its home. (R323) -/
  | firnWr (i : Nat)
  /-- An atomic request packet is performed at its home. (R149) -/
  | firnAmo (i : Nat)
  /-- A reduction request packet is applied at its home. (R150) -/
  | firnRed (i : Nat)
  /-- A mailbox value packet arrives for a destination core. (R113) -/
  | firnSend (i : Nat)
  /-- A switch receives a grant request and allocates and zeroes pages. (R329) -/
  | firnMgrant (i : Nat)
  /-- A switch receives a release request and frees pages. (R330) -/
  | firnMrelease (i : Nat)
  /-- A switch receives a quota query and answers it. (R331) -/
  | firnMquota (i : Nat)
  /-- A join packet sets the tag bit for its arrival port on each hop. (R248) -/
  | firnJoin (i : Nat)
  /-- A leave packet clears tag bits no longer needed below a port. (R248) -/
  | firnLeave (i : Nat)
  /-- A switch receives and installs a collective object descriptor. (R334) -/
  | firnFcfg (i : Nat)
  /-- A switch answers a fabric barrier poll. (R341) -/
  | firnFbpoll (i : Nat)
  /-- A data response arrives for its request. (R323) -/
  | firnRdata (i : Nat) (delay : BitVec 16)
  /-- An acknowledgement arrives, completing a posted or parked request, possibly with an error. (R144) -/
  | firnAck (i : Nat) (delay : BitVec 16)
  /-- A negative acknowledgement arrives and the source retransmits with the same SEQ. (R324) -/
  | firnNak (i : Nat)
  /-- A packet ended with STOMP is discarded whole and a NAK is sent. (R324) -/
  | stompedPacket (i : Nat)
  /-- A reduction contribution arrives at its object and is stored or queued for a later round. (R337) -/
  | firnFcontrib (i : Nat)
  /-- A contribution acknowledgement, accepted or withdrawn, arrives. (R343) -/
  | firnFrack (i : Nat)
  /-- A module's fabric barrier arrival reaches the switch. (R340) -/
  | firnFbarr (i : Nat)
  /-- A waiting contribution is withdrawn at the switch. (R343) -/
  | firnFwdraw (i : Nat)
  /-- A multicast data packet is copied at branch points and written at receivers. (R249) -/
  | firnMcdata (i : Nat)
  /-- A reduction result packet is delivered and written by subscribers. (R337) -/
  | firnMcresult (i : Nat)
  /-- A fabric barrier release reaches a hub and wakes the phase's threads. (R340) -/
  | firnFbrel (i : Nat)
  /-- A multicast acknowledgement returns; the last one completes the sender's counter. (R249) -/
  | firnMcack (i : Nat)
  /-- A switch failure declaration reaches a hub, which applies the loss and failover rules. (R333) -/
  | firnSwfail (m sw : Nat)
  /-- DCTL.HALT asks the core to stop. (R345) -/
  | debugHalt (g : Nat)
  /-- DCTL.STEP resumes a core for one instruction of slot SSLOT. (R345) -/
  | debugStep (g slot : Nat)
  /-- DCTL.RESUME resumes a stopped core. (R345) -/
  | debugResume (g : Nat)
  /-- A stop takes effect and the core issues nothing further. (R347) -/
  | coreStop (g : Nat)
  /-- A thread about to issue a breakpointed word stops, traces or traps. (R350) -/
  | breakpointMatch (t : Nat)
  /-- Reads or writes the selected state of a thread of a stopped core. (R349) -/
  | ddata (g : Nat) (wr : Bool) (v : BitVec 64)
  /-- TCTL.FLUSH writes every formed trace record. (R354) -/
  | traceFlush (g : Nat)
  /-- Every PERIOD cycles the encoder forms a SAMPLE record. (R355) -/
  | traceSample (g : Nat)
  /-- Clears all remote-delay accumulators. (R358) -/
  | dlyclr (g : Nat) (v : BitVec 64)
  /-- Module reset starts the management cluster's boot sequence, with the ERR and the step of the failure that it will meet, or 0, and the version of its image. (R361) -/
  | boot (m : Nat) (failure : Nat × Nat) (version : Nat)
  /-- A service call returns the signed measurement report for a nonce. (R362) -/
  | measurementReport (m nonce : Nat)
  /-- A service call returns the identity public key. (R362) -/
  | identityKey (m : Nat)
  /-- The management cluster loads an AES-256-XTS key slot. (R363) -/
  | keyLoad (m slot key : Nat)
  /-- Every 10,000 ticks PWR is compared with PLIM and dies move VF state. (R365) -/
  | powerLimitCheck (m watts die : Nat)
  /-- A sensor at its limit moves the die down one VF state per interval; the sensor's number and what it reads, in 1/16 of a degree. (R366) -/
  | thermalThrottle (m : Nat) (reading : Nat × BitVec 16)
  /-- A sensor at the trip point stops all cores and takes the Firn ports down. (R366) -/
  | thermalTrip (m : Nat)
  /-- Hourly sampling recomputes VF voltages and margins. (R367) -/
  | ageingSample (m die : Nat) (margins : BitVec 64) (volts : List Nat)
  /-- A detected memory error is counted in SECNT. (R368) -/
  | softError (m die kind : Nat) (loc : Option Nat)
  /-- A WFI thread wakes on a record, a pre-emption end or its timeout. (R289) -/
  | wfiWake (t : Nat)
  /-- A write to a register without a row of its own stores or clears bits per its access code. (R6) -/
  | registerWrite (m pa : Nat) (v : BitVec 64)
  /-- A cache evicts a line: a directed copy merges its dirty bytes into memory and is removed, and a speculatively written L1 line goes to its home in state W. (R168) -/
  | eviction (d line : Nat)
  /-- A read or write from the host over the host link reaches device memory under PCI Express ordering; its address and its bytes. (R172) -/
  | hostAccess (m : Nat) (range : Nat × Nat) (wr : Bool) (v : BitVec 64)
  /-- A switch replaces a failed one and starts with empty page maps, so accesses to formerly LOST pages raise PAGE. (R333) -/
  | switchReplacement (sw : Nat)
  /-- The pod is configured: module numbers are assigned and the switches' routing tables are loaded with their random intermediate pods. (R17) -/
  | podConfiguration (pod : Nat) (mods : List Nat)
  /-- The management cluster sets a tenant's page quota on a switch, which bounds later grants there. (R327) -/
  | tenantQuota (sw ctx pages : Nat)
  /-- A die's VF transition completes and its halted clock runs again at the new state. (R365) -/
  | vfTransitionEnd (m die : Nat)
  deriving DecidableEq, Repr

end Sys2Proof
end

