-- ==== Sys2Proof/WellFormed.lean ====
section
/-! DEFINITION. When the fields of an instruction are ones an instruction word may carry (04_formats, R55, R56, R60 to R68). -/

namespace Sys2Proof

/-- The CSR numbers that R290 assigns. -/
def csrAssigned (n : Nat) : Bool :=
  (1 ≤ n && n ≤ 4) || (0x10 ≤ n && n ≤ 0x1F) || (0x800 ≤ n && n ≤ 0x80B) || (0x810 ≤ n && n ≤ 0x812) || (0x820 ≤ n && n ≤ 0x824)

/-- The assigned CSR numbers whose access is RO (R290). -/
def csrReadOnly (n : Nat) : Bool :=
  n == 0x004 || n == 0x800 || n == 0x802 || n == 0x803 || n == 0x805 || (0x808 ≤ n && n ≤ 0x80B) || n == 0x811

/-- Registers of the FP32 group of a conversion with format code `t` (R205). -/
def cvtWide (t : Nat) : Nat :=
  if t = 1 ∨ t = 2 then 2 else if t = 3 ∨ t = 4 ∨ t = 8 then 4 else if t = 5 ∨ t = 6 then 16 else 8

/-- Registers of the packed group of a conversion with format code `t` (R205). -/
def cvtPacked (t : Nat) : Nat := if t = 5 ∨ t = 6 then 3 else 1

/-- Step 2 of R68: every modifier, every combination and the CSR number is assigned (R60 to R67), and a modifier sub-field
that the chosen values make zero-class holds zero (R55, R63). -/
def Instr.modifiersOk : Instr → Bool
  | .br _ _ n _ => decide (n.toNat ≤ 5)
  | .brp _ n _ => decide (n.toNat ≤ 2)
  | .ld _ _ _ _ r s => decide ((r.toNat = 0 → s.toNat = 0))
  | .lds _ _ _ w r s => decide ((r.toNat = 0 → s.toNat = 0) ∧ w.toNat ≠ 3)
  | .st _ _ _ _ r s => decide ((r.toNat = 0 → s.toNat = 0))
  | .red _ _ _ k _ m => decide (¬ (k.toNat = 7 ∧ m.toNat = 1))
  | .fence _ s => decide (s.toNat ≤ 5)
  | .pref _ _ v => decide (v.toNat ≤ 1)
  | .vcvtn _ _ t => decide (1 ≤ t.toNat ∧ t.toNat ≤ 9)
  | .vcvtz _ _ t => decide (1 ≤ t.toNat ∧ t.toNat ≤ 9)
  | .vcvts _ _ t => decide (1 ≤ t.toNat ∧ t.toNat ≤ 9)
  | .vcvtw _ _ t => decide (1 ≤ t.toNat ∧ t.toNat ≤ 9)
  | .nbmv _ _ _ t _ => decide (t.toNat ≤ 1)
  | .xcopy _ s => decide (s.toNat ≤ 5)
  | .xmcast _ s => decide (s.toNat ≤ 5)
  | .fred _ k => decide (k.toNat ≤ 5)
  | .csrr _ n => decide (csrAssigned n.toNat)
  | .csrw _ n => decide (csrAssigned n.toNat ∧ ¬ csrReadOnly n.toNat)
  | _ => true

/-- Step 4 of R68, as far as the word decides it: groups end at or below the last register and a written group does not
start at s0; predicates, mailboxes and format registers exist; p0 is not written (R56, R197). -/
def Instr.registersOk : Instr → Bool
  | .brp a _ _ => decide (a.toNat < 8)
  | .dqpush a => decide (a.toNat ≤ 61)
  | .dqpop d => decide (1 ≤ d.toNat ∧ d.toNat ≤ 61)
  | .dqsplit d _ => decide (1 ≤ d.toNat ∧ d.toNat ≤ 61)
  | .dqsteal d => decide (1 ≤ d.toNat ∧ d.toNat ≤ 61)
  | .amo d _ _ k _ => decide ((k.toNat = 7 → 1 ≤ d.toNat ∧ d.toNat ≤ 62))
  | .vceq d _ _ _ => decide (1 ≤ d.toNat ∧ d.toNat < 8)
  | .vcne d _ _ _ => decide (1 ≤ d.toNat ∧ d.toNat < 8)
  | .vclt d _ _ _ => decide (1 ≤ d.toNat ∧ d.toNat < 8)
  | .vcle d _ _ _ => decide (1 ≤ d.toNat ∧ d.toNat < 8)
  | .vcltu d _ _ _ => decide (1 ≤ d.toNat ∧ d.toNat < 8)
  | .vcleu d _ _ _ => decide (1 ≤ d.toNat ∧ d.toNat < 8)
  | .vfceq d _ _ _ => decide (1 ≤ d.toNat ∧ d.toNat < 8)
  | .vfclt d _ _ _ => decide (1 ≤ d.toNat ∧ d.toNat < 8)
  | .vfcle d _ _ _ => decide (1 ≤ d.toNat ∧ d.toNat < 8)
  | .vfcun d _ _ _ => decide (1 ≤ d.toNat ∧ d.toNat < 8)
  | .pand d a b => decide (1 ≤ d.toNat ∧ d.toNat < 8 ∧ a.toNat < 8 ∧ b.toNat < 8)
  | .por d a b => decide (1 ≤ d.toNat ∧ d.toNat < 8 ∧ a.toNat < 8 ∧ b.toNat < 8)
  | .pxor d a b => decide (1 ≤ d.toNat ∧ d.toNat < 8 ∧ a.toNat < 8 ∧ b.toNat < 8)
  | .pnot d a => decide (1 ≤ d.toNat ∧ d.toNat < 8 ∧ a.toNat < 8)
  | .vcvtn d a t => decide (a.toNat + cvtWide t.toNat ≤ 64 ∧ d.toNat + cvtPacked t.toNat ≤ 64)
  | .vcvtz d a t => decide (a.toNat + cvtWide t.toNat ≤ 64 ∧ d.toNat + cvtPacked t.toNat ≤ 64)
  | .vcvts d a t => decide (a.toNat + cvtWide t.toNat ≤ 64 ∧ d.toNat + cvtPacked t.toNat ≤ 64)
  | .vcvtw d a t => decide (d.toNat + cvtWide t.toNat ≤ 64 ∧ a.toNat + cvtPacked t.toNat ≤ 64)
  | .vpopc _ a => decide (a.toNat < 8)
  | .fmtw d _ => decide (d.toNat < 4)
  | .fmtr _ a => decide (a.toNat < 4)
  | .nbmv d _ _ _ _ => decide (d.toNat ≤ 60)
  | .xcopy a _ => decide (a.toNat ≤ 60)
  | .xmcast a _ => decide (a.toNat ≤ 60)
  | .apgather _ a => decide (a.toNat ≤ 60)
  | .apscatter _ a => decide (a.toNat ≤ 60)
  | .apscatteradd _ a => decide (a.toNat ≤ 60)
  | .apbin _ a _ => decide (a.toNat ≤ 60)
  | .mrecv _ a => decide (a.toNat < 32)
  | .barcfg _ a => decide (a.toNat ≤ 60)
  | .mgrant _ a _ => decide (a.toNat ≤ 60)
  | .mrelease _ a => decide (a.toNat ≤ 62)
  | .mquota d => decide (1 ≤ d.toNat ∧ d.toNat ≤ 62)
  | .fred a _ => decide (a.toNat ≤ 60)
  | _ => true

/-- The instruction has a word: it is no step of the machine without one. -/
def Instr.hasWord : Instr → Bool
  | .rgnstart .. => false
  | .regionLaunch .. => false
  | .regionFinish .. => false
  | .taskDispatch .. => false
  | .tileStaging .. => false
  | .taskSteal .. => false
  | .ageingInterval .. => false
  | .gvtRecompute .. => false
  | .accessResponse .. => false
  | .divideComplete .. => false
  | .fpDivideComplete .. => false
  | .vectorDivideComplete .. => false
  | .mmaArrayStart .. => false
  | .mmaComplete .. => false
  | .sideLogReplay .. => false
  | .waitwTimeout .. => false
  | .mailboxArrival .. => false
  | .runAbort .. => false
  | .orderedAbort .. => false
  | .tokenGrant .. => false
  | .trapQueueEntry .. => false
  | .handlerEntry .. => false
  | .tresResume .. => false
  | .tresSkip .. => false
  | .tresDiscard .. => false
  | .tresForward .. => false
  | .tq .. => false
  | .txdata .. => false
  | .preemptSave .. => false
  | .saveImageWrite .. => false
  | .preemptRestore .. => false
  | .imageDiscard .. => false
  | .copyAccept .. => false
  | .copyComplete .. => false
  | .nbmvComplete .. => false
  | .streamAccept .. => false
  | .gatherRunahead .. => false
  | .scatterElementWrite .. => false
  | .binningParticle .. => false
  | .streamEnd .. => false
  | .fcolcfg .. => false
  | .firnRd .. => false
  | .firnWr .. => false
  | .firnAmo .. => false
  | .firnRed .. => false
  | .firnSend .. => false
  | .firnMgrant .. => false
  | .firnMrelease .. => false
  | .firnMquota .. => false
  | .firnJoin .. => false
  | .firnLeave .. => false
  | .firnFcfg .. => false
  | .firnFbpoll .. => false
  | .firnRdata .. => false
  | .firnAck .. => false
  | .firnNak .. => false
  | .stompedPacket .. => false
  | .firnFcontrib .. => false
  | .firnFrack .. => false
  | .firnFbarr .. => false
  | .firnFwdraw .. => false
  | .firnMcdata .. => false
  | .firnMcresult .. => false
  | .firnFbrel .. => false
  | .firnMcack .. => false
  | .firnSwfail .. => false
  | .debugHalt .. => false
  | .debugStep .. => false
  | .debugResume .. => false
  | .coreStop .. => false
  | .breakpointMatch .. => false
  | .ddata .. => false
  | .traceFlush .. => false
  | .traceSample .. => false
  | .dlyclr .. => false
  | .boot .. => false
  | .measurementReport .. => false
  | .identityKey .. => false
  | .keyLoad .. => false
  | .powerLimitCheck .. => false
  | .thermalThrottle .. => false
  | .thermalTrip .. => false
  | .ageingSample .. => false
  | .softError .. => false
  | .wfiWake .. => false
  | .registerWrite .. => false
  | .eviction .. => false
  | .hostAccess .. => false
  | .switchReplacement .. => false
  | .podConfiguration .. => false
  | .tenantQuota .. => false
  | .vfTransitionEnd .. => false
  | _ => true

/-- An instruction that a word can carry. -/
def Instr.wellFormed (i : Instr) : Bool := i.hasWord && i.modifiersOk && i.registersOk

end Sys2Proof
end

