-- ==== Sys2Proof/Decode.lean ====
section
/-! DEFINITION. The decoder of instruction words, total on any bytes, and the encoder (04_formats, R52 to R71). -/

namespace Sys2Proof

/-- Why the decoder rejects a word (R68). Every rejection raises ILLEGAL when the word is fetched. -/
inductive Reject where
  /-- step 1: the major opcode is unassigned -/
  | opcode
  /-- step 2: the function value is unassigned for the major opcode -/
  | function
  /-- step 2: a modifier or a combination is unassigned, or the CSR number is -/
  | modifier
  /-- step 3: a zero-class field or a reserved sub-field is not zero -/
  | zeroField
  /-- step 4: a register field lies outside its class -/
  | register
  /-- fewer bytes than a word holds -/
  | short
  deriving DecidableEq, Repr

/-- The field of `n` bits of word `w` whose lowest bit is `lo` (R54). -/
def fld (w lo n : Nat) : Nat := w / 2 ^ lo % 2 ^ n

/-- Fixed bits `k` with fields of the widths and lowest bits in the name (R54). -/
def pack6at7_6at13_6at19 (k : Nat) (p : BitVec 6) (q : BitVec 6) (r : BitVec 6) : Nat := k + p.toNat * 2 ^ 7 + q.toNat * 2 ^ 13 + r.toNat * 2 ^ 19

/-- Fixed bits `k` with fields of the widths and lowest bits in the name (R54). -/
def pack6at7_6at13 (k : Nat) (p : BitVec 6) (q : BitVec 6) : Nat := k + p.toNat * 2 ^ 7 + q.toNat * 2 ^ 13

/-- Fixed bits `k` with fields of the widths and lowest bits in the name (R54). -/
def pack6at7_6at13_13at19 (k : Nat) (p : BitVec 6) (q : BitVec 6) (r : BitVec 13) : Nat := k + p.toNat * 2 ^ 7 + q.toNat * 2 ^ 13 + r.toNat * 2 ^ 19

/-- Fixed bits `k` with fields of the widths and lowest bits in the name (R54). -/
def pack6at7_6at13_6at19_6at25 (k : Nat) (p : BitVec 6) (q : BitVec 6) (r : BitVec 6) (s : BitVec 6) : Nat := k + p.toNat * 2 ^ 7 + q.toNat * 2 ^ 13 + r.toNat * 2 ^ 19 + s.toNat * 2 ^ 25

/-- Fixed bits `k` with fields of the widths and lowest bits in the name (R54). -/
def pack6at7_19at13 (k : Nat) (p : BitVec 6) (q : BitVec 19) : Nat := k + p.toNat * 2 ^ 7 + q.toNat * 2 ^ 13

/-- Fixed bits `k` with fields of the widths and lowest bits in the name (R54). -/
def pack6at7_6at13_3at19_10at22 (k : Nat) (p : BitVec 6) (q : BitVec 6) (r : BitVec 3) (s : BitVec 10) : Nat := k + p.toNat * 2 ^ 7 + q.toNat * 2 ^ 13 + r.toNat * 2 ^ 19 + s.toNat * 2 ^ 22

/-- Fixed bits `k` with fields of the widths and lowest bits in the name (R54). -/
def pack6at7_3at19_10at22 (k : Nat) (p : BitVec 6) (q : BitVec 3) (r : BitVec 10) : Nat := k + p.toNat * 2 ^ 7 + q.toNat * 2 ^ 19 + r.toNat * 2 ^ 22

/-- Fixed bits `k` with fields of the widths and lowest bits in the name (R54). -/
def pack6at13 (k : Nat) (p : BitVec 6) : Nat := k + p.toNat * 2 ^ 13

/-- Fixed bits `k` with fields of the widths and lowest bits in the name (R54). -/
def pack6at7 (k : Nat) (p : BitVec 6) : Nat := k + p.toNat * 2 ^ 7

/-- Fixed bits `k` with fields of the widths and lowest bits in the name (R54). -/
def pack13at19 (k : Nat) (p : BitVec 13) : Nat := k + p.toNat * 2 ^ 19

/-- Fixed bits `k` with fields of the widths and lowest bits in the name (R54). -/
def pack6at13_6at19_immS (k : Nat) (p : BitVec 6) (q : BitVec 6) (r : BitVec 13) : Nat := k + p.toNat * 2 ^ 13 + q.toNat * 2 ^ 19 + r.toNat % 64 * 2 ^ 7 + r.toNat / 64 * 2 ^ 25

/-- Fixed bits `k` with fields of the widths and lowest bits in the name (R54). -/
def pack6at7_8at13_6at21_2at27_1at29_2at30 (k : Nat) (p : BitVec 6) (q : BitVec 8) (r : BitVec 6) (s : BitVec 2) (t : BitVec 1) (u : BitVec 2) : Nat := k + p.toNat * 2 ^ 7 + q.toNat * 2 ^ 13 + r.toNat * 2 ^ 21 + s.toNat * 2 ^ 27 + t.toNat * 2 ^ 29 + u.toNat * 2 ^ 30

/-- Fixed bits `k` with fields of the widths and lowest bits in the name (R54). -/
def pack6at7_8at13_6at21_3at27 (k : Nat) (p : BitVec 6) (q : BitVec 8) (r : BitVec 6) (s : BitVec 3) : Nat := k + p.toNat * 2 ^ 7 + q.toNat * 2 ^ 13 + r.toNat * 2 ^ 21 + s.toNat * 2 ^ 27

/-- Fixed bits `k` with fields of the widths and lowest bits in the name (R54). -/
def pack6at7_8at13_6at21_3at27_2at30 (k : Nat) (p : BitVec 6) (q : BitVec 8) (r : BitVec 6) (s : BitVec 3) (t : BitVec 2) : Nat := k + p.toNat * 2 ^ 7 + q.toNat * 2 ^ 13 + r.toNat * 2 ^ 21 + s.toNat * 2 ^ 27 + t.toNat * 2 ^ 30

/-- Fixed bits `k` with fields of the widths and lowest bits in the name (R54). -/
def pack6at7_8at13_6at21_3at27_1at30_1at31 (k : Nat) (p : BitVec 6) (q : BitVec 8) (r : BitVec 6) (s : BitVec 3) (t : BitVec 1) (u : BitVec 1) : Nat := k + p.toNat * 2 ^ 7 + q.toNat * 2 ^ 13 + r.toNat * 2 ^ 21 + s.toNat * 2 ^ 27 + t.toNat * 2 ^ 30 + u.toNat * 2 ^ 31

/-- Fixed bits `k` with fields of the widths and lowest bits in the name (R54). -/
def pack2at25_3at27 (k : Nat) (p : BitVec 2) (q : BitVec 3) : Nat := k + p.toNat * 2 ^ 25 + q.toNat * 2 ^ 27

/-- Fixed bits `k` with fields of the widths and lowest bits in the name (R54). -/
def pack8at13_6at21_2at27 (k : Nat) (p : BitVec 8) (q : BitVec 6) (r : BitVec 2) : Nat := k + p.toNat * 2 ^ 13 + q.toNat * 2 ^ 21 + r.toNat * 2 ^ 27

/-- Fixed bits `k` with fields of the widths and lowest bits in the name (R54). -/
def pack6at7_8at13_6at21 (k : Nat) (p : BitVec 6) (q : BitVec 8) (r : BitVec 6) : Nat := k + p.toNat * 2 ^ 7 + q.toNat * 2 ^ 13 + r.toNat * 2 ^ 21

/-- Fixed bits `k` with fields of the widths and lowest bits in the name (R54). -/
def pack6at7_6at13_6at19_3at25 (k : Nat) (p : BitVec 6) (q : BitVec 6) (r : BitVec 6) (s : BitVec 3) : Nat := k + p.toNat * 2 ^ 7 + q.toNat * 2 ^ 13 + r.toNat * 2 ^ 19 + s.toNat * 2 ^ 25

/-- Fixed bits `k` with fields of the widths and lowest bits in the name (R54). -/
def pack6at7_6at13_3at25 (k : Nat) (p : BitVec 6) (q : BitVec 6) (r : BitVec 3) : Nat := k + p.toNat * 2 ^ 7 + q.toNat * 2 ^ 13 + r.toNat * 2 ^ 25

/-- Fixed bits `k` with fields of the widths and lowest bits in the name (R54). -/
def pack6at7_6at13_4at28 (k : Nat) (p : BitVec 6) (q : BitVec 6) (r : BitVec 4) : Nat := k + p.toNat * 2 ^ 7 + q.toNat * 2 ^ 13 + r.toNat * 2 ^ 28

/-- Fixed bits `k` with fields of the widths and lowest bits in the name (R54). -/
def pack5at7_6at12_6at18_2at24_1at26_1at27 (k : Nat) (p : BitVec 5) (q : BitVec 6) (r : BitVec 6) (s : BitVec 2) (t : BitVec 1) (u : BitVec 1) : Nat := k + p.toNat * 2 ^ 7 + q.toNat * 2 ^ 12 + r.toNat * 2 ^ 18 + s.toNat * 2 ^ 24 + t.toNat * 2 ^ 26 + u.toNat * 2 ^ 27

/-- Fixed bits `k` with fields of the widths and lowest bits in the name (R54). -/
def pack5at7 (k : Nat) (p : BitVec 5) : Nat := k + p.toNat * 2 ^ 7

/-- Fixed bits `k` with fields of the widths and lowest bits in the name (R54). -/
def pack5at7_6at12 (k : Nat) (p : BitVec 5) (q : BitVec 6) : Nat := k + p.toNat * 2 ^ 7 + q.toNat * 2 ^ 12

/-- Fixed bits `k` with fields of the widths and lowest bits in the name (R54). -/
def pack5at7_6at12_2at24 (k : Nat) (p : BitVec 5) (q : BitVec 6) (r : BitVec 2) : Nat := k + p.toNat * 2 ^ 7 + q.toNat * 2 ^ 12 + r.toNat * 2 ^ 24

/-- Fixed bits `k` with fields of the widths and lowest bits in the name (R54). -/
def pack6at7_8at13_6at21_2at27_2at29 (k : Nat) (p : BitVec 6) (q : BitVec 8) (r : BitVec 6) (s : BitVec 2) (t : BitVec 2) : Nat := k + p.toNat * 2 ^ 7 + q.toNat * 2 ^ 13 + r.toNat * 2 ^ 21 + s.toNat * 2 ^ 27 + t.toNat * 2 ^ 29

/-- Fixed bits `k` with fields of the widths and lowest bits in the name (R54). -/
def pack6at13_3at25 (k : Nat) (p : BitVec 6) (q : BitVec 3) : Nat := k + p.toNat * 2 ^ 13 + q.toNat * 2 ^ 25

/-- Fixed bits `k` with fields of the widths and lowest bits in the name (R54). -/
def pack6at7_6at13_1at28 (k : Nat) (p : BitVec 6) (q : BitVec 6) (r : BitVec 1) : Nat := k + p.toNat * 2 ^ 7 + q.toNat * 2 ^ 13 + r.toNat * 2 ^ 28

/-- Fixed bits `k` with fields of the widths and lowest bits in the name (R54). -/
def pack5at7_6at13_6at19 (k : Nat) (p : BitVec 5) (q : BitVec 6) (r : BitVec 6) : Nat := k + p.toNat * 2 ^ 7 + q.toNat * 2 ^ 13 + r.toNat * 2 ^ 19

/-- Fixed bits `k` with fields of the widths and lowest bits in the name (R54). -/
def pack8at13_6at21 (k : Nat) (p : BitVec 8) (q : BitVec 6) : Nat := k + p.toNat * 2 ^ 13 + q.toNat * 2 ^ 21

/-- Fixed bits `k` with fields of the widths and lowest bits in the name (R54). -/
def pack6at7_6at13_1at25 (k : Nat) (p : BitVec 6) (q : BitVec 6) (r : BitVec 1) : Nat := k + p.toNat * 2 ^ 7 + q.toNat * 2 ^ 13 + r.toNat * 2 ^ 25

/-- Fixed bits `k` with fields of the widths and lowest bits in the name (R54). -/
def pack6at7_12at19 (k : Nat) (p : BitVec 6) (q : BitVec 12) : Nat := k + p.toNat * 2 ^ 7 + q.toNat * 2 ^ 19

/-- Fixed bits `k` with fields of the widths and lowest bits in the name (R54). -/
def pack6at13_12at19 (k : Nat) (p : BitVec 6) (q : BitVec 12) : Nat := k + p.toNat * 2 ^ 13 + q.toNat * 2 ^ 19

/-- Fixed bits `k` with fields of the widths and lowest bits in the name (R54). -/
def pack6at13_6at19 (k : Nat) (p : BitVec 6) (q : BitVec 6) : Nat := k + p.toNat * 2 ^ 13 + q.toNat * 2 ^ 19

/-- The word of an instruction, as R54 to R67 place its fields; a step without a word gives 0. -/
def Instr.encodeNat : Instr → Nat
  | .add d a b => pack6at7_6at13_6at19 0x1 d a b
  | .sub d a b => pack6at7_6at13_6at19 0x2000001 d a b
  | .and d a b => pack6at7_6at13_6at19 0x4000001 d a b
  | .or d a b => pack6at7_6at13_6at19 0x6000001 d a b
  | .xor d a b => pack6at7_6at13_6at19 0x8000001 d a b
  | .sll d a b => pack6at7_6at13_6at19 0xa000001 d a b
  | .srl d a b => pack6at7_6at13_6at19 0xc000001 d a b
  | .sra d a b => pack6at7_6at13_6at19 0xe000001 d a b
  | .slt d a b => pack6at7_6at13_6at19 0x10000001 d a b
  | .sltu d a b => pack6at7_6at13_6at19 0x12000001 d a b
  | .seq d a b => pack6at7_6at13_6at19 0x14000001 d a b
  | .min d a b => pack6at7_6at13_6at19 0x16000001 d a b
  | .max d a b => pack6at7_6at13_6at19 0x18000001 d a b
  | .minu d a b => pack6at7_6at13_6at19 0x1a000001 d a b
  | .maxu d a b => pack6at7_6at13_6at19 0x1c000001 d a b
  | .mul d a b => pack6at7_6at13_6at19 0x2 d a b
  | .mulh d a b => pack6at7_6at13_6at19 0x2000002 d a b
  | .mulhu d a b => pack6at7_6at13_6at19 0x4000002 d a b
  | .div d a b => pack6at7_6at13_6at19 0x6000002 d a b
  | .divu d a b => pack6at7_6at13_6at19 0x8000002 d a b
  | .rem d a b => pack6at7_6at13_6at19 0xa000002 d a b
  | .remu d a b => pack6at7_6at13_6at19 0xc000002 d a b
  | .clz d a => pack6at7_6at13 0x3 d a
  | .ctz d a => pack6at7_6at13 0x2000003 d a
  | .popc d a => pack6at7_6at13 0x4000003 d a
  | .sextb d a => pack6at7_6at13 0x6000003 d a
  | .sexth d a => pack6at7_6at13 0x8000003 d a
  | .sextw d a => pack6at7_6at13 0xa000003 d a
  | .zextw d a => pack6at7_6at13 0xc000003 d a
  | .addi d a i => pack6at7_6at13_13at19 0x4 d a i
  | .andi d a i => pack6at7_6at13_13at19 0x5 d a i
  | .ori d a i => pack6at7_6at13_13at19 0x6 d a i
  | .xori d a i => pack6at7_6at13_13at19 0x7 d a i
  | .slli d a i => pack6at7_6at13_6at19 0x8 d a i
  | .srli d a i => pack6at7_6at13_6at19 0x2000008 d a i
  | .srai d a i => pack6at7_6at13_6at19 0x4000008 d a i
  | .slti d a i => pack6at7_6at13_13at19 0x9 d a i
  | .csel d a b c => pack6at7_6at13_6at19_6at25 0xa d a b c
  | .cselz d a b c => pack6at7_6at13_6at19_6at25 0x8000000a d a b c
  | .lui d i => pack6at7_19at13 0xb d i
  | .fadd d a b => pack6at7_6at13_6at19 0xc d a b
  | .fsub d a b => pack6at7_6at13_6at19 0x200000c d a b
  | .fmul d a b => pack6at7_6at13_6at19 0x400000c d a b
  | .fdiv d a b => pack6at7_6at13_6at19 0x600000c d a b
  | .fsqrt d a => pack6at7_6at13 0x800000c d a
  | .fmadd d a b c => pack6at7_6at13_6at19_6at25 0xd d a b c
  | .feq d a b => pack6at7_6at13_6at19 0xe d a b
  | .flt d a b => pack6at7_6at13_6at19 0x200000e d a b
  | .ftoi d a => pack6at7_6at13 0xf d a
  | .itof d a => pack6at7_6at13 0x200000f d a
  | .br a b n o => pack6at7_6at13_3at19_10at22 0x10 a b n o
  | .jal d i => pack6at7_19at13 0x11 d i
  | .jalr d a i => pack6at7_6at13_13at19 0x12 d a i
  | .auipc d i => pack6at7_19at13 0x13 d i
  | .brp a n o => pack6at7_3at19_10at22 0x14 a n o
  | .tend => 0x15
  | .yield => 0x2000015
  | .tspawn d a b => pack6at7_6at13_6at19 0x18 d a b
  | .dqpush a => pack6at13 0x19 a
  | .dqpop d => pack6at7 0x2000019 d
  | .dqsplit d a => pack6at7_6at13 0x4000019 d a
  | .dqsteal d => pack6at7 0x6000019 d
  | .dqcount d => pack6at7 0x8000019 d
  | .sclose => 0x1a
  | .sdrop a => pack6at13 0x200001a a
  | .sdepth d => pack6at7 0x400001a d
  | .sopen i => pack13at19 0x1b i
  | .tsignal a b i => pack6at13_6at19_immS 0x1c a b i
  | .ld d l c w r s => pack6at7_8at13_6at21_2at27_1at29_2at30 0x20 d l c w r s
  | .lds d l c w r s => pack6at7_8at13_6at21_2at27_1at29_2at30 0x21 d l c w r s
  | .st d l c w r s => pack6at7_8at13_6at21_2at27_1at29_2at30 0x22 d l c w r s
  | .vld d l c p => pack6at7_8at13_6at21_3at27 0x23 d l c p
  | .vst d l c p => pack6at7_8at13_6at21_3at27 0x24 d l c p
  | .amo d l c k r => pack6at7_8at13_6at21_3at27_2at30 0x25 d l c k r
  | .red d l c k r m => pack6at7_8at13_6at21_3at27_1at30_1at31 0x26 d l c k r m
  | .fence k s => pack2at25_3at27 0x27 k s
  | .pref l c v => pack8at13_6at21_2at27 0x28 l c v
  | .wbr d l c => pack6at7_8at13_6at21 0x29 d l c
  | .invr d l c => pack6at7_8at13_6at21 0x2a d l c
  | .vadd d a b p => pack6at7_6at13_6at19_3at25 0x30 d a b p
  | .vsub d a b p => pack6at7_6at13_6at19_3at25 0x10000030 d a b p
  | .vmul d a b p => pack6at7_6at13_6at19_3at25 0x20000030 d a b p
  | .vmin d a b p => pack6at7_6at13_6at19_3at25 0x30000030 d a b p
  | .vmax d a b p => pack6at7_6at13_6at19_3at25 0x40000030 d a b p
  | .vminu d a b p => pack6at7_6at13_6at19_3at25 0x50000030 d a b p
  | .vmaxu d a b p => pack6at7_6at13_6at19_3at25 0x60000030 d a b p
  | .vand d a b p => pack6at7_6at13_6at19_3at25 0x70000030 d a b p
  | .vor d a b p => pack6at7_6at13_6at19_3at25 0x80000030 d a b p
  | .vxor d a b p => pack6at7_6at13_6at19_3at25 0x90000030 d a b p
  | .vsll d a b p => pack6at7_6at13_6at19_3at25 0xa0000030 d a b p
  | .vsrl d a b p => pack6at7_6at13_6at19_3at25 0xb0000030 d a b p
  | .vsra d a b p => pack6at7_6at13_6at19_3at25 0xc0000030 d a b p
  | .vadds d a b p => pack6at7_6at13_6at19_3at25 0xd0000030 d a b p
  | .vsubs d a b p => pack6at7_6at13_6at19_3at25 0xe0000030 d a b p
  | .vfadd d a b p => pack6at7_6at13_6at19_3at25 0x31 d a b p
  | .vfsub d a b p => pack6at7_6at13_6at19_3at25 0x10000031 d a b p
  | .vfmul d a b p => pack6at7_6at13_6at19_3at25 0x20000031 d a b p
  | .vfmin d a b p => pack6at7_6at13_6at19_3at25 0x30000031 d a b p
  | .vfmax d a b p => pack6at7_6at13_6at19_3at25 0x40000031 d a b p
  | .vfabs d a p => pack6at7_6at13_3at25 0x50000031 d a p
  | .vfneg d a p => pack6at7_6at13_3at25 0x60000031 d a p
  | .vfma d a b p => pack6at7_6at13_6at19_3at25 0x32 d a b p
  | .vfms d a b p => pack6at7_6at13_6at19_3at25 0x10000032 d a b p
  | .vbadd d a b p => pack6at7_6at13_6at19_3at25 0x33 d a b p
  | .vbmul d a b p => pack6at7_6at13_6at19_3at25 0x10000033 d a b p
  | .vbfma d a b p => pack6at7_6at13_6at19_3at25 0x20000033 d a b p
  | .vceq d a b p => pack6at7_6at13_6at19_3at25 0x34 d a b p
  | .vcne d a b p => pack6at7_6at13_6at19_3at25 0x10000034 d a b p
  | .vclt d a b p => pack6at7_6at13_6at19_3at25 0x20000034 d a b p
  | .vcle d a b p => pack6at7_6at13_6at19_3at25 0x30000034 d a b p
  | .vcltu d a b p => pack6at7_6at13_6at19_3at25 0x40000034 d a b p
  | .vcleu d a b p => pack6at7_6at13_6at19_3at25 0x50000034 d a b p
  | .vfceq d a b p => pack6at7_6at13_6at19_3at25 0x60000034 d a b p
  | .vfclt d a b p => pack6at7_6at13_6at19_3at25 0x70000034 d a b p
  | .vfcle d a b p => pack6at7_6at13_6at19_3at25 0x80000034 d a b p
  | .vfcun d a b p => pack6at7_6at13_6at19_3at25 0x90000034 d a b p
  | .vsel d a b p => pack6at7_6at13_6at19_3at25 0x35 d a b p
  | .pand d a b => pack6at7_6at13_6at19 0x10000035 d a b
  | .por d a b => pack6at7_6at13_6at19 0x20000035 d a b
  | .pxor d a b => pack6at7_6at13_6at19 0x30000035 d a b
  | .pnot d a => pack6at7_6at13 0x40000035 d a
  | .vcvtif d a p => pack6at7_6at13_3at25 0x36 d a p
  | .vcvtfi d a p => pack6at7_6at13_3at25 0x10000036 d a p
  | .vcvtn d a t => pack6at7_6at13_4at28 0x37 d a t
  | .vcvtz d a t => pack6at7_6at13_4at28 0x38 d a t
  | .vcvts d a t => pack6at7_6at13_4at28 0x39 d a t
  | .vcvtw d a t => pack6at7_6at13_4at28 0x3a d a t
  | .vrcp d a p => pack6at7_6at13_3at25 0x3b d a p
  | .vrsqrt d a p => pack6at7_6at13_3at25 0x1000003b d a p
  | .vexp2 d a p => pack6at7_6at13_3at25 0x2000003b d a p
  | .vlog2 d a p => pack6at7_6at13_3at25 0x3000003b d a p
  | .vfdiv d a b p => pack6at7_6at13_6at19_3at25 0x3c d a b p
  | .vfsqrt d a p => pack6at7_6at13_3at25 0x1000003c d a p
  | .vredadd d a p => pack6at7_6at13_3at25 0x3d d a p
  | .vredfadd d a p => pack6at7_6at13_3at25 0x1000003d d a p
  | .vredmax d a p => pack6at7_6at13_3at25 0x2000003d d a p
  | .vredfmax d a p => pack6at7_6at13_3at25 0x3000003d d a p
  | .vredmin d a p => pack6at7_6at13_3at25 0x4000003d d a p
  | .vredfmin d a p => pack6at7_6at13_3at25 0x5000003d d a p
  | .vscanadd d a p => pack6at7_6at13_3at25 0x6000003d d a p
  | .vscanfadd d a p => pack6at7_6at13_3at25 0x7000003d d a p
  | .vperm d a b => pack6at7_6at13_6at19 0x3e d a b
  | .vbcast d a p => pack6at7_6at13_3at25 0x1000003e d a p
  | .vrot d a b => pack6at7_6at13_6at19 0x2000003e d a b
  | .vextr d a b => pack6at7_6at13_6at19 0x3000003e d a b
  | .vinsr d a b => pack6at7_6at13_6at19 0x4000003e d a b
  | .vmovi d a => pack6at7_6at13 0x3f d a
  | .vstoi d a => pack6at7_6at13 0x1000003f d a
  | .vgath d a b p => pack6at7_6at13_6at19_3at25 0x2000003f d a b p
  | .vldx d a b p => pack6at7_6at13_6at19_3at25 0x40 d a b p
  | .vstx d a b p => pack6at7_6at13_6at19_3at25 0x10000040 d a b p
  | .vcompress d a b p => pack6at7_6at13_6at19_3at25 0x41 d a b p
  | .vexpand d a b p => pack6at7_6at13_6at19_3at25 0x10000041 d a b p
  | .viota d => pack6at7 0x42 d
  | .vpopc d a => pack6at7_6at13 0x10000042 d a
  | .mma e a b f z u => pack5at7_6at12_6at18_2at24_1at26_1at27 0x50 e a b f z u
  | .acczero e => pack5at7 0x51 e
  | .accld e a => pack5at7_6at12 0x4000051 e a
  | .accst e a => pack5at7_6at12 0x8000051 e a
  | .acccvt e a f => pack5at7_6at12_2at24 0xc000051 e a f
  | .fmtw d a => pack6at7_6at13 0x52 d a
  | .fmtr d a => pack6at7_6at13 0x2000052 d a
  | .nbmv d l c t f => pack6at7_8at13_6at21_2at27_2at29 0x53 d l c t f
  | .termrd d a => pack6at7_6at13 0x54 d a
  | .termclr a => pack6at13 0x2000054 a
  | .xcopy a s => pack6at13_3at25 0x58 a s
  | .xmcast a s => pack6at13_3at25 0x59 a s
  | .msub a => pack6at13 0x5a a
  | .munsub a => pack6at13 0x200005a a
  | .apgather d a => pack6at7_6at13 0x60 d a
  | .apscatter d a => pack6at7_6at13 0x2000060 d a
  | .apscatteradd d a => pack6at7_6at13 0x4000060 d a
  | .apbin d a m => pack6at7_6at13_1at28 0x6000060 d a m
  | .apqpop d a => pack6at7_6at13 0x61 d a
  | .apqpush d a => pack6at7_6at13 0x2000061 d a
  | .apwait d a => pack6at7_6at13 0x4000061 d a
  | .apqstat d a => pack6at7_6at13 0x6000061 d a
  | .send i a b => pack5at7_6at13_6at19 0x68 i a b
  | .mrecv d a => pack6at7_6at13 0x69 d a
  | .mpoll d => pack6at7 0x2000069 d
  | .watch d l c => pack6at7_8at13_6at21 0x6a d l c
  | .unwatch l c => pack8at13_6at21 0x6b l c
  | .waitw d a => pack6at7_6at13 0x6c d a
  | .barcfg d a => pack6at7_6at13 0x6d d a
  | .barrier a => pack6at13 0x200006d a
  | .barpoll d a => pack6at7_6at13 0x400006d d a
  | .mgrant d a m => pack6at7_6at13_1at25 0x70 d a m
  | .mrelease d a => pack6at7_6at13 0x71 d a
  | .mquota d => pack6at7 0x2000071 d
  | .fred a k => pack6at13_3at25 0x72 a k
  | .fbarrier a => pack6at13 0x73 a
  | .fbarpoll d a => pack6at7_6at13 0x2000073 d a
  | .csrr d n => pack6at7_12at19 0x78 d n
  | .csrw a n => pack6at13_12at19 0x79 a n
  | .ecall => 0x7a
  | .ebreak => 0x200007a
  | .tret => 0x400007a
  | .rdtime d => pack6at7 0x7b d
  | .rdcycle d => pack6at7 0x200007b d
  | .rdinsn d => pack6at7 0x400007b d
  | .tlbinv a b => pack6at13_6at19 0x7c a b
  | .wfi => 0x200007c
  | .illegal => 0x0
  | .rgnstart .. => 0
  | .regionLaunch .. => 0
  | .regionFinish .. => 0
  | .taskDispatch .. => 0
  | .tileStaging .. => 0
  | .taskSteal .. => 0
  | .ageingInterval .. => 0
  | .gvtRecompute .. => 0
  | .accessResponse .. => 0
  | .divideComplete .. => 0
  | .fpDivideComplete .. => 0
  | .vectorDivideComplete .. => 0
  | .mmaArrayStart .. => 0
  | .mmaComplete .. => 0
  | .sideLogReplay .. => 0
  | .waitwTimeout .. => 0
  | .mailboxArrival .. => 0
  | .runAbort .. => 0
  | .orderedAbort .. => 0
  | .tokenGrant .. => 0
  | .trapQueueEntry .. => 0
  | .handlerEntry .. => 0
  | .tresResume .. => 0
  | .tresSkip .. => 0
  | .tresDiscard .. => 0
  | .tresForward .. => 0
  | .tq .. => 0
  | .txdata .. => 0
  | .preemptSave .. => 0
  | .saveImageWrite .. => 0
  | .preemptRestore .. => 0
  | .imageDiscard .. => 0
  | .copyAccept .. => 0
  | .copyComplete .. => 0
  | .nbmvComplete .. => 0
  | .streamAccept .. => 0
  | .gatherRunahead .. => 0
  | .scatterElementWrite .. => 0
  | .binningParticle .. => 0
  | .streamEnd .. => 0
  | .fcolcfg .. => 0
  | .firnRd .. => 0
  | .firnWr .. => 0
  | .firnAmo .. => 0
  | .firnRed .. => 0
  | .firnSend .. => 0
  | .firnMgrant .. => 0
  | .firnMrelease .. => 0
  | .firnMquota .. => 0
  | .firnJoin .. => 0
  | .firnLeave .. => 0
  | .firnFcfg .. => 0
  | .firnFbpoll .. => 0
  | .firnRdata .. => 0
  | .firnAck .. => 0
  | .firnNak .. => 0
  | .stompedPacket .. => 0
  | .firnFcontrib .. => 0
  | .firnFrack .. => 0
  | .firnFbarr .. => 0
  | .firnFwdraw .. => 0
  | .firnMcdata .. => 0
  | .firnMcresult .. => 0
  | .firnFbrel .. => 0
  | .firnMcack .. => 0
  | .firnSwfail .. => 0
  | .debugHalt .. => 0
  | .debugStep .. => 0
  | .debugResume .. => 0
  | .coreStop .. => 0
  | .breakpointMatch .. => 0
  | .ddata .. => 0
  | .traceFlush .. => 0
  | .traceSample .. => 0
  | .dlyclr .. => 0
  | .boot .. => 0
  | .measurementReport .. => 0
  | .identityKey .. => 0
  | .keyLoad .. => 0
  | .powerLimitCheck .. => 0
  | .thermalThrottle .. => 0
  | .thermalTrip .. => 0
  | .ageingSample .. => 0
  | .softError .. => 0
  | .wfiWake .. => 0
  | .registerWrite .. => 0
  | .eviction .. => 0
  | .hostAccess .. => 0
  | .switchReplacement .. => 0
  | .podConfiguration .. => 0
  | .tenantQuota .. => 0
  | .vfTransitionEnd .. => 0

/-- The 32-bit word of an instruction. -/
def encode (i : Instr) : BitVec 32 := BitVec.ofNat 32 i.encodeNat

/-- The row of major opcode 0x01 that the word's function value selects. -/
def pick01 (w : Nat) : Except Reject Instr :=
  if fld w 25 7 = 0 then .ok (.add (BitVec.ofNat 6 (fld w 7 6)) (BitVec.ofNat 6 (fld w 13 6)) (BitVec.ofNat 6 (fld w 19 6)))
  else if fld w 25 7 = 1 then .ok (.sub (BitVec.ofNat 6 (fld w 7 6)) (BitVec.ofNat 6 (fld w 13 6)) (BitVec.ofNat 6 (fld w 19 6)))
  else if fld w 25 7 = 2 then .ok (.and (BitVec.ofNat 6 (fld w 7 6)) (BitVec.ofNat 6 (fld w 13 6)) (BitVec.ofNat 6 (fld w 19 6)))
  else if fld w 25 7 = 3 then .ok (.or (BitVec.ofNat 6 (fld w 7 6)) (BitVec.ofNat 6 (fld w 13 6)) (BitVec.ofNat 6 (fld w 19 6)))
  else if fld w 25 7 = 4 then .ok (.xor (BitVec.ofNat 6 (fld w 7 6)) (BitVec.ofNat 6 (fld w 13 6)) (BitVec.ofNat 6 (fld w 19 6)))
  else if fld w 25 7 = 5 then .ok (.sll (BitVec.ofNat 6 (fld w 7 6)) (BitVec.ofNat 6 (fld w 13 6)) (BitVec.ofNat 6 (fld w 19 6)))
  else if fld w 25 7 = 6 then .ok (.srl (BitVec.ofNat 6 (fld w 7 6)) (BitVec.ofNat 6 (fld w 13 6)) (BitVec.ofNat 6 (fld w 19 6)))
  else if fld w 25 7 = 7 then .ok (.sra (BitVec.ofNat 6 (fld w 7 6)) (BitVec.ofNat 6 (fld w 13 6)) (BitVec.ofNat 6 (fld w 19 6)))
  else if fld w 25 7 = 8 then .ok (.slt (BitVec.ofNat 6 (fld w 7 6)) (BitVec.ofNat 6 (fld w 13 6)) (BitVec.ofNat 6 (fld w 19 6)))
  else if fld w 25 7 = 9 then .ok (.sltu (BitVec.ofNat 6 (fld w 7 6)) (BitVec.ofNat 6 (fld w 13 6)) (BitVec.ofNat 6 (fld w 19 6)))
  else if fld w 25 7 = 10 then .ok (.seq (BitVec.ofNat 6 (fld w 7 6)) (BitVec.ofNat 6 (fld w 13 6)) (BitVec.ofNat 6 (fld w 19 6)))
  else if fld w 25 7 = 11 then .ok (.min (BitVec.ofNat 6 (fld w 7 6)) (BitVec.ofNat 6 (fld w 13 6)) (BitVec.ofNat 6 (fld w 19 6)))
  else if fld w 25 7 = 12 then .ok (.max (BitVec.ofNat 6 (fld w 7 6)) (BitVec.ofNat 6 (fld w 13 6)) (BitVec.ofNat 6 (fld w 19 6)))
  else if fld w 25 7 = 13 then .ok (.minu (BitVec.ofNat 6 (fld w 7 6)) (BitVec.ofNat 6 (fld w 13 6)) (BitVec.ofNat 6 (fld w 19 6)))
  else if fld w 25 7 = 14 then .ok (.maxu (BitVec.ofNat 6 (fld w 7 6)) (BitVec.ofNat 6 (fld w 13 6)) (BitVec.ofNat 6 (fld w 19 6)))
  else .error .function

/-- The row of major opcode 0x02 that the word's function value selects. -/
def pick02 (w : Nat) : Except Reject Instr :=
  if fld w 25 7 = 0 then .ok (.mul (BitVec.ofNat 6 (fld w 7 6)) (BitVec.ofNat 6 (fld w 13 6)) (BitVec.ofNat 6 (fld w 19 6)))
  else if fld w 25 7 = 1 then .ok (.mulh (BitVec.ofNat 6 (fld w 7 6)) (BitVec.ofNat 6 (fld w 13 6)) (BitVec.ofNat 6 (fld w 19 6)))
  else if fld w 25 7 = 2 then .ok (.mulhu (BitVec.ofNat 6 (fld w 7 6)) (BitVec.ofNat 6 (fld w 13 6)) (BitVec.ofNat 6 (fld w 19 6)))
  else if fld w 25 7 = 3 then .ok (.div (BitVec.ofNat 6 (fld w 7 6)) (BitVec.ofNat 6 (fld w 13 6)) (BitVec.ofNat 6 (fld w 19 6)))
  else if fld w 25 7 = 4 then .ok (.divu (BitVec.ofNat 6 (fld w 7 6)) (BitVec.ofNat 6 (fld w 13 6)) (BitVec.ofNat 6 (fld w 19 6)))
  else if fld w 25 7 = 5 then .ok (.rem (BitVec.ofNat 6 (fld w 7 6)) (BitVec.ofNat 6 (fld w 13 6)) (BitVec.ofNat 6 (fld w 19 6)))
  else if fld w 25 7 = 6 then .ok (.remu (BitVec.ofNat 6 (fld w 7 6)) (BitVec.ofNat 6 (fld w 13 6)) (BitVec.ofNat 6 (fld w 19 6)))
  else .error .function

/-- The row of major opcode 0x03 that the word's function value selects. -/
def pick03 (w : Nat) : Except Reject Instr :=
  if fld w 25 7 = 0 then .ok (.clz (BitVec.ofNat 6 (fld w 7 6)) (BitVec.ofNat 6 (fld w 13 6)))
  else if fld w 25 7 = 1 then .ok (.ctz (BitVec.ofNat 6 (fld w 7 6)) (BitVec.ofNat 6 (fld w 13 6)))
  else if fld w 25 7 = 2 then .ok (.popc (BitVec.ofNat 6 (fld w 7 6)) (BitVec.ofNat 6 (fld w 13 6)))
  else if fld w 25 7 = 3 then .ok (.sextb (BitVec.ofNat 6 (fld w 7 6)) (BitVec.ofNat 6 (fld w 13 6)))
  else if fld w 25 7 = 4 then .ok (.sexth (BitVec.ofNat 6 (fld w 7 6)) (BitVec.ofNat 6 (fld w 13 6)))
  else if fld w 25 7 = 5 then .ok (.sextw (BitVec.ofNat 6 (fld w 7 6)) (BitVec.ofNat 6 (fld w 13 6)))
  else if fld w 25 7 = 6 then .ok (.zextw (BitVec.ofNat 6 (fld w 7 6)) (BitVec.ofNat 6 (fld w 13 6)))
  else .error .function

/-- The row of major opcode 0x04 that the word's function value selects. -/
def pick04 (w : Nat) : Except Reject Instr :=
  .ok (.addi (BitVec.ofNat 6 (fld w 7 6)) (BitVec.ofNat 6 (fld w 13 6)) (BitVec.ofNat 13 (fld w 19 13)))

/-- The row of major opcode 0x05 that the word's function value selects. -/
def pick05 (w : Nat) : Except Reject Instr :=
  .ok (.andi (BitVec.ofNat 6 (fld w 7 6)) (BitVec.ofNat 6 (fld w 13 6)) (BitVec.ofNat 13 (fld w 19 13)))

/-- The row of major opcode 0x06 that the word's function value selects. -/
def pick06 (w : Nat) : Except Reject Instr :=
  .ok (.ori (BitVec.ofNat 6 (fld w 7 6)) (BitVec.ofNat 6 (fld w 13 6)) (BitVec.ofNat 13 (fld w 19 13)))

/-- The row of major opcode 0x07 that the word's function value selects. -/
def pick07 (w : Nat) : Except Reject Instr :=
  .ok (.xori (BitVec.ofNat 6 (fld w 7 6)) (BitVec.ofNat 6 (fld w 13 6)) (BitVec.ofNat 13 (fld w 19 13)))

/-- The row of major opcode 0x08 that the word's function value selects. -/
def pick08 (w : Nat) : Except Reject Instr :=
  if fld w 25 7 = 0 then .ok (.slli (BitVec.ofNat 6 (fld w 7 6)) (BitVec.ofNat 6 (fld w 13 6)) (BitVec.ofNat 6 (fld w 19 6)))
  else if fld w 25 7 = 1 then .ok (.srli (BitVec.ofNat 6 (fld w 7 6)) (BitVec.ofNat 6 (fld w 13 6)) (BitVec.ofNat 6 (fld w 19 6)))
  else if fld w 25 7 = 2 then .ok (.srai (BitVec.ofNat 6 (fld w 7 6)) (BitVec.ofNat 6 (fld w 13 6)) (BitVec.ofNat 6 (fld w 19 6)))
  else .error .function

/-- The row of major opcode 0x09 that the word's function value selects. -/
def pick09 (w : Nat) : Except Reject Instr :=
  .ok (.slti (BitVec.ofNat 6 (fld w 7 6)) (BitVec.ofNat 6 (fld w 13 6)) (BitVec.ofNat 13 (fld w 19 13)))

/-- The row of major opcode 0x0A that the word's function value selects. -/
def pick0A (w : Nat) : Except Reject Instr :=
  if fld w 31 1 = 0 then .ok (.csel (BitVec.ofNat 6 (fld w 7 6)) (BitVec.ofNat 6 (fld w 13 6)) (BitVec.ofNat 6 (fld w 19 6)) (BitVec.ofNat 6 (fld w 25 6)))
  else if fld w 31 1 = 1 then .ok (.cselz (BitVec.ofNat 6 (fld w 7 6)) (BitVec.ofNat 6 (fld w 13 6)) (BitVec.ofNat 6 (fld w 19 6)) (BitVec.ofNat 6 (fld w 25 6)))
  else .error .function

/-- The row of major opcode 0x0B that the word's function value selects. -/
def pick0B (w : Nat) : Except Reject Instr :=
  .ok (.lui (BitVec.ofNat 6 (fld w 7 6)) (BitVec.ofNat 19 (fld w 13 19)))

/-- The row of major opcode 0x0C that the word's function value selects. -/
def pick0C (w : Nat) : Except Reject Instr :=
  if fld w 25 7 = 0 then .ok (.fadd (BitVec.ofNat 6 (fld w 7 6)) (BitVec.ofNat 6 (fld w 13 6)) (BitVec.ofNat 6 (fld w 19 6)))
  else if fld w 25 7 = 1 then .ok (.fsub (BitVec.ofNat 6 (fld w 7 6)) (BitVec.ofNat 6 (fld w 13 6)) (BitVec.ofNat 6 (fld w 19 6)))
  else if fld w 25 7 = 2 then .ok (.fmul (BitVec.ofNat 6 (fld w 7 6)) (BitVec.ofNat 6 (fld w 13 6)) (BitVec.ofNat 6 (fld w 19 6)))
  else if fld w 25 7 = 3 then .ok (.fdiv (BitVec.ofNat 6 (fld w 7 6)) (BitVec.ofNat 6 (fld w 13 6)) (BitVec.ofNat 6 (fld w 19 6)))
  else if fld w 25 7 = 4 then .ok (.fsqrt (BitVec.ofNat 6 (fld w 7 6)) (BitVec.ofNat 6 (fld w 13 6)))
  else .error .function

/-- The row of major opcode 0x0D that the word's function value selects. -/
def pick0D (w : Nat) : Except Reject Instr :=
  .ok (.fmadd (BitVec.ofNat 6 (fld w 7 6)) (BitVec.ofNat 6 (fld w 13 6)) (BitVec.ofNat 6 (fld w 19 6)) (BitVec.ofNat 6 (fld w 25 6)))

/-- The row of major opcode 0x0E that the word's function value selects. -/
def pick0E (w : Nat) : Except Reject Instr :=
  if fld w 25 7 = 0 then .ok (.feq (BitVec.ofNat 6 (fld w 7 6)) (BitVec.ofNat 6 (fld w 13 6)) (BitVec.ofNat 6 (fld w 19 6)))
  else if fld w 25 7 = 1 then .ok (.flt (BitVec.ofNat 6 (fld w 7 6)) (BitVec.ofNat 6 (fld w 13 6)) (BitVec.ofNat 6 (fld w 19 6)))
  else .error .function

/-- The row of major opcode 0x0F that the word's function value selects. -/
def pick0F (w : Nat) : Except Reject Instr :=
  if fld w 25 7 = 0 then .ok (.ftoi (BitVec.ofNat 6 (fld w 7 6)) (BitVec.ofNat 6 (fld w 13 6)))
  else if fld w 25 7 = 1 then .ok (.itof (BitVec.ofNat 6 (fld w 7 6)) (BitVec.ofNat 6 (fld w 13 6)))
  else .error .function

/-- The row of major opcode 0x10 that the word's function value selects. -/
def pick10 (w : Nat) : Except Reject Instr :=
  .ok (.br (BitVec.ofNat 6 (fld w 7 6)) (BitVec.ofNat 6 (fld w 13 6)) (BitVec.ofNat 3 (fld w 19 3)) (BitVec.ofNat 10 (fld w 22 10)))

/-- The row of major opcode 0x11 that the word's function value selects. -/
def pick11 (w : Nat) : Except Reject Instr :=
  .ok (.jal (BitVec.ofNat 6 (fld w 7 6)) (BitVec.ofNat 19 (fld w 13 19)))

/-- The row of major opcode 0x12 that the word's function value selects. -/
def pick12 (w : Nat) : Except Reject Instr :=
  .ok (.jalr (BitVec.ofNat 6 (fld w 7 6)) (BitVec.ofNat 6 (fld w 13 6)) (BitVec.ofNat 13 (fld w 19 13)))

/-- The row of major opcode 0x13 that the word's function value selects. -/
def pick13 (w : Nat) : Except Reject Instr :=
  .ok (.auipc (BitVec.ofNat 6 (fld w 7 6)) (BitVec.ofNat 19 (fld w 13 19)))

/-- The row of major opcode 0x14 that the word's function value selects. -/
def pick14 (w : Nat) : Except Reject Instr :=
  .ok (.brp (BitVec.ofNat 6 (fld w 7 6)) (BitVec.ofNat 3 (fld w 19 3)) (BitVec.ofNat 10 (fld w 22 10)))

/-- The row of major opcode 0x15 that the word's function value selects. -/
def pick15 (w : Nat) : Except Reject Instr :=
  if fld w 25 7 = 0 then .ok .tend
  else if fld w 25 7 = 1 then .ok .yield
  else .error .function

/-- The row of major opcode 0x18 that the word's function value selects. -/
def pick18 (w : Nat) : Except Reject Instr :=
  .ok (.tspawn (BitVec.ofNat 6 (fld w 7 6)) (BitVec.ofNat 6 (fld w 13 6)) (BitVec.ofNat 6 (fld w 19 6)))

/-- The row of major opcode 0x19 that the word's function value selects. -/
def pick19 (w : Nat) : Except Reject Instr :=
  if fld w 25 7 = 0 then .ok (.dqpush (BitVec.ofNat 6 (fld w 13 6)))
  else if fld w 25 7 = 1 then .ok (.dqpop (BitVec.ofNat 6 (fld w 7 6)))
  else if fld w 25 7 = 2 then .ok (.dqsplit (BitVec.ofNat 6 (fld w 7 6)) (BitVec.ofNat 6 (fld w 13 6)))
  else if fld w 25 7 = 3 then .ok (.dqsteal (BitVec.ofNat 6 (fld w 7 6)))
  else if fld w 25 7 = 4 then .ok (.dqcount (BitVec.ofNat 6 (fld w 7 6)))
  else .error .function

/-- The row of major opcode 0x1A that the word's function value selects. -/
def pick1A (w : Nat) : Except Reject Instr :=
  if fld w 25 7 = 0 then .ok .sclose
  else if fld w 25 7 = 1 then .ok (.sdrop (BitVec.ofNat 6 (fld w 13 6)))
  else if fld w 25 7 = 2 then .ok (.sdepth (BitVec.ofNat 6 (fld w 7 6)))
  else .error .function

/-- The row of major opcode 0x1B that the word's function value selects. -/
def pick1B (w : Nat) : Except Reject Instr :=
  .ok (.sopen (BitVec.ofNat 13 (fld w 19 13)))

/-- The row of major opcode 0x1C that the word's function value selects. -/
def pick1C (w : Nat) : Except Reject Instr :=
  .ok (.tsignal (BitVec.ofNat 6 (fld w 13 6)) (BitVec.ofNat 6 (fld w 19 6)) (BitVec.ofNat 13 (fld w 7 6 + fld w 25 7 * 64)))

/-- The row of major opcode 0x20 that the word's function value selects. -/
def pick20 (w : Nat) : Except Reject Instr :=
  .ok (.ld (BitVec.ofNat 6 (fld w 7 6)) (BitVec.ofNat 8 (fld w 13 8)) (BitVec.ofNat 6 (fld w 21 6)) (BitVec.ofNat 2 (fld w 27 2)) (BitVec.ofNat 1 (fld w 29 1)) (BitVec.ofNat 2 (fld w 30 2)))

/-- The row of major opcode 0x21 that the word's function value selects. -/
def pick21 (w : Nat) : Except Reject Instr :=
  .ok (.lds (BitVec.ofNat 6 (fld w 7 6)) (BitVec.ofNat 8 (fld w 13 8)) (BitVec.ofNat 6 (fld w 21 6)) (BitVec.ofNat 2 (fld w 27 2)) (BitVec.ofNat 1 (fld w 29 1)) (BitVec.ofNat 2 (fld w 30 2)))

/-- The row of major opcode 0x22 that the word's function value selects. -/
def pick22 (w : Nat) : Except Reject Instr :=
  .ok (.st (BitVec.ofNat 6 (fld w 7 6)) (BitVec.ofNat 8 (fld w 13 8)) (BitVec.ofNat 6 (fld w 21 6)) (BitVec.ofNat 2 (fld w 27 2)) (BitVec.ofNat 1 (fld w 29 1)) (BitVec.ofNat 2 (fld w 30 2)))

/-- The row of major opcode 0x23 that the word's function value selects. -/
def pick23 (w : Nat) : Except Reject Instr :=
  .ok (.vld (BitVec.ofNat 6 (fld w 7 6)) (BitVec.ofNat 8 (fld w 13 8)) (BitVec.ofNat 6 (fld w 21 6)) (BitVec.ofNat 3 (fld w 27 3)))

/-- The row of major opcode 0x24 that the word's function value selects. -/
def pick24 (w : Nat) : Except Reject Instr :=
  .ok (.vst (BitVec.ofNat 6 (fld w 7 6)) (BitVec.ofNat 8 (fld w 13 8)) (BitVec.ofNat 6 (fld w 21 6)) (BitVec.ofNat 3 (fld w 27 3)))

/-- The row of major opcode 0x25 that the word's function value selects. -/
def pick25 (w : Nat) : Except Reject Instr :=
  .ok (.amo (BitVec.ofNat 6 (fld w 7 6)) (BitVec.ofNat 8 (fld w 13 8)) (BitVec.ofNat 6 (fld w 21 6)) (BitVec.ofNat 3 (fld w 27 3)) (BitVec.ofNat 2 (fld w 30 2)))

/-- The row of major opcode 0x26 that the word's function value selects. -/
def pick26 (w : Nat) : Except Reject Instr :=
  .ok (.red (BitVec.ofNat 6 (fld w 7 6)) (BitVec.ofNat 8 (fld w 13 8)) (BitVec.ofNat 6 (fld w 21 6)) (BitVec.ofNat 3 (fld w 27 3)) (BitVec.ofNat 1 (fld w 30 1)) (BitVec.ofNat 1 (fld w 31 1)))

/-- The row of major opcode 0x27 that the word's function value selects. -/
def pick27 (w : Nat) : Except Reject Instr :=
  .ok (.fence (BitVec.ofNat 2 (fld w 25 2)) (BitVec.ofNat 3 (fld w 27 3)))

/-- The row of major opcode 0x28 that the word's function value selects. -/
def pick28 (w : Nat) : Except Reject Instr :=
  .ok (.pref (BitVec.ofNat 8 (fld w 13 8)) (BitVec.ofNat 6 (fld w 21 6)) (BitVec.ofNat 2 (fld w 27 2)))

/-- The row of major opcode 0x29 that the word's function value selects. -/
def pick29 (w : Nat) : Except Reject Instr :=
  .ok (.wbr (BitVec.ofNat 6 (fld w 7 6)) (BitVec.ofNat 8 (fld w 13 8)) (BitVec.ofNat 6 (fld w 21 6)))

/-- The row of major opcode 0x2A that the word's function value selects. -/
def pick2A (w : Nat) : Except Reject Instr :=
  .ok (.invr (BitVec.ofNat 6 (fld w 7 6)) (BitVec.ofNat 8 (fld w 13 8)) (BitVec.ofNat 6 (fld w 21 6)))

/-- The row of major opcode 0x30 that the word's function value selects. -/
def pick30 (w : Nat) : Except Reject Instr :=
  if fld w 28 4 = 0 then .ok (.vadd (BitVec.ofNat 6 (fld w 7 6)) (BitVec.ofNat 6 (fld w 13 6)) (BitVec.ofNat 6 (fld w 19 6)) (BitVec.ofNat 3 (fld w 25 3)))
  else if fld w 28 4 = 1 then .ok (.vsub (BitVec.ofNat 6 (fld w 7 6)) (BitVec.ofNat 6 (fld w 13 6)) (BitVec.ofNat 6 (fld w 19 6)) (BitVec.ofNat 3 (fld w 25 3)))
  else if fld w 28 4 = 2 then .ok (.vmul (BitVec.ofNat 6 (fld w 7 6)) (BitVec.ofNat 6 (fld w 13 6)) (BitVec.ofNat 6 (fld w 19 6)) (BitVec.ofNat 3 (fld w 25 3)))
  else if fld w 28 4 = 3 then .ok (.vmin (BitVec.ofNat 6 (fld w 7 6)) (BitVec.ofNat 6 (fld w 13 6)) (BitVec.ofNat 6 (fld w 19 6)) (BitVec.ofNat 3 (fld w 25 3)))
  else if fld w 28 4 = 4 then .ok (.vmax (BitVec.ofNat 6 (fld w 7 6)) (BitVec.ofNat 6 (fld w 13 6)) (BitVec.ofNat 6 (fld w 19 6)) (BitVec.ofNat 3 (fld w 25 3)))
  else if fld w 28 4 = 5 then .ok (.vminu (BitVec.ofNat 6 (fld w 7 6)) (BitVec.ofNat 6 (fld w 13 6)) (BitVec.ofNat 6 (fld w 19 6)) (BitVec.ofNat 3 (fld w 25 3)))
  else if fld w 28 4 = 6 then .ok (.vmaxu (BitVec.ofNat 6 (fld w 7 6)) (BitVec.ofNat 6 (fld w 13 6)) (BitVec.ofNat 6 (fld w 19 6)) (BitVec.ofNat 3 (fld w 25 3)))
  else if fld w 28 4 = 7 then .ok (.vand (BitVec.ofNat 6 (fld w 7 6)) (BitVec.ofNat 6 (fld w 13 6)) (BitVec.ofNat 6 (fld w 19 6)) (BitVec.ofNat 3 (fld w 25 3)))
  else if fld w 28 4 = 8 then .ok (.vor (BitVec.ofNat 6 (fld w 7 6)) (BitVec.ofNat 6 (fld w 13 6)) (BitVec.ofNat 6 (fld w 19 6)) (BitVec.ofNat 3 (fld w 25 3)))
  else if fld w 28 4 = 9 then .ok (.vxor (BitVec.ofNat 6 (fld w 7 6)) (BitVec.ofNat 6 (fld w 13 6)) (BitVec.ofNat 6 (fld w 19 6)) (BitVec.ofNat 3 (fld w 25 3)))
  else if fld w 28 4 = 10 then .ok (.vsll (BitVec.ofNat 6 (fld w 7 6)) (BitVec.ofNat 6 (fld w 13 6)) (BitVec.ofNat 6 (fld w 19 6)) (BitVec.ofNat 3 (fld w 25 3)))
  else if fld w 28 4 = 11 then .ok (.vsrl (BitVec.ofNat 6 (fld w 7 6)) (BitVec.ofNat 6 (fld w 13 6)) (BitVec.ofNat 6 (fld w 19 6)) (BitVec.ofNat 3 (fld w 25 3)))
  else if fld w 28 4 = 12 then .ok (.vsra (BitVec.ofNat 6 (fld w 7 6)) (BitVec.ofNat 6 (fld w 13 6)) (BitVec.ofNat 6 (fld w 19 6)) (BitVec.ofNat 3 (fld w 25 3)))
  else if fld w 28 4 = 13 then .ok (.vadds (BitVec.ofNat 6 (fld w 7 6)) (BitVec.ofNat 6 (fld w 13 6)) (BitVec.ofNat 6 (fld w 19 6)) (BitVec.ofNat 3 (fld w 25 3)))
  else if fld w 28 4 = 14 then .ok (.vsubs (BitVec.ofNat 6 (fld w 7 6)) (BitVec.ofNat 6 (fld w 13 6)) (BitVec.ofNat 6 (fld w 19 6)) (BitVec.ofNat 3 (fld w 25 3)))
  else .error .function

/-- The row of major opcode 0x31 that the word's function value selects. -/
def pick31 (w : Nat) : Except Reject Instr :=
  if fld w 28 4 = 0 then .ok (.vfadd (BitVec.ofNat 6 (fld w 7 6)) (BitVec.ofNat 6 (fld w 13 6)) (BitVec.ofNat 6 (fld w 19 6)) (BitVec.ofNat 3 (fld w 25 3)))
  else if fld w 28 4 = 1 then .ok (.vfsub (BitVec.ofNat 6 (fld w 7 6)) (BitVec.ofNat 6 (fld w 13 6)) (BitVec.ofNat 6 (fld w 19 6)) (BitVec.ofNat 3 (fld w 25 3)))
  else if fld w 28 4 = 2 then .ok (.vfmul (BitVec.ofNat 6 (fld w 7 6)) (BitVec.ofNat 6 (fld w 13 6)) (BitVec.ofNat 6 (fld w 19 6)) (BitVec.ofNat 3 (fld w 25 3)))
  else if fld w 28 4 = 3 then .ok (.vfmin (BitVec.ofNat 6 (fld w 7 6)) (BitVec.ofNat 6 (fld w 13 6)) (BitVec.ofNat 6 (fld w 19 6)) (BitVec.ofNat 3 (fld w 25 3)))
  else if fld w 28 4 = 4 then .ok (.vfmax (BitVec.ofNat 6 (fld w 7 6)) (BitVec.ofNat 6 (fld w 13 6)) (BitVec.ofNat 6 (fld w 19 6)) (BitVec.ofNat 3 (fld w 25 3)))
  else if fld w 28 4 = 5 then .ok (.vfabs (BitVec.ofNat 6 (fld w 7 6)) (BitVec.ofNat 6 (fld w 13 6)) (BitVec.ofNat 3 (fld w 25 3)))
  else if fld w 28 4 = 6 then .ok (.vfneg (BitVec.ofNat 6 (fld w 7 6)) (BitVec.ofNat 6 (fld w 13 6)) (BitVec.ofNat 3 (fld w 25 3)))
  else .error .function

/-- The row of major opcode 0x32 that the word's function value selects. -/
def pick32 (w : Nat) : Except Reject Instr :=
  if fld w 28 4 = 0 then .ok (.vfma (BitVec.ofNat 6 (fld w 7 6)) (BitVec.ofNat 6 (fld w 13 6)) (BitVec.ofNat 6 (fld w 19 6)) (BitVec.ofNat 3 (fld w 25 3)))
  else if fld w 28 4 = 1 then .ok (.vfms (BitVec.ofNat 6 (fld w 7 6)) (BitVec.ofNat 6 (fld w 13 6)) (BitVec.ofNat 6 (fld w 19 6)) (BitVec.ofNat 3 (fld w 25 3)))
  else .error .function

/-- The row of major opcode 0x33 that the word's function value selects. -/
def pick33 (w : Nat) : Except Reject Instr :=
  if fld w 28 4 = 0 then .ok (.vbadd (BitVec.ofNat 6 (fld w 7 6)) (BitVec.ofNat 6 (fld w 13 6)) (BitVec.ofNat 6 (fld w 19 6)) (BitVec.ofNat 3 (fld w 25 3)))
  else if fld w 28 4 = 1 then .ok (.vbmul (BitVec.ofNat 6 (fld w 7 6)) (BitVec.ofNat 6 (fld w 13 6)) (BitVec.ofNat 6 (fld w 19 6)) (BitVec.ofNat 3 (fld w 25 3)))
  else if fld w 28 4 = 2 then .ok (.vbfma (BitVec.ofNat 6 (fld w 7 6)) (BitVec.ofNat 6 (fld w 13 6)) (BitVec.ofNat 6 (fld w 19 6)) (BitVec.ofNat 3 (fld w 25 3)))
  else .error .function

/-- The row of major opcode 0x34 that the word's function value selects. -/
def pick34 (w : Nat) : Except Reject Instr :=
  if fld w 28 4 = 0 then .ok (.vceq (BitVec.ofNat 6 (fld w 7 6)) (BitVec.ofNat 6 (fld w 13 6)) (BitVec.ofNat 6 (fld w 19 6)) (BitVec.ofNat 3 (fld w 25 3)))
  else if fld w 28 4 = 1 then .ok (.vcne (BitVec.ofNat 6 (fld w 7 6)) (BitVec.ofNat 6 (fld w 13 6)) (BitVec.ofNat 6 (fld w 19 6)) (BitVec.ofNat 3 (fld w 25 3)))
  else if fld w 28 4 = 2 then .ok (.vclt (BitVec.ofNat 6 (fld w 7 6)) (BitVec.ofNat 6 (fld w 13 6)) (BitVec.ofNat 6 (fld w 19 6)) (BitVec.ofNat 3 (fld w 25 3)))
  else if fld w 28 4 = 3 then .ok (.vcle (BitVec.ofNat 6 (fld w 7 6)) (BitVec.ofNat 6 (fld w 13 6)) (BitVec.ofNat 6 (fld w 19 6)) (BitVec.ofNat 3 (fld w 25 3)))
  else if fld w 28 4 = 4 then .ok (.vcltu (BitVec.ofNat 6 (fld w 7 6)) (BitVec.ofNat 6 (fld w 13 6)) (BitVec.ofNat 6 (fld w 19 6)) (BitVec.ofNat 3 (fld w 25 3)))
  else if fld w 28 4 = 5 then .ok (.vcleu (BitVec.ofNat 6 (fld w 7 6)) (BitVec.ofNat 6 (fld w 13 6)) (BitVec.ofNat 6 (fld w 19 6)) (BitVec.ofNat 3 (fld w 25 3)))
  else if fld w 28 4 = 6 then .ok (.vfceq (BitVec.ofNat 6 (fld w 7 6)) (BitVec.ofNat 6 (fld w 13 6)) (BitVec.ofNat 6 (fld w 19 6)) (BitVec.ofNat 3 (fld w 25 3)))
  else if fld w 28 4 = 7 then .ok (.vfclt (BitVec.ofNat 6 (fld w 7 6)) (BitVec.ofNat 6 (fld w 13 6)) (BitVec.ofNat 6 (fld w 19 6)) (BitVec.ofNat 3 (fld w 25 3)))
  else if fld w 28 4 = 8 then .ok (.vfcle (BitVec.ofNat 6 (fld w 7 6)) (BitVec.ofNat 6 (fld w 13 6)) (BitVec.ofNat 6 (fld w 19 6)) (BitVec.ofNat 3 (fld w 25 3)))
  else if fld w 28 4 = 9 then .ok (.vfcun (BitVec.ofNat 6 (fld w 7 6)) (BitVec.ofNat 6 (fld w 13 6)) (BitVec.ofNat 6 (fld w 19 6)) (BitVec.ofNat 3 (fld w 25 3)))
  else .error .function

/-- The row of major opcode 0x35 that the word's function value selects. -/
def pick35 (w : Nat) : Except Reject Instr :=
  if fld w 28 4 = 0 then .ok (.vsel (BitVec.ofNat 6 (fld w 7 6)) (BitVec.ofNat 6 (fld w 13 6)) (BitVec.ofNat 6 (fld w 19 6)) (BitVec.ofNat 3 (fld w 25 3)))
  else if fld w 28 4 = 1 then .ok (.pand (BitVec.ofNat 6 (fld w 7 6)) (BitVec.ofNat 6 (fld w 13 6)) (BitVec.ofNat 6 (fld w 19 6)))
  else if fld w 28 4 = 2 then .ok (.por (BitVec.ofNat 6 (fld w 7 6)) (BitVec.ofNat 6 (fld w 13 6)) (BitVec.ofNat 6 (fld w 19 6)))
  else if fld w 28 4 = 3 then .ok (.pxor (BitVec.ofNat 6 (fld w 7 6)) (BitVec.ofNat 6 (fld w 13 6)) (BitVec.ofNat 6 (fld w 19 6)))
  else if fld w 28 4 = 4 then .ok (.pnot (BitVec.ofNat 6 (fld w 7 6)) (BitVec.ofNat 6 (fld w 13 6)))
  else .error .function

/-- The row of major opcode 0x36 that the word's function value selects. -/
def pick36 (w : Nat) : Except Reject Instr :=
  if fld w 28 4 = 0 then .ok (.vcvtif (BitVec.ofNat 6 (fld w 7 6)) (BitVec.ofNat 6 (fld w 13 6)) (BitVec.ofNat 3 (fld w 25 3)))
  else if fld w 28 4 = 1 then .ok (.vcvtfi (BitVec.ofNat 6 (fld w 7 6)) (BitVec.ofNat 6 (fld w 13 6)) (BitVec.ofNat 3 (fld w 25 3)))
  else .error .function

/-- The row of major opcode 0x37 that the word's function value selects. -/
def pick37 (w : Nat) : Except Reject Instr :=
  .ok (.vcvtn (BitVec.ofNat 6 (fld w 7 6)) (BitVec.ofNat 6 (fld w 13 6)) (BitVec.ofNat 4 (fld w 28 4)))

/-- The row of major opcode 0x38 that the word's function value selects. -/
def pick38 (w : Nat) : Except Reject Instr :=
  .ok (.vcvtz (BitVec.ofNat 6 (fld w 7 6)) (BitVec.ofNat 6 (fld w 13 6)) (BitVec.ofNat 4 (fld w 28 4)))

/-- The row of major opcode 0x39 that the word's function value selects. -/
def pick39 (w : Nat) : Except Reject Instr :=
  .ok (.vcvts (BitVec.ofNat 6 (fld w 7 6)) (BitVec.ofNat 6 (fld w 13 6)) (BitVec.ofNat 4 (fld w 28 4)))

/-- The row of major opcode 0x3A that the word's function value selects. -/
def pick3A (w : Nat) : Except Reject Instr :=
  .ok (.vcvtw (BitVec.ofNat 6 (fld w 7 6)) (BitVec.ofNat 6 (fld w 13 6)) (BitVec.ofNat 4 (fld w 28 4)))

/-- The row of major opcode 0x3B that the word's function value selects. -/
def pick3B (w : Nat) : Except Reject Instr :=
  if fld w 28 4 = 0 then .ok (.vrcp (BitVec.ofNat 6 (fld w 7 6)) (BitVec.ofNat 6 (fld w 13 6)) (BitVec.ofNat 3 (fld w 25 3)))
  else if fld w 28 4 = 1 then .ok (.vrsqrt (BitVec.ofNat 6 (fld w 7 6)) (BitVec.ofNat 6 (fld w 13 6)) (BitVec.ofNat 3 (fld w 25 3)))
  else if fld w 28 4 = 2 then .ok (.vexp2 (BitVec.ofNat 6 (fld w 7 6)) (BitVec.ofNat 6 (fld w 13 6)) (BitVec.ofNat 3 (fld w 25 3)))
  else if fld w 28 4 = 3 then .ok (.vlog2 (BitVec.ofNat 6 (fld w 7 6)) (BitVec.ofNat 6 (fld w 13 6)) (BitVec.ofNat 3 (fld w 25 3)))
  else .error .function

/-- The row of major opcode 0x3C that the word's function value selects. -/
def pick3C (w : Nat) : Except Reject Instr :=
  if fld w 28 4 = 0 then .ok (.vfdiv (BitVec.ofNat 6 (fld w 7 6)) (BitVec.ofNat 6 (fld w 13 6)) (BitVec.ofNat 6 (fld w 19 6)) (BitVec.ofNat 3 (fld w 25 3)))
  else if fld w 28 4 = 1 then .ok (.vfsqrt (BitVec.ofNat 6 (fld w 7 6)) (BitVec.ofNat 6 (fld w 13 6)) (BitVec.ofNat 3 (fld w 25 3)))
  else .error .function

/-- The row of major opcode 0x3D that the word's function value selects. -/
def pick3D (w : Nat) : Except Reject Instr :=
  if fld w 28 4 = 0 then .ok (.vredadd (BitVec.ofNat 6 (fld w 7 6)) (BitVec.ofNat 6 (fld w 13 6)) (BitVec.ofNat 3 (fld w 25 3)))
  else if fld w 28 4 = 1 then .ok (.vredfadd (BitVec.ofNat 6 (fld w 7 6)) (BitVec.ofNat 6 (fld w 13 6)) (BitVec.ofNat 3 (fld w 25 3)))
  else if fld w 28 4 = 2 then .ok (.vredmax (BitVec.ofNat 6 (fld w 7 6)) (BitVec.ofNat 6 (fld w 13 6)) (BitVec.ofNat 3 (fld w 25 3)))
  else if fld w 28 4 = 3 then .ok (.vredfmax (BitVec.ofNat 6 (fld w 7 6)) (BitVec.ofNat 6 (fld w 13 6)) (BitVec.ofNat 3 (fld w 25 3)))
  else if fld w 28 4 = 4 then .ok (.vredmin (BitVec.ofNat 6 (fld w 7 6)) (BitVec.ofNat 6 (fld w 13 6)) (BitVec.ofNat 3 (fld w 25 3)))
  else if fld w 28 4 = 5 then .ok (.vredfmin (BitVec.ofNat 6 (fld w 7 6)) (BitVec.ofNat 6 (fld w 13 6)) (BitVec.ofNat 3 (fld w 25 3)))
  else if fld w 28 4 = 6 then .ok (.vscanadd (BitVec.ofNat 6 (fld w 7 6)) (BitVec.ofNat 6 (fld w 13 6)) (BitVec.ofNat 3 (fld w 25 3)))
  else if fld w 28 4 = 7 then .ok (.vscanfadd (BitVec.ofNat 6 (fld w 7 6)) (BitVec.ofNat 6 (fld w 13 6)) (BitVec.ofNat 3 (fld w 25 3)))
  else .error .function

/-- The row of major opcode 0x3E that the word's function value selects. -/
def pick3E (w : Nat) : Except Reject Instr :=
  if fld w 28 4 = 0 then .ok (.vperm (BitVec.ofNat 6 (fld w 7 6)) (BitVec.ofNat 6 (fld w 13 6)) (BitVec.ofNat 6 (fld w 19 6)))
  else if fld w 28 4 = 1 then .ok (.vbcast (BitVec.ofNat 6 (fld w 7 6)) (BitVec.ofNat 6 (fld w 13 6)) (BitVec.ofNat 3 (fld w 25 3)))
  else if fld w 28 4 = 2 then .ok (.vrot (BitVec.ofNat 6 (fld w 7 6)) (BitVec.ofNat 6 (fld w 13 6)) (BitVec.ofNat 6 (fld w 19 6)))
  else if fld w 28 4 = 3 then .ok (.vextr (BitVec.ofNat 6 (fld w 7 6)) (BitVec.ofNat 6 (fld w 13 6)) (BitVec.ofNat 6 (fld w 19 6)))
  else if fld w 28 4 = 4 then .ok (.vinsr (BitVec.ofNat 6 (fld w 7 6)) (BitVec.ofNat 6 (fld w 13 6)) (BitVec.ofNat 6 (fld w 19 6)))
  else .error .function

/-- The row of major opcode 0x3F that the word's function value selects. -/
def pick3F (w : Nat) : Except Reject Instr :=
  if fld w 28 4 = 0 then .ok (.vmovi (BitVec.ofNat 6 (fld w 7 6)) (BitVec.ofNat 6 (fld w 13 6)))
  else if fld w 28 4 = 1 then .ok (.vstoi (BitVec.ofNat 6 (fld w 7 6)) (BitVec.ofNat 6 (fld w 13 6)))
  else if fld w 28 4 = 2 then .ok (.vgath (BitVec.ofNat 6 (fld w 7 6)) (BitVec.ofNat 6 (fld w 13 6)) (BitVec.ofNat 6 (fld w 19 6)) (BitVec.ofNat 3 (fld w 25 3)))
  else .error .function

/-- The row of major opcode 0x40 that the word's function value selects. -/
def pick40 (w : Nat) : Except Reject Instr :=
  if fld w 28 4 = 0 then .ok (.vldx (BitVec.ofNat 6 (fld w 7 6)) (BitVec.ofNat 6 (fld w 13 6)) (BitVec.ofNat 6 (fld w 19 6)) (BitVec.ofNat 3 (fld w 25 3)))
  else if fld w 28 4 = 1 then .ok (.vstx (BitVec.ofNat 6 (fld w 7 6)) (BitVec.ofNat 6 (fld w 13 6)) (BitVec.ofNat 6 (fld w 19 6)) (BitVec.ofNat 3 (fld w 25 3)))
  else .error .function

/-- The row of major opcode 0x41 that the word's function value selects. -/
def pick41 (w : Nat) : Except Reject Instr :=
  if fld w 28 4 = 0 then .ok (.vcompress (BitVec.ofNat 6 (fld w 7 6)) (BitVec.ofNat 6 (fld w 13 6)) (BitVec.ofNat 6 (fld w 19 6)) (BitVec.ofNat 3 (fld w 25 3)))
  else if fld w 28 4 = 1 then .ok (.vexpand (BitVec.ofNat 6 (fld w 7 6)) (BitVec.ofNat 6 (fld w 13 6)) (BitVec.ofNat 6 (fld w 19 6)) (BitVec.ofNat 3 (fld w 25 3)))
  else .error .function

/-- The row of major opcode 0x42 that the word's function value selects. -/
def pick42 (w : Nat) : Except Reject Instr :=
  if fld w 28 4 = 0 then .ok (.viota (BitVec.ofNat 6 (fld w 7 6)))
  else if fld w 28 4 = 1 then .ok (.vpopc (BitVec.ofNat 6 (fld w 7 6)) (BitVec.ofNat 6 (fld w 13 6)))
  else .error .function

/-- The row of major opcode 0x50 that the word's function value selects. -/
def pick50 (w : Nat) : Except Reject Instr :=
  .ok (.mma (BitVec.ofNat 5 (fld w 7 5)) (BitVec.ofNat 6 (fld w 12 6)) (BitVec.ofNat 6 (fld w 18 6)) (BitVec.ofNat 2 (fld w 24 2)) (BitVec.ofNat 1 (fld w 26 1)) (BitVec.ofNat 1 (fld w 27 1)))

/-- The row of major opcode 0x51 that the word's function value selects. -/
def pick51 (w : Nat) : Except Reject Instr :=
  if fld w 26 3 = 0 then .ok (.acczero (BitVec.ofNat 5 (fld w 7 5)))
  else if fld w 26 3 = 1 then .ok (.accld (BitVec.ofNat 5 (fld w 7 5)) (BitVec.ofNat 6 (fld w 12 6)))
  else if fld w 26 3 = 2 then .ok (.accst (BitVec.ofNat 5 (fld w 7 5)) (BitVec.ofNat 6 (fld w 12 6)))
  else if fld w 26 3 = 3 then .ok (.acccvt (BitVec.ofNat 5 (fld w 7 5)) (BitVec.ofNat 6 (fld w 12 6)) (BitVec.ofNat 2 (fld w 24 2)))
  else .error .function

/-- The row of major opcode 0x52 that the word's function value selects. -/
def pick52 (w : Nat) : Except Reject Instr :=
  if fld w 25 7 = 0 then .ok (.fmtw (BitVec.ofNat 6 (fld w 7 6)) (BitVec.ofNat 6 (fld w 13 6)))
  else if fld w 25 7 = 1 then .ok (.fmtr (BitVec.ofNat 6 (fld w 7 6)) (BitVec.ofNat 6 (fld w 13 6)))
  else .error .function

/-- The row of major opcode 0x53 that the word's function value selects. -/
def pick53 (w : Nat) : Except Reject Instr :=
  .ok (.nbmv (BitVec.ofNat 6 (fld w 7 6)) (BitVec.ofNat 8 (fld w 13 8)) (BitVec.ofNat 6 (fld w 21 6)) (BitVec.ofNat 2 (fld w 27 2)) (BitVec.ofNat 2 (fld w 29 2)))

/-- The row of major opcode 0x54 that the word's function value selects. -/
def pick54 (w : Nat) : Except Reject Instr :=
  if fld w 25 7 = 0 then .ok (.termrd (BitVec.ofNat 6 (fld w 7 6)) (BitVec.ofNat 6 (fld w 13 6)))
  else if fld w 25 7 = 1 then .ok (.termclr (BitVec.ofNat 6 (fld w 13 6)))
  else .error .function

/-- The row of major opcode 0x58 that the word's function value selects. -/
def pick58 (w : Nat) : Except Reject Instr :=
  .ok (.xcopy (BitVec.ofNat 6 (fld w 13 6)) (BitVec.ofNat 3 (fld w 25 3)))

/-- The row of major opcode 0x59 that the word's function value selects. -/
def pick59 (w : Nat) : Except Reject Instr :=
  .ok (.xmcast (BitVec.ofNat 6 (fld w 13 6)) (BitVec.ofNat 3 (fld w 25 3)))

/-- The row of major opcode 0x5A that the word's function value selects. -/
def pick5A (w : Nat) : Except Reject Instr :=
  if fld w 25 7 = 0 then .ok (.msub (BitVec.ofNat 6 (fld w 13 6)))
  else if fld w 25 7 = 1 then .ok (.munsub (BitVec.ofNat 6 (fld w 13 6)))
  else .error .function

/-- The row of major opcode 0x60 that the word's function value selects. -/
def pick60 (w : Nat) : Except Reject Instr :=
  if fld w 25 3 = 0 then .ok (.apgather (BitVec.ofNat 6 (fld w 7 6)) (BitVec.ofNat 6 (fld w 13 6)))
  else if fld w 25 3 = 1 then .ok (.apscatter (BitVec.ofNat 6 (fld w 7 6)) (BitVec.ofNat 6 (fld w 13 6)))
  else if fld w 25 3 = 2 then .ok (.apscatteradd (BitVec.ofNat 6 (fld w 7 6)) (BitVec.ofNat 6 (fld w 13 6)))
  else if fld w 25 3 = 3 then .ok (.apbin (BitVec.ofNat 6 (fld w 7 6)) (BitVec.ofNat 6 (fld w 13 6)) (BitVec.ofNat 1 (fld w 28 1)))
  else .error .function

/-- The row of major opcode 0x61 that the word's function value selects. -/
def pick61 (w : Nat) : Except Reject Instr :=
  if fld w 25 7 = 0 then .ok (.apqpop (BitVec.ofNat 6 (fld w 7 6)) (BitVec.ofNat 6 (fld w 13 6)))
  else if fld w 25 7 = 1 then .ok (.apqpush (BitVec.ofNat 6 (fld w 7 6)) (BitVec.ofNat 6 (fld w 13 6)))
  else if fld w 25 7 = 2 then .ok (.apwait (BitVec.ofNat 6 (fld w 7 6)) (BitVec.ofNat 6 (fld w 13 6)))
  else if fld w 25 7 = 3 then .ok (.apqstat (BitVec.ofNat 6 (fld w 7 6)) (BitVec.ofNat 6 (fld w 13 6)))
  else .error .function

/-- The row of major opcode 0x68 that the word's function value selects. -/
def pick68 (w : Nat) : Except Reject Instr :=
  .ok (.send (BitVec.ofNat 5 (fld w 7 5)) (BitVec.ofNat 6 (fld w 13 6)) (BitVec.ofNat 6 (fld w 19 6)))

/-- The row of major opcode 0x69 that the word's function value selects. -/
def pick69 (w : Nat) : Except Reject Instr :=
  if fld w 25 7 = 0 then .ok (.mrecv (BitVec.ofNat 6 (fld w 7 6)) (BitVec.ofNat 6 (fld w 13 6)))
  else if fld w 25 7 = 1 then .ok (.mpoll (BitVec.ofNat 6 (fld w 7 6)))
  else .error .function

/-- The row of major opcode 0x6A that the word's function value selects. -/
def pick6A (w : Nat) : Except Reject Instr :=
  .ok (.watch (BitVec.ofNat 6 (fld w 7 6)) (BitVec.ofNat 8 (fld w 13 8)) (BitVec.ofNat 6 (fld w 21 6)))

/-- The row of major opcode 0x6B that the word's function value selects. -/
def pick6B (w : Nat) : Except Reject Instr :=
  .ok (.unwatch (BitVec.ofNat 8 (fld w 13 8)) (BitVec.ofNat 6 (fld w 21 6)))

/-- The row of major opcode 0x6C that the word's function value selects. -/
def pick6C (w : Nat) : Except Reject Instr :=
  .ok (.waitw (BitVec.ofNat 6 (fld w 7 6)) (BitVec.ofNat 6 (fld w 13 6)))

/-- The row of major opcode 0x6D that the word's function value selects. -/
def pick6D (w : Nat) : Except Reject Instr :=
  if fld w 25 7 = 0 then .ok (.barcfg (BitVec.ofNat 6 (fld w 7 6)) (BitVec.ofNat 6 (fld w 13 6)))
  else if fld w 25 7 = 1 then .ok (.barrier (BitVec.ofNat 6 (fld w 13 6)))
  else if fld w 25 7 = 2 then .ok (.barpoll (BitVec.ofNat 6 (fld w 7 6)) (BitVec.ofNat 6 (fld w 13 6)))
  else .error .function

/-- The row of major opcode 0x70 that the word's function value selects. -/
def pick70 (w : Nat) : Except Reject Instr :=
  .ok (.mgrant (BitVec.ofNat 6 (fld w 7 6)) (BitVec.ofNat 6 (fld w 13 6)) (BitVec.ofNat 1 (fld w 25 1)))

/-- The row of major opcode 0x71 that the word's function value selects. -/
def pick71 (w : Nat) : Except Reject Instr :=
  if fld w 25 7 = 0 then .ok (.mrelease (BitVec.ofNat 6 (fld w 7 6)) (BitVec.ofNat 6 (fld w 13 6)))
  else if fld w 25 7 = 1 then .ok (.mquota (BitVec.ofNat 6 (fld w 7 6)))
  else .error .function

/-- The row of major opcode 0x72 that the word's function value selects. -/
def pick72 (w : Nat) : Except Reject Instr :=
  .ok (.fred (BitVec.ofNat 6 (fld w 13 6)) (BitVec.ofNat 3 (fld w 25 3)))

/-- The row of major opcode 0x73 that the word's function value selects. -/
def pick73 (w : Nat) : Except Reject Instr :=
  if fld w 25 7 = 0 then .ok (.fbarrier (BitVec.ofNat 6 (fld w 13 6)))
  else if fld w 25 7 = 1 then .ok (.fbarpoll (BitVec.ofNat 6 (fld w 7 6)) (BitVec.ofNat 6 (fld w 13 6)))
  else .error .function

/-- The row of major opcode 0x78 that the word's function value selects. -/
def pick78 (w : Nat) : Except Reject Instr :=
  .ok (.csrr (BitVec.ofNat 6 (fld w 7 6)) (BitVec.ofNat 12 (fld w 19 12)))

/-- The row of major opcode 0x79 that the word's function value selects. -/
def pick79 (w : Nat) : Except Reject Instr :=
  .ok (.csrw (BitVec.ofNat 6 (fld w 13 6)) (BitVec.ofNat 12 (fld w 19 12)))

/-- The row of major opcode 0x7A that the word's function value selects. -/
def pick7A (w : Nat) : Except Reject Instr :=
  if fld w 25 7 = 0 then .ok .ecall
  else if fld w 25 7 = 1 then .ok .ebreak
  else if fld w 25 7 = 2 then .ok .tret
  else .error .function

/-- The row of major opcode 0x7B that the word's function value selects. -/
def pick7B (w : Nat) : Except Reject Instr :=
  if fld w 25 7 = 0 then .ok (.rdtime (BitVec.ofNat 6 (fld w 7 6)))
  else if fld w 25 7 = 1 then .ok (.rdcycle (BitVec.ofNat 6 (fld w 7 6)))
  else if fld w 25 7 = 2 then .ok (.rdinsn (BitVec.ofNat 6 (fld w 7 6)))
  else .error .function

/-- The row of major opcode 0x7C that the word's function value selects. -/
def pick7C (w : Nat) : Except Reject Instr :=
  if fld w 25 7 = 0 then .ok (.tlbinv (BitVec.ofNat 6 (fld w 13 6)) (BitVec.ofNat 6 (fld w 19 6)))
  else if fld w 25 7 = 1 then .ok .wfi
  else .error .function

/-- The row of major opcode 0x00 that the word's function value selects. -/
def pick00 (_w : Nat) : Except Reject Instr :=
  .ok .illegal

/-- The row that a word's major opcode and function value select, with the word's fields (R58 to R67). -/
def pick (w : Nat) : Except Reject Instr :=
  if fld w 0 7 = 0x01 then pick01 w
  else if fld w 0 7 = 0x02 then pick02 w
  else if fld w 0 7 = 0x03 then pick03 w
  else if fld w 0 7 = 0x04 then pick04 w
  else if fld w 0 7 = 0x05 then pick05 w
  else if fld w 0 7 = 0x06 then pick06 w
  else if fld w 0 7 = 0x07 then pick07 w
  else if fld w 0 7 = 0x08 then pick08 w
  else if fld w 0 7 = 0x09 then pick09 w
  else if fld w 0 7 = 0x0A then pick0A w
  else if fld w 0 7 = 0x0B then pick0B w
  else if fld w 0 7 = 0x0C then pick0C w
  else if fld w 0 7 = 0x0D then pick0D w
  else if fld w 0 7 = 0x0E then pick0E w
  else if fld w 0 7 = 0x0F then pick0F w
  else if fld w 0 7 = 0x10 then pick10 w
  else if fld w 0 7 = 0x11 then pick11 w
  else if fld w 0 7 = 0x12 then pick12 w
  else if fld w 0 7 = 0x13 then pick13 w
  else if fld w 0 7 = 0x14 then pick14 w
  else if fld w 0 7 = 0x15 then pick15 w
  else if fld w 0 7 = 0x18 then pick18 w
  else if fld w 0 7 = 0x19 then pick19 w
  else if fld w 0 7 = 0x1A then pick1A w
  else if fld w 0 7 = 0x1B then pick1B w
  else if fld w 0 7 = 0x1C then pick1C w
  else if fld w 0 7 = 0x20 then pick20 w
  else if fld w 0 7 = 0x21 then pick21 w
  else if fld w 0 7 = 0x22 then pick22 w
  else if fld w 0 7 = 0x23 then pick23 w
  else if fld w 0 7 = 0x24 then pick24 w
  else if fld w 0 7 = 0x25 then pick25 w
  else if fld w 0 7 = 0x26 then pick26 w
  else if fld w 0 7 = 0x27 then pick27 w
  else if fld w 0 7 = 0x28 then pick28 w
  else if fld w 0 7 = 0x29 then pick29 w
  else if fld w 0 7 = 0x2A then pick2A w
  else if fld w 0 7 = 0x30 then pick30 w
  else if fld w 0 7 = 0x31 then pick31 w
  else if fld w 0 7 = 0x32 then pick32 w
  else if fld w 0 7 = 0x33 then pick33 w
  else if fld w 0 7 = 0x34 then pick34 w
  else if fld w 0 7 = 0x35 then pick35 w
  else if fld w 0 7 = 0x36 then pick36 w
  else if fld w 0 7 = 0x37 then pick37 w
  else if fld w 0 7 = 0x38 then pick38 w
  else if fld w 0 7 = 0x39 then pick39 w
  else if fld w 0 7 = 0x3A then pick3A w
  else if fld w 0 7 = 0x3B then pick3B w
  else if fld w 0 7 = 0x3C then pick3C w
  else if fld w 0 7 = 0x3D then pick3D w
  else if fld w 0 7 = 0x3E then pick3E w
  else if fld w 0 7 = 0x3F then pick3F w
  else if fld w 0 7 = 0x40 then pick40 w
  else if fld w 0 7 = 0x41 then pick41 w
  else if fld w 0 7 = 0x42 then pick42 w
  else if fld w 0 7 = 0x50 then pick50 w
  else if fld w 0 7 = 0x51 then pick51 w
  else if fld w 0 7 = 0x52 then pick52 w
  else if fld w 0 7 = 0x53 then pick53 w
  else if fld w 0 7 = 0x54 then pick54 w
  else if fld w 0 7 = 0x58 then pick58 w
  else if fld w 0 7 = 0x59 then pick59 w
  else if fld w 0 7 = 0x5A then pick5A w
  else if fld w 0 7 = 0x60 then pick60 w
  else if fld w 0 7 = 0x61 then pick61 w
  else if fld w 0 7 = 0x68 then pick68 w
  else if fld w 0 7 = 0x69 then pick69 w
  else if fld w 0 7 = 0x6A then pick6A w
  else if fld w 0 7 = 0x6B then pick6B w
  else if fld w 0 7 = 0x6C then pick6C w
  else if fld w 0 7 = 0x6D then pick6D w
  else if fld w 0 7 = 0x70 then pick70 w
  else if fld w 0 7 = 0x71 then pick71 w
  else if fld w 0 7 = 0x72 then pick72 w
  else if fld w 0 7 = 0x73 then pick73 w
  else if fld w 0 7 = 0x78 then pick78 w
  else if fld w 0 7 = 0x79 then pick79 w
  else if fld w 0 7 = 0x7A then pick7A w
  else if fld w 0 7 = 0x7B then pick7B w
  else if fld w 0 7 = 0x7C then pick7C w
  else if fld w 0 7 = 0x00 then pick00 w
  else .error .opcode

/-- R68 steps 1 to 4, as far as the word alone decides them: the row is assigned, every bit the row does not use is zero
(the word is the word of the instruction picked), the modifiers are assigned, and the registers lie in their classes. -/
def decode (w : BitVec 32) : Except Reject Instr :=
  match pick w.toNat with
  | .error r => .error r
  | .ok i =>
    if i.modifiersOk then
      if i.encodeNat = w.toNat then
        if i.registersOk then .ok i else .error .register
      else .error .zeroField
    else .error .modifier

/-- The word whose bytes stand at rising addresses, little-endian (R2, R52). -/
def wordOfBytes (b0 b1 b2 b3 : Byte) : BitVec 32 := b3 ++ b2 ++ b1 ++ b0

/-- The bytes of a word, lowest address first (R2). -/
def bytesOfWord (w : BitVec 32) : List Byte :=
  [w.extractLsb' 0 8, w.extractLsb' 8 8, w.extractLsb' 16 8, w.extractLsb' 24 8]

/-- The instruction at the front of a list of bytes and the bytes after it. -/
def decodeBytes : List Byte → Except Reject (Instr × List Byte)
  | b0 :: b1 :: b2 :: b3 :: rest => (decode (wordOfBytes b0 b1 b2 b3)).map fun i => (i, rest)
  | _ => .error .short

/-- The decoder on a row of the opcode table: the word's bytes as memory holds them, given to `decodeBytes`. -/
def decodeTableWord (nbits w : Nat) : Option Instr :=
  match decodeBytes (bytesOfWord (BitVec.ofNat 32 (w % 2 ^ nbits))) with
  | .ok (i, _) => some i
  | .error _ => none

end Sys2Proof
end

