-- ==== Sys2Proof/Config.lean ====
section
/-! DEFINITION. What an implementation fixes, and the values the manual leaves free. A constant without a body is a free
value: nothing in the package can evaluate it. -/

namespace Sys2Proof.Config

/-- Bytes of CXL memory that the attached devices decode (R18). DESIGN CHOICE (log 7): the full 16 TiB. Safe for a module
with that capacity; on a smaller one accesses past the capacity raise PAGE. -/
def cxlBytes : Nat := 2 ^ 44

/-- Free value: the DELAY field of the `n`-th response of the machine (R323, R358). -/
opaque linkDelay : Nat → BitVec 16

/-- Free value: where the `n`-th steal begins within a reach of so many cores (R50). -/
opaque stealStart : Nat → Nat → Nat

/-- Free value: the byte that a line written under one key shows when it is read under another (R363); the arguments are
the location, the key of the write, the key of the read (0 is none, and `k + 1` is key `k`), and the stored byte. -/
opaque otherKeyByte : Nat → Nat → Nat → Byte → Byte

/-- Free value: a byte of memory after a thermal trip (R366). -/
opaque trippedByte : Nat → Byte

/-- Free value: module power in watts at the `n`-th comparison (R365). -/
opaque measuredWatts : Nat → Nat

/-- Free value: the die that drew the most power in the `n`-th interval (R365). -/
opaque hottestDie : Nat → Nat

/-- Free value: what a temperature sensor shows until its first reading is taken (R360). -/
opaque temperature : Nat → BitVec 16

/-- Free value: a digest of the ROM, the firmware image or the Kerlis image (R362). -/
opaque digest : Nat → Nat → BitVec 512

/-- Free value: the signature over a report under the module's identity key with an index (R362). -/
opaque signature : Nat → Nat → Nat → List Byte

/-- Free value: the identity public key of a module, without its OID (R362). -/
opaque publicKey : Nat → List Byte

/-- Free value: the supply voltages in mV, by VF state, that firmware computes for a die at the `n`-th sampling of its ring oscillators
(R367). -/
opaque agedVolts : Nat → Nat → List Nat

/-- Free value: the margins of a die's VF states, as MARGINn holds them, at the `n`-th sampling (R367). -/
opaque agedMargins : Nat → Nat → Word

/-- Free value: where Kerlis starts on a CCC (R361); the argument is the cluster. -/
opaque kerlisEntry : Nat → Word

/-- Free value: what firmware writes to CCTX, CLTAB, CHBASE, CHLIMIT and CHOFF before Kerlis first runs (R14); the
arguments are the cluster and the number of the register in that order. -/
opaque kerlisCsr : Nat → Nat → Word

/-- Free value: a non-minimal route's intermediate pod (R322). -/
opaque viaPod : Nat → Nat

/-- Free value: which of a packet's routes has the shortest output queue (R322); the arguments are the time, the thread, the destination and
the SEQ of the packet. -/
opaque routeChoice : Nat → Nat → Nat → Nat → Nat

/-- Free value: a word whose value the manual does not state (log 14); the argument numbers the occasions. -/
opaque openWord : Nat → Word

/-- Free value: a byte of the parts of a pre-emption image whose inner layout the manual does not give (R296); the arguments
are the save's number and the byte's offset in the image. -/
opaque imageByte : Nat → Nat → Byte

end Sys2Proof.Config
end

