-- ==== Sys2Proof/Machine/State.lean ====
section
/-! DEFINITION. The state of the machine: every module of the fabric with its dies, clusters, cores and thread slots, the
switches, the memory, the pending records and packets (01_organisation, 02, 19, 21, 23, 25, 27, 28). State is plain data.

Numbers that name things:
* a core is its global core ID (R17); the register store of a CCC is core record `2^20 + cluster`;
* a cluster is its global cluster ID, a die `module * 8 + die`, a switch `pod * 16 + switch`;
* a thread is `core * 16 + slot`, a CCC thread `2^24 + cluster * 4 + slot`;
* a location is `module * 2^52 + physical address`, or `2^62 + (switch * 49152 + bank page) * 2^21 + offset` for Moraine memory. -/

namespace Sys2Proof.Machine

/-- A vector register: 32 lanes of 32 bits, lane 0 lowest (R2, R15). -/
abbrev Vec := BitVec 1024

/-- An accumulator tile: 16 x 16 elements of 32 bits, element 16 i + n at bits 32 (16 i + n) (R15, R222). -/
abbrev Tile := BitVec 8192

/-- What a completing instruction writes (R42). -/
inductive Writeback where
  /-- Writes nothing. -/
  | none
  /-- Writes a scalar. -/
  | scalar (d : BitVec 6) (v : Word)
  /-- Writes a scalar and sets FFLAGS bits (R99). -/
  | flagged (d : BitVec 6) (v : Word) (flags : BitVec 5)
  /-- Writes two scalars (R331). -/
  | pair (d : BitVec 6) (v w : Word)
  /-- Writes three scalars (R112). -/
  | triple (d : BitVec 6) (u v w : Word)
  /-- Writes the lanes of a vector register whose mask bit is set. -/
  | vector (d : BitVec 6) (mask : BitVec 32) (v : Vec)
  /-- Writes consecutive window registers, each under a lane mask (R234). -/
  | window (r : Nat) (vs : List (BitVec 32 × Vec))
  deriving DecidableEq, Repr

/-- How the replies of a request outside the module are put together (R323). -/
inductive Finish where
  /-- A load: the value's byte addresses, lowest first, and whether it is sign-extended (R145). -/
  | load (d : BitVec 6) (addrs : List Nat) (sext : Bool)
  /-- A vector load: the mask, and the byte addresses of each active lane (R147). -/
  | vload (d : BitVec 6) (mask : BitVec 32) (lanes : List (Nat × List Nat))
  /-- An atomic of a width in bytes: the old value is in the reply (R149). -/
  | amo (d : BitVec 6) (w : Nat)
  /-- A store or reduction: nothing is written (R142). -/
  | store
  /-- A result in the acknowledgement is written to one scalar (R323 kind 13). -/
  | scalar (d : BitVec 6)
  /-- MGRANT with its descriptor word: the layout entry is written before s[d] (R328, R329). -/
  | grant (d : BitVec 6) (w : Word)
  /-- MQUOTA: bytes grantable, then the packed second word (R331). -/
  | quota (d : BitVec 6)
  deriving DecidableEq, Repr

/-- Why an instruction that issued is performed later: the thread stays parked until the reason is over, and then the
instruction issues again. -/
inductive Retry where
  /-- The side log takes no entry now: it holds 64, or its record waits for the trap queue (R137, R280). -/
  | sideLogFull
  /-- The pages have live side-log entries (R137, R139). -/
  | pageLive (pages : List Nat)
  /-- A release waits for R144; `log` says whether the side log counts (condition 2). -/
  | release (log : Bool)
  /-- An engine holds a line of the access in X (R167). -/
  | lineX (lines : List Nat)
  /-- The fetch of the instruction waits, as a coherent read does, and the instruction has not issued: for lines in X, for pages with
  side-log entries of its own thread, or for a run at a directory, by the tile and the kind of request (R53, R152, R167, R261). -/
  | fetch (lines pages : List Nat) (tile : Option (Nat × Nat))
  /-- A conflict under R261 on a tile; `seq` orders the waiting requests; kind 0 read, 1 write, 2 COMM. -/
  | conflict (tile seq kind : Nat)
  /-- The accumulator tile of a core is locked (R224). -/
  | lock (g tile : Nat)
  /-- The irrevocable token is asked for and not yet held (R264). -/
  | token
  /-- The token is held, and another explicit transaction of the die is open (R264). -/
  | tokenDrain
  /-- Another thread of the die holds the token (R264). -/
  | tokenBusy
  /-- The destination's inbound mailbox queue is full (R113). -/
  | inboundFull (core : Nat)
  /-- 256 packets of the thread to a destination are not acknowledged; one destination for each packet that is to be sent (R324). -/
  | window (dests : List Nat)
  deriving DecidableEq, Repr

/-- The unit that computes a divide or square root. -/
inductive DivUnit where
  /-- Integer divide (R93). -/
  | int
  /-- Scalar FP32 divide and square root (R93). -/
  | fp
  /-- Vector FP32 divide and square root (R196). -/
  | vector
  deriving DecidableEq, Repr

/-- What a thread waits for (R42). -/
inductive Wait where
  /-- Not parked. -/
  | ready
  /-- A divide or square root whose result is due at a core cycle (R93, R196). -/
  | result (unit : DivUnit) (due : Nat) (wb : Writeback)
  /-- The reply of an access or request served in the module; the bank counts its delay (R42, R358). -/
  | response (bank : Nat) (wb : Writeback)
  /-- Replies of packets still out, with the bytes received so far and the first error: cause and trap value (R323). -/
  | fabric (bank left : Nat) (got : Memory) (err : Option (Nat × Word)) (fin : Finish)
  /-- A release store or reduction that waits in the side log, until its entry has replayed (R146). -/
  | logged
  /-- A local SEND whose value has not arrived yet (R113). -/
  | send
  /-- A DQSTEAL on its way to the victims' deques, with the core cycle of its issue: it reaches none before that cycle's local operations
  (R49, R50). -/
  | steal (d : BitVec 6) (issued : Nat)
  /-- An MMA not yet started in the array, or in it and due at a cycle; `res` is the tile it writes, `uf` whether a
  subnormal was flushed, `opens` the elements an assist must complete, `counts` TERMS, ZSKIP, I, GSTALL and the B format, `word`
  the instruction word (R223, R236, R286). -/
  | mma (started : Bool) (due : Nat) (tile : Nat) (res : Tile) (uf : Bool) (opens : BitVec 256) (counts : List Nat) (word : W32)
  /-- MRECV of an empty mailbox; `seq` orders the parked threads (R115). -/
  | mrecv (d : BitVec 6) (box seq : Nat)
  /-- BARRIER on an object in a phase (R118). -/
  | barrier (obj phase : Nat)
  /-- FBARRIER: the object and the number of the hub's phase that counts the arrival (R340). -/
  | fbarrier (obj phase : Nat)
  /-- FRED: the contribution travels or waits at the switch (R337). -/
  | fred (obj : Nat)
  /-- WAITW: destination and time-out tick, or none without one (R155). -/
  | waitw (d : BitVec 6) (deadline : Option Nat)
  /-- APQPOP of a queue; `seq` orders the parked threads (R309). -/
  | apqpop (q seq : Nat)
  /-- APQPUSH to a full queue (R313). -/
  | apqpush (q seq : Nat)
  /-- A stream start that waits for a slot or for acceptance (R302). -/
  | apstart
  /-- APWAIT on a stream slot (R318). -/
  | apwait (d : BitVec 6) (slot : Nat)
  /-- A copy that waits for acceptance (R242). -/
  | copy
  /-- SCLOSE after step 4 of R265, until its held requests and its releases are done. -/
  | commit
  /-- TLBINV, until what translated through the dropped entries is complete (R133). -/
  | tlbinv (mode ctx : Nat)
  /-- The instruction issues again when the reason is over. -/
  | retry (r : Retry)
  /-- WFI until a tick (R289). -/
  | wfi (deadline : Nat)
  /-- A pending kind-1 record (R277). -/
  | trapped
  deriving DecidableEq, Repr

/-- A COMM reduction held in a run (R266). -/
structure CommEntry where
  loc : Nat := 0
  op : Nat := 0
  w : Nat := 4
  value : Nat := 0
  /-- Key index of the write (R363). -/
  key : Nat := 0
  /-- The scope fields of the layout entry (R266). -/
  scope : Nat := 0
  deriving DecidableEq, Repr

/-- A translated page, as the 64 KiB piece of it that holds an address: location of the piece's first byte, key, cache mode 1, the home
module, and the size of the page that the leaf maps (R130). -/
structure Xlat where
  loc : Nat := 0
  key : Nat := 0
  uncached : Bool := false
  home : Nat := 0
  size : Nat := 65536
  deriving DecidableEq, Repr

/-- A copy engine's operation (R238 to R249). -/
structure CopyOp where
  thread : Nat := 0
  region : Nat := 0
  ctx : Nat := 0
  cluster : Nat := 0
  multicast : Bool := false
  src : BitVec 512 := 0
  dst : BitVec 512 := 0
  srcAt : Word := 0
  dstAt : Word := 0
  /-- Image bytes to move. -/
  limit : Nat := 0
  tag : Nat := 0
  scope : Nat := 0
  /-- Selected counter: cluster and index. -/
  sel : Nat := 0
  cnt : Nat := 0
  /-- Heap window of the region at issue: base, limit, offset (R129). -/
  heap : Nat × Nat × Nat := (0, 0, 0)
  /-- Image bytes before the first part that failed at acceptance, its cause, and the translations (R242). -/
  moved : Nat := 0
  cause : Nat := 0
  srcX : SMap Xlat := []
  dstX : SMap Xlat := []
  lines : List Nat := []
  /-- Multicast: the packets are sent. -/
  sent : Bool := false
  accepted : Bool := false
  /-- The issuing thread is parked until acceptance; a copy sent at commit holds no thread (R246). -/
  wake : Bool := true
  deriving DecidableEq, Repr

/-- A request held until a run commits (R111, R246, R267): the instruction, the operand words and entries read at issue, and
the copy where it is one. -/
structure HeldReq where
  instr : Instr := .illegal
  args : List Nat := []
  copy : Option CopyOp := none
  deriving DecidableEq, Repr

/-- What the outermost SOPEN, or the first issue of an ordered run, saves (R262). -/
structure Checkpoint where
  sreg : SMap Word := []
  preg : SMap (BitVec 32) := []
  fmt : SMap Word := []
  fflags : BitVec 5 := 0
  xclip : BitVec 9 := 0
  gens : SMap W32 := []
  deriving DecidableEq, Repr

/-- A run: an explicit transaction or an ordered task's speculative run (R255). -/
structure Run where
  /-- An explicit transaction is open, or an ordered run is in progress. -/
  active : Bool := false
  /-- The run is an ordered task's. -/
  ordered : Bool := false
  /-- Conflict tiles read, written and held for COMM reductions (R255). -/
  reads : List Nat := []
  writes : List Nat := []
  comms : List Nat := []
  /-- Speculative bytes, by location, and by `die * 2^64 + location` for a line of a DIRECTED entry. -/
  buf : List (Nat × Byte) := []
  /-- Key indices of the lines written, where they are not 0 (R363). -/
  keys : SMap Nat := []
  /-- A release was issued in the run: it takes effect at the commit; and one at core scope or wider was (R143, R144, R265). -/
  rel : Bool := false
  relLog : Bool := false
  /-- Lines of the run in state W at their home (R257). -/
  wlines : List Nat := []
  log : List CommEntry := []
  held : List HeldReq := []
  undoRegs : SMap Vec := []
  undoTiles : SMap Tile := []
  ckpt : Checkpoint := {}
  /-- Ordered children spawned in the run: cluster, descriptor slot and serial number of the entry (R48). -/
  children : List (Nat × Nat × Nat) := []
  /-- Versioned-slice entries of a finished-speculative record (R272). -/
  record : Nat := 0
  deriving DecidableEq, Repr

/-- What befalls a thread that is parked on an MMA in the cycle in which the MMA writes its tile (R228). -/
inductive Doom where
  /-- Its run aborts with a cause and a code (R261). -/
  | abort (cause code : Nat)
  /-- Its task is squashed (R48). -/
  | squash
  deriving DecidableEq, Repr

/-- A near-bank operation, as its descriptor was read at issue (R232 to R235). -/
structure NearOp where
  thread : Nat := 0
  region : Nat := 0
  ctx : Nat := 0
  heap : Nat × Nat × Nat := (0, 0, 0)
  /-- The vector, the format word, the matrix's entry with the first coordinates and the rows, the output's entry and offset. -/
  row : BitVec 3072 := 0
  fmt : Nat := 0
  mat : BitVec 512 := 0
  x0 : Nat := 0
  x1 : Nat := 0
  n : Nat := 0
  out : BitVec 512 := 0
  off : Nat := 0
  scope : Nat := 0
  /-- The counter's cluster and index, and the lines held in X. -/
  sel : Nat := 0
  cnt : Nat := 0
  lines : List Nat := []
  /-- The window register of the results, where they do not go to memory. -/
  dst : Nat := 0
  deriving DecidableEq, Repr

/-- One thread slot (R5, R14, R39). -/
structure Thread where
  /-- The slot holds a thread. -/
  live : Bool := false
  pc : Word := 0
  sreg : SMap Word := []
  preg : SMap (BitVec 32) := []
  fmt : SMap Word := []
  fflags : BitVec 5 := 0
  xclip : BitVec 9 := 0
  /-- The 32 generators of stochastic rounding (R192). -/
  gens : SMap W32 := []
  insn : Word := 0
  /-- Input tiles are still to be staged: the thread issues nothing (R40). -/
  staging : Bool := false
  winStart : Nat := 0
  winRegs : Nat := 0
  /-- Physical tiles of acc0, acc1, ... (R38). -/
  tiles : List Nat := []
  region : Nat := 0
  ctx : Nat := 0
  /-- The slice and the descriptor slot of the task. A restored thread may run in another cluster than its slice's (R171). -/
  slice : Nat := 0
  dslot : Nat := 0
  /-- The task is ordered, with its timestamp and tiebreak (R47). -/
  ordered : Bool := false
  ts : Nat := 0
  tie : Nat := 0
  /-- Core cycle of the last issue, if it has issued (R41). -/
  lastIssue : Option Nat := none
  /-- Core cycle in which it last woke, if it has (R42). -/
  woke : Option Nat := none
  wait : Wait := .ready
  /-- Nesting depth, AGE, CONFL, CAUSE, CODE, IRREV, FALLBACK (R268, R271). -/
  depth : Nat := 0
  age : Nat := 0
  confl : Nat := 0
  cause : Nat := 0
  code : Nat := 0
  irrev : Bool := false
  fallback : Word := 0
  run : Run := {}
  /-- An abort or a squash that waits for the thread's MMA to write its tile (R228). -/
  doomed : Option Doom := none
  /-- Posted accesses not acknowledged, and the first error reported and not yet raised: cause and address (R142, R144). -/
  posted : Nat := 0
  postedErr : Option (Nat × Word) := none
  /-- SEQ of the next packet by destination (R323). -/
  seqs : SMap Nat := []
  /-- Supervisor mode; CCC slots only (R70). -/
  super : Bool := false
  cctx : Word := 0
  cltab : Word := 0
  chbase : Word := 0
  chlimit : Word := 0
  choff : Word := 0
  tsel : Word := 0
  txidx : Word := 0
  /-- The PC that issues once without a breakpoint match (R350), and the one whose access passes the watch entries once (R352). -/
  passBreak : Option Word := none
  passWatch : Option Word := none
  /-- The PC that DDATA has written while the thread was parked: it sees it when it issues next (R349). -/
  nextPc : Option Word := none
  /-- The word that the thread fetched last: that of the instruction on which it is parked (R42). -/
  word : W32 := 0
  /-- The layout entries that its instruction named when it issued, once they are read; a later table write does not change them (R124). -/
  entries : Option (SMap Nat) := none
  /-- The near-bank operation of an NBMV that has passed its checks and waits to be performed (R233). -/
  near : Option NearOp := none
  deriving DecidableEq, Repr

/-- An entry of the range deque (R49). -/
structure DqEntry where
  lo : Word := 0
  hi : Word := 0
  tag : BitVec 16 := 0
  deriving DecidableEq, Repr

/-- An entry of a core's side log (R136). -/
structure LogEntry where
  thread : Nat := 0
  region : Nat := 0
  ctx : Nat := 0
  entry : BitVec 512 := 0
  /-- Bytes of a store by virtual address; of a reduction, the element's address and operand. -/
  cells : List (Nat × Byte) := []
  /-- The addresses translated: the first byte, and the first byte of each other page that the store touches. -/
  vas : List Nat := []
  red : Option (Nat × Nat) := none
  /-- The order, and the scope of a release. -/
  rel : Bool := false
  scope : Nat := 0
  /-- Cluster and slot of the AP stream that the entry belongs to (R312). -/
  stream : Option (Nat × Nat) := none
  /-- The element's number in the stream. -/
  elem : Nat := 0
  /-- The entry has a pending kind-2 record: it is not retried before that is resolved (R138). -/
  recorded : Bool := false
  deriving DecidableEq, Repr

/-- A cached translation (R132). -/
structure TlbEntry where
  slot : Nat := 0
  ctx : Nat := 0
  /-- First virtual address of the page, and its size in bytes. -/
  va : Nat := 0
  size : Nat := 0
  leaf : BitVec 64 := 0
  deriving DecidableEq, Repr

/-- The debug and trace registers of a core (R345 to R358). -/
structure Debug where
  en : Bool := false
  sslot : Nat := 0
  stopped : Bool := false
  err : Bool := false
  slot : Nat := 0
  index : Nat := 0
  cause : Nat := 0
  /-- A stop that is asked for and has not taken effect: cause, slot and index (R347). -/
  pending : Option (Nat × Nat × Nat) := none
  /-- The slot whose next issue is the step (R345). -/
  step : Option Nat := none
  dsel : Word := 0
  ibpa : SMap Word := []
  ibpc : SMap Word := []
  swpo : SMap Word := []
  swpc : SMap Word := []
  /-- TCTL without FLUSH, TBASE, TWR.OFF, TSTAT.FULL, TSTAT.LOST, TSAMP. -/
  tctl : Word := 0
  tbase : Word := 0
  twr : Nat := 0
  full : Bool := false
  lost : Nat := 0
  tsamp : Word := 0
  /-- Trace records formed and not yet written, and the count of records formed (R355). -/
  formed : List (BitVec 256) := []
  seq : Nat := 0
  /-- Records lost since the last one written. -/
  gap : Nat := 0
  /-- Bytes of the ring written since it was last emptied, for FULL. -/
  filled : Nat := 0
  /-- Cycle of the last sample. -/
  sampled : Nat := 0
  /-- Thread slot that issued last, the cycle in which it did, its PC, and its task: slot * 256 + region (R355). -/
  issued : Option (Nat × Nat × Word × Nat) := none
  dsum : SMap Word := []
  dcnt : SMap Word := []
  deriving DecidableEq, Repr

/-- One core: its registers and queues (R15). A CCC's record holds its register store and its first-level TLB (R14). -/
structure Core where
  store : SMap Vec := []
  accs : SMap Tile := []
  /-- Locked tiles (R224). -/
  locks : List Nat := []
  /-- The cycle in which each tile's lock last cleared (R42, R224). -/
  unlocked : SMap Nat := []
  /-- Last owner, launch and context, of each block of 64 registers and of each tile (R364). -/
  regOwner : SMap (Nat × Nat) := []
  tileOwner : SMap (Nat × Nat) := []
  /-- Registers written since the image was last written or read (R297). -/
  dirty : List Nat := []
  resident : Option Nat := none
  lastHeld : Option (Nat × Nat) := none
  mail : SMap Word := []
  present : BitVec 32 := 0
  inbound : List (Nat × Word) := []
  deque : List DqEntry := []
  sideLog : List LogEntry := []
  tlb : List TlbEntry := []
  terms : SMap Word := []
  /-- The cycle in which an MMA last wrote its tile, and what it counted then (R237). -/
  counted : Option (Nat × List Nat) := none
  /-- First cycle at which the array is free, and MMAs waiting for it in order (R223). -/
  arrayFree : Nat := 0
  arrayQueue : List Nat := []
  lastSlot : Nat := 15
  lastCycle : Option Nat := none
  dbg : Debug := {}
  /-- Image that the residency was last restored from (R297). -/
  image : Option Nat := none
  deriving DecidableEq, Repr

/-- A task's state in its slice. Parked is dispatched with a parked thread; a committed or aborted task has no slot (R36). -/
inductive TaskState where
  | waiting
  | ready
  | dispatched
  | finishedSpeculative
  /-- The thread is held in an image; it keeps the state it had (R299). -/
  | saved
  deriving DecidableEq, Repr

/-- A task in a descriptor slot (R31, R36). -/
structure Task where
  desc : BitVec 512 := 0
  state : TaskState := .waiting
  /-- Tick at which it last became ready, and the order in which it did (R44, R45). -/
  readyTick : Nat := 0
  readySeq : Nat := 0
  tie : Nat := 0
  thread : Nat := 0
  /-- MODEL: the number of the entry, by which a task differs from an earlier one of its slot (R48). -/
  serial : Nat := 0
  /-- The slice whose counter the descriptor names: a stolen task keeps it (R39, R46). -/
  home : Nat := 0
  /-- The ordered task that spawned it: cluster and slot. -/
  parent : Option (Nat × Nat) := none
  /-- A FAULT abort holds it back until its record is resolved (R273). -/
  heldBack : Bool := false
  /-- Next input tile to stage, 0 to 4; 4 when all are staged (R40). -/
  staged : Nat := 4
  /-- Staging met a fault and waits for its record. -/
  stagingFault : Bool := false
  /-- The layout entries of the four input tiles, once staging has begun (R40). -/
  captured : Option (List Nat) := none
  /-- Effective priority at the last complete ageing interval (R45). -/
  aged : Nat := 0
  run : Run := {}
  deriving DecidableEq, Repr

/-- A dependence counter (R35). -/
structure Counter where
  value : Nat := 0
  bound : Option Nat := none
  status : Nat := 0
  under : Bool := false
  deriving DecidableEq, Repr

/-- An armed watch (R154, R156). -/
structure WatchEntry where
  word : Nat := 0
  thread : Nat := 0
  va : Nat := 0
  ctx : Nat := 0
  fired : Bool := false
  deriving DecidableEq, Repr

/-- The kinds of an AP stream (R300, R314). -/
inductive StreamKind where
  | gather
  | scatter
  | scatterAdd
  | binCount
  | binPlace
  deriving DecidableEq, Repr

/-- An AP stream (R300 to R318). -/
structure Stream where
  kind : StreamKind := .gather
  thread : Nat := 0
  cluster : Nat := 0
  region : Nat := 0
  ctx : Nat := 0
  heap : Nat × Nat × Nat := (0, 0, 0)
  /-- Captured entries with their indices: index or position, data or histogram, source or output. -/
  il : BitVec 512 := 0
  dl : BitVec 512 := 0
  sl : BitVec 512 := 0
  ilx : Nat := 0
  dlx : Nat := 0
  slx : Nat := 0
  n : Nat := 0
  /-- Element size in bytes. -/
  e : Nat := 4
  ioff : Nat := 0
  doff : Nat := 0
  soff : Nat := 0
  vsrc : Bool := false
  /-- SCATTERADD: the reduction of R150, 3 for FADD and 0 for IADD. -/
  op : Nat := 0
  /-- The parameter register of a binning stream (R314). -/
  param : Vec := 0
  queue : Option Nat := none
  cntv : Bool := false
  scope : Nat := 0
  sel : Nat := 0
  cnt : Nat := 0
  /-- Elements accepted, the next one to read, write or process, and those written. -/
  accepted : Nat := 0
  pos : Nat := 0
  done : Nat := 0
  /-- Snapshot: index or cell of each accepted element, and the values of a VSRC stream (R310, R316). -/
  snap : List Nat := []
  values : List Byte := []
  /-- Pages of destinations that raised PAGE at acceptance, and the lines in X of each element from `pos` on (R310, R312). -/
  faults : List Nat := []
  lines : List (List Nat) := []
  stop : Nat := 0
  /-- A deferred failure: cause and address (R308). -/
  stall : Option (Nat × Word) := none
  ended : Bool := false
  cancel : Bool := false
  status : Nat := 0
  /-- The task that started it, by its serial number, or the CCC thread; and whether that task has ended (R317). -/
  owner : Nat × Nat := (0, 0)
  orphan : Bool := false
  /-- The lines were returned for a wait at the directory, and are to be taken again (R261). -/
  dropped : Bool := false
  /-- Side-log entries of the stream not yet replayed, and elements one of whose entries was removed (R312). -/
  logged : Nat := 0
  skipped : List Nat := []
  deriving DecidableEq, Repr

/-- An AP queue that is bound (R300, R301). -/
structure ApQueue where
  stream : Nat := 0
  inbound : Bool := false
  region : Nat := 0
  thread : Nat := 0
  /-- As of its stream. -/
  owner : Nat × Nat := (0, 0)
  /-- Bytes of the stream, bytes present, and units that have passed in or out. -/
  total : Nat := 0
  data : List Byte := []
  units : Nat := 0
  /-- The stream has not ended. -/
  attached : Bool := true
  deriving DecidableEq, Repr

/-- A stream start that waits (R302). -/
structure ApStart where
  thread : Nat := 0
  d : BitVec 6 := 0
  queue : Option Nat := none
  stream : Stream := {}
  /-- The thread is still parked for it: an abort does not undo a start (R320). -/
  wake : Bool := true
  deriving DecidableEq, Repr

/-- Whose run commits: its thread's number, cluster and region, and whether the thread is still there. -/
structure Owner where
  thread : Nat := 0
  cluster : Nat := 0
  region : Nat := 0
  here : Bool := true
  deriving DecidableEq, Repr

/-- A run that has passed step 4 of R265: the held requests still to be sent, in order; whether a release of the run takes effect at
step 6, and whether condition 2 of R144 applies to it; and whether the first request is a copy that waits for its acceptance. -/
structure Commit where
  owner : Owner := {}
  held : List HeldReq := []
  rel : Bool := false
  relLog : Bool := false
  submitted : Bool := false
  /-- The first error of a posted access that one of its releases met: cause and address (R144). -/
  err : Option (Nat × Word) := none
  deriving DecidableEq, Repr

/-- One cluster: HTS slice, watch table, copy engine, AP, and its CCC's records and pre-emption registers (R13). -/
structure Cluster where
  tasks : SMap Task := []
  counters : SMap Counter := []
  /-- Dispatch counts by region * 8 + level (R44). -/
  dispatched : SMap Nat := []
  /-- Turn bits by region: true names the ordered kind (R44). -/
  turn : SMap Bool := []
  orderedCount : Nat := 0
  /-- The held task and the core reserved for it (R44). -/
  held : Option Nat := none
  reserved : Option Nat := none
  watches : List WatchEntry := []
  tlb : List TlbEntry := []
  copies : List CopyOp := []
  nears : List NearOp := []
  /-- Commits whose steps 5 to 7 are not done (R265). -/
  commits : List Commit := []
  streams : SMap Stream := []
  queues : SMap ApQueue := []
  starts : List ApStart := []
  drops : Nat := 0
  rseq : Nat := 0
  /-- CSM lines written since the image was last written or read, by location / 128 (R297). -/
  csmDirty : List Nat := []
  /-- PREIMG, PRESTAT.BUSY and CODE, and the save in progress: core, CSM flag, image (R293). -/
  preimg : Word := 0
  preBusy : Bool := false
  preCode : Nat := 0
  saving : Option (Nat × Bool × Nat) := none
  /-- The restore in progress: core, CSM flag, image. -/
  restoring : Option (Nat × Bool × Nat) := none
  deriving DecidableEq, Repr

/-- A line of a DIRECTED entry in a die's L2: bytes, dirty bits, and the key index of the page it was last reached through (R130, R140). -/
structure DLine where
  data : BitVec 1024 := 0
  dirty : BitVec 128 := 0
  key : Nat := 0
  deriving DecidableEq, Repr

/-- One die (R12). -/
structure Die where
  vf : Nat := 0
  /-- The supply voltages by VF state that ageing has computed, in mV, and the one in effect since the last transition, where one was
  computed (R367). -/
  volts : List Nat := []
  voltage : Option Nat := none
  /-- Tick of the last VF step that a hot sensor caused (R366). -/
  heatTick : Option Nat := none
  /-- Core cycles counted up to the time `since`, in core cycles and fine time (R20, R288). -/
  cycles : Nat := 0
  since : Nat := 0
  /-- The clock stands still for a VF transition (R365). -/
  halted : Bool := false
  token : Option Nat := none
  tokenQueue : List Nat := []
  dwa : SMap Word := []
  dwc : SMap Word := []
  dwh : SMap Word := []
  directed : SMap DLine := []
  /-- The routers' tag bits: by tag, the clusters of the die whose bit is set (R248). -/
  tags : SMap (List Nat) := []
  deriving DecidableEq, Repr

/-- A barrier object (R116). -/
structure BarrierObj where
  owner : Nat := 0
  count : Nat := 0
  arrivals : Nat := 0
  phase : Nat := 0
  ctr : Option Nat := none
  deriving DecidableEq, Repr

/-- A hub's side of a fabric barrier (R340). -/
structure HubBarrier where
  arrivals : Nat := 0
  /-- Phases reported to the switch, and phases released. -/
  sent : Nat := 0
  released : Nat := 0
  /-- The phase number of the last release (R353). -/
  phase : Nat := 0
  deriving DecidableEq, Repr

/-- A multicast subscription of a cluster (R247). -/
structure Subscription where
  cluster : Nat := 0
  tag : Nat := 0
  region : Nat := 0
  ctx : Nat := 0
  lay : BitVec 512 := 0
  cntv : Bool := false
  cnt : Nat := 0
  heap : Nat × Nat × Nat := (0, 0, 0)
  /-- Index of the captured layout entry (R247, R276). -/
  layx : Nat := 0
  deriving DecidableEq, Repr

/-- A running region: the effective control block and the resources counted against it (R24 to R29). -/
structure Region where
  rcb : Nat := 0
  /-- The effective values, after inheritance, in the layout of R24. -/
  eff : BitVec 2048 := 0
  parent : Option Nat := none
  /-- MODEL: number of the launch, by which a region differs from an earlier one of the same number (R364). -/
  serial : Nat := 0
  deriving DecidableEq, Repr

/-- One module (R10, R359). -/
structure Module where
  regions : SMap Region := []
  /-- RGNSTART's value while the launch is checked, RGNSTAT (R27). -/
  launch : Option Word := none
  rgnLost : Bool := false
  rgnNum : Nat := 0
  rgnCode : Nat := 0
  ctxtab : Word := 0
  peertab : Word := 0
  /-- FCOLCFG's value while it is installed, FCOLSTAT (R334). -/
  fcol : Option Word := none
  fcolLost : Bool := false
  fcolCode : Nat := 0
  barriers : SMap BarrierObj := []
  hubBarriers : SMap HubBarrier := []
  subs : List Subscription := []
  /-- The hub's tag bits: by tag, the dies whose bit is set (R248). -/
  tags : SMap (List Nat) := []
  /-- Last owner, by launch, of each 64 KiB block of the CSM allocations (R364). -/
  csmOwner : SMap Nat := []
  gvtTick : Nat := 0
  /-- OLDEST as last computed (R259): kind 0 ordered before 1 explicit, then the two parts of the age, then the last. -/
  oldest : Option (Nat × Nat × Nat × Nat) := none
  /-- Global virtual time by region, none where it is infinite (R48). -/
  gvt : SMap (Option (Nat × Nat)) := []
  commitSeq : Nat := 0
  ready : Bool := false
  err : Nat := 0
  stage : Nat := 0
  /-- The boot in progress: the failure that it will meet, or 0; the step that fails; and the image's version (R361). -/
  booting : Option (Nat × Nat × Nat) := none
  /-- Version of the image that booted last, the fused minimum, and the boots of that version in succession while it is above the minimum
  (R361, R362). -/
  version : Nat := 0
  fused : Nat := 0
  higherBoots : Nat := 0
  plim : Nat := 6400
  pwr : Nat := 0
  vfcap : Word := 0
  fqmax : Word := 0
  temp : SMap (BitVec 16) := []
  /-- Sensors that have passed their limit and not fallen 5 degrees below it (R366). -/
  hot : List Nat := []
  /-- Tick of the last hourly sampling of the ring oscillators (R367). -/
  ageTick : Nat := 0
  margin : SMap Word := []
  secnt : SMap Word := []
  /-- Intervals in a row below WATTS - 200 (R365), and the tick of the last comparison. -/
  low : Nat := 0
  powerTick : Nat := 0
  /-- Root regions that fail and whose drain is not complete (R282). -/
  failing : List Nat := []
  /-- The keys of the key slots (R363). A slot holds key 0 until one is loaded (DESIGN CHOICE, log 27). -/
  keys : SMap Nat := []
  tripped : Bool := false
  /-- MSI-X vectors sent to the host, oldest first (R29). -/
  msix : List Nat := []
  /-- Switches that this hub holds for failed (R333). -/
  failed : List Nat := []
  /-- Results of service calls and host reads: bytes returned (R362, R359). -/
  service : List (List Byte) := []
  hostRead : Option Word := none
  /-- Identity key's next index (R362). -/
  signIndex : Nat := 0
  /-- Degradation events logged to the management cluster (R333). -/
  degraded : Nat := 0
  deriving DecidableEq, Repr

/-- A tenant's page on a switch (R326, R332). -/
structure MorPage where
  bank : Nat := 0
  /-- Module and region that granted it; region 256 once no running region counts it (R330). -/
  owner : Nat × Nat := (0, 0)
  /-- The switch that holds the other copy. -/
  mirror : Option Nat := none
  /-- The switch that the page's addresses name. -/
  primary : Nat := 0
  /-- Of a LOST page: the switch whose failure lost it, until that one is replaced (R333). -/
  lostAt : Option Nat := none
  deriving DecidableEq, Repr

/-- A waiting or stored contribution (R337). -/
structure Contribution where
  module : Nat := 0
  thread : Nat := 0
  region : Nat := 0
  regs : List Vec := []
  deriving DecidableEq, Repr

/-- A collective object of a switch (R334 to R341). -/
structure FabricObj where
  desc : BitVec 512 := 0
  number : Nat := 0
  stored : List Contribution := []
  waiting : List Contribution := []
  reported : List Nat := []
  deriving DecidableEq, Repr

/-- One switch (R22, R321). -/
structure Switch where
  /-- Page maps by context * 65536 + page (R326). -/
  pages : SMap MorPage := []
  /-- Pages that are LOST and that no MRELEASE has named (R333). -/
  lost : SMap MorPage := []
  quota : SMap Nat := []
  /-- The intermediate pods of the routing table, four for each pod (R322). -/
  routes : List Nat := []
  objects : SMap FabricObj := []
  /-- Tag bits: by tag, the ports that are set; port `p < 72` a module's, `72 + q` pod q's switch (R248). -/
  tags : SMap (List Nat) := []
  failed : Bool := false
  /-- Mirrored pages that its failure left unmirrored: degradation events of each hub that is told (R333). -/
  halved : Nat := 0
  /-- Packets discarded for their KIND or CLASS (R323). -/
  discarded : Nat := 0
  deriving DecidableEq, Repr

/-- Where a pending record stands (R280, R281). -/
inductive Place where
  /-- Made, and not yet delivered. -/
  | fresh
  /-- In the CCC's trap queue; `read` once TQ has returned it. -/
  | queue (read : Bool)
  /-- On the chain: the walk starts at a region, or has passed every root where there is none. -/
  | chain (start : Option Nat)
  /-- With a handler task of a region. -/
  | handler (region : Nat)
  deriving DecidableEq, Repr

/-- A pending fault record (R277 to R279). -/
structure Record where
  handle : BitVec 64 := 0
  cause : Nat := 0
  tpc : Word := 0
  tval : Word := 0
  tnpc : Word := 0
  region : Nat := 0
  place : Place := .fresh
  /-- Open elements of an assist (R286) and the locked tile. -/
  opens : BitVec 256 := 0
  tile : Nat := 0
  deriving DecidableEq, Repr

/-- A packet in flight (R323). `kind` has the values of the table of packet kinds. -/
structure Packet where
  kind : Nat := 0
  /-- CLASS, LEN, ROUTE, VIA and DELAY. -/
  cls : Nat := 0
  len : Nat := 0
  route : Nat := 0
  via : Nat := 0
  delay : Nat := 0
  /-- The plane that it uses (R322). -/
  plane : Nat := 0
  thread : Nat := 0
  srcu : Nat := 0
  /-- Source module. -/
  from_ : Nat := 0
  /-- Destination: a module, or `1024 + switch`. -/
  dest : Nat := 0
  ctx : Nat := 0
  region : Nat := 0
  addr : Nat := 0
  seq : Nat := 0
  ord : Nat := 0
  opc : Nat := 0
  status : Nat := 0
  size : Nat := 0
  aux : Nat := 0
  key : Nat := 0
  payload : List Byte := []
  /-- LAST of a multicast packet. -/
  last : Bool := false
  /-- The packet was discarded whole, and its source has it to send again (R324). -/
  stomped : Bool := false
  /-- No thread waits for the reply: the request was held in a run, or its thread has left its slot; an error is reported under kind
  5 (R111). -/
  held : Bool := false
  /-- POSTED: a Moraine store or reduction that its thread does not wait for (R142). -/
  posted : Bool := false
  /-- A SEND whose release has not taken effect: it holds its place among the SENDs of its core and is not delivered (R113, R144). -/
  gate : Bool := false
  /-- MODEL: the virtual address that the source formed the request from, and the kind of the request that a reply answers. -/
  va : Nat := 0
  req : Nat := 0
  deriving DecidableEq, Repr

/-- A thread that an image holds: its slot, its task, and the registers and tiles that count against its region (R295, R298). -/
structure SavedThread where
  slot : Nat := 0
  /-- The slice and the descriptor slot of the task. -/
  slice : Nat := 0
  dslot : Nat := 0
  regs : Nat := 0
  tiles : Nat := 0
  deriving DecidableEq, Repr

/-- A residency that is held in an image (R299): what counts for its region until it is restored or discarded, and the set-up of its
streams and queues. All else stands in the image's memory (R296). -/
structure Image where
  cluster : Nat := 0
  core : Nat := 0
  region : Nat := 0
  ctx : Nat := 0
  generation : Nat := 0
  threads : List SavedThread := []
  streams : List (Nat × Stream) := []
  queues : List (Nat × ApQueue) := []
  /-- Bytes of the CSM section, 0 without one. -/
  csm : Nat := 0
  deriving DecidableEq, Repr

/-- The reasons a step stops the machine. There is none: every step the manual describes has a next state, and an uncorrectable
or undefined datum reaches a program as a trap or as a free value. -/
inductive Fault where
  deriving DecidableEq, Repr

/-- The reasons a step is refused. -/
inductive Refusal where
  /-- An arm of `exec` without a meaning; raised by `exec` alone. Safe: the model stops where the machine goes on. -/
  | notModelled (mnemonic : String)
  deriving DecidableEq, Repr

/-- The whole fabric. -/
structure State where
  threads : SMap Thread := []
  cores : SMap Core := []
  clusters : SMap Cluster := []
  dies : SMap Die := []
  modules : SMap Module := []
  switches : SMap Switch := []
  /-- Modules present in the fabric (R17, R321). Before POD_CONFIGURATION has assigned numbers it is module 0 alone (log 76). -/
  present : List Nat := [0]
  mem : Memory := []
  /-- The key that a line was last written under, one more than its value; a line that is not listed holds plain bytes (R363). -/
  lineKey : SMap Nat := []
  /-- Uncorrectable bytes of memory by location; register-store words, as a lane mask by core * 4096 + register; and
  accumulator elements, as an element mask by core * 32 + tile (R285). -/
  badMem : List Nat := []
  badRegs : SMap (BitVec 32) := []
  badAccs : SMap (BitVec 256) := []
  /-- Owner context of each 64 KiB frame of HBM (R364), by location / 65536. -/
  frameOwner : SMap Nat := []
  /-- Lines in directory state X, by location / 128 (R257). -/
  xlines : List Nat := []
  /-- Requests that wait at a directory for a conflict tile, in the order in which they reached it: tile, thread, unit and cluster (R261). -/
  dirQueue : List (Nat × Nat × Nat × Nat) := []
  /-- Residencies held in images, by the number of the save (R299). -/
  images : SMap Image := []
  records : List Record := []
  net : List Packet := []
  /-- Packets that wait at their source for room in the window of their destination, in order (R324). -/
  egress : List Packet := []
  /-- Package time in units of 1 / (150 * 232792560) microseconds; a tick is 34918884 units (R4, R20). -/
  time : Nat := 0
  /-- MODEL: moves from outside still to come, in order. -/
  agenda : List Instr := []
  /-- MODEL: the thread that issues. -/
  cur : Nat := 0
  /-- MODEL: the counter that free values and orders of arrival are drawn from. -/
  fresh : Nat := 0
  deriving DecidableEq, Repr

/-- The machine right after module reset: no thread, no region, nothing listed in memory, and every register at its reset
value (R6). Values the manual gives no reset value for are those of the assumption log (1 to 4, 6). That module 0 alone is present is a
DESIGN CHOICE (log 76): R17 numbers the modules when the pod is configured. -/
def State.reset : State := {}

end Sys2Proof.Machine
end

