-- ==== Sys2Proof/Machine/Basic.lean ====
section
/-! DEFINITION. Where a thread runs, how the parts of the state are read and replaced, time, scalars, predicates and window
registers (01_organisation R14, R15, R17, R20; 02_execution_model R38; 21_traps R288, R297). -/

namespace Sys2Proof.Machine

/-- The outcome of one step of this machine. -/
abbrev Out := Host.Outcome State Fault Refusal

/-! ### Numbers of units -/

/-- The number from which CCC threads count. -/
def cccBase : Nat := 2 ^ 24

/-- Whether a thread belongs to a CCC (R14). -/
def isCcc (t : Nat) : Bool := decide (cccBase ≤ t)

/-- The record that holds a thread's register store. -/
def threadCore (t : Nat) : Nat := if isCcc t then 2 ^ 20 + (t - cccBase) / 4 else t / 16

/-- The slot of a thread in its core. -/
def threadSlot (t : Nat) : Nat := if isCcc t then (t - cccBase) % 4 else t % 16

/-- The global cluster ID of a thread (R17). -/
def threadCluster (t : Nat) : Nat := if isCcc t then (t - cccBase) / 4 else t / 128

/-- The thread in a slot of a core record. -/
def slotThread (g slot : Nat) : Nat := if g < 2 ^ 20 then g * 16 + slot else cccBase + (g - 2 ^ 20) * 4 + slot

/-- The cluster of a core record. -/
def coreCluster (g : Nat) : Nat := if g < 2 ^ 20 then g / 8 else g - 2 ^ 20

def clusterDie (cl : Nat) : Nat := cl / 16

def clusterModule (cl : Nat) : Nat := cl / 128

def threadDie (t : Nat) : Nat := clusterDie (threadCluster t)

def threadModule (t : Nat) : Nat := clusterModule (threadCluster t)

/-- Thread slots of a core record: 16 on a compute core, 4 on a CCC (R14, R15). -/
def coreSlots (g : Nat) : Nat := if g < 2 ^ 20 then 16 else 4

/-- ID field of a record that concerns a thread (R279): the global core ID, or the global cluster ID above three zeros. -/
def threadId (t : Nat) : Nat := if isCcc t then threadCluster t * 8 else t / 16

/-! ### Parts of the state -/

def State.thr (s : State) (t : Nat) : Thread := SMap.getD s.threads t {}
def State.setThr (s : State) (t : Nat) (th : Thread) : State := { s with threads := SMap.set s.threads t th }
def State.core (s : State) (g : Nat) : Core := SMap.getD s.cores g {}
def State.setCore (s : State) (g : Nat) (c : Core) : State := { s with cores := SMap.set s.cores g c }
def State.cluster (s : State) (cl : Nat) : Cluster := SMap.getD s.clusters cl {}
def State.setCluster (s : State) (cl : Nat) (c : Cluster) : State := { s with clusters := SMap.set s.clusters cl c }
def State.die (s : State) (d : Nat) : Die := SMap.getD s.dies d {}
def State.setDie (s : State) (d : Nat) (x : Die) : State := { s with dies := SMap.set s.dies d x }
def State.module (s : State) (m : Nat) : Module := SMap.getD s.modules m {}
def State.setModule (s : State) (m : Nat) (x : Module) : State := { s with modules := SMap.set s.modules m x }
def State.switch (s : State) (w : Nat) : Switch := SMap.getD s.switches w {}
def State.setSwitch (s : State) (w : Nat) (x : Switch) : State := { s with switches := SMap.set s.switches w x }

/-- The thread that issues. -/
def State.me (s : State) : Thread := s.thr s.cur

/-- Replaces the thread that issues. -/
def State.setMe (s : State) (th : Thread) : State := s.setThr s.cur th

/-- The next number of the counter of arrivals and free values. -/
def State.tick1 (s : State) : State := { s with fresh := s.fresh + 1 }

/-- The state that an event gives, where it changes anything. -/
def changed (s s' : State) : Option State := if s' = s then none else some s'

/-- The live threads, by number. -/
def State.liveThreads (s : State) : List (Nat × Thread) := s.threads.filter fun e => e.2.live

/-! ### Time (R4, R20) -/

/-- Fine time units in one tick of the package timebase. -/
def tickUnits : Nat := 34918884

/-- Fine time units in one core cycle at VF state n: 150 (n + 5) MHz. -/
def cycleUnits (vf : Nat) : Nat := 232792560 / (vf + 5)

/-- The package timebase in ticks (R20). One count serves every module: the model takes no skew between them, of which R20 allows up to 50
ticks (DESIGN CHOICE, log 79). -/
def State.ticks (s : State) : Nat := s.time / tickUnits

/-- Core cycles of a die since module reset (R288). -/
def State.dieCycle (s : State) (d : Nat) : Nat :=
  let x := s.die d
  if x.halted then x.cycles else x.cycles + (s.time - x.since) / cycleUnits x.vf

/-- Core cycles of a thread's core. -/
def State.cycleOf (s : State) (t : Nat) : Nat := s.dieCycle (threadDie t)

/-! ### Scalars and predicates -/

/-- Scalar n of a thread; s0 reads zero (R56). -/
def Thread.s (th : Thread) (n : Nat) : Word := if n = 0 then 0 else SMap.getD th.sreg n 0

/-- Writes scalar n; a write of s0 is discarded (R56). -/
def Thread.setS (th : Thread) (n : Nat) (v : Word) : Thread :=
  if n = 0 then th else { th with sreg := SMap.set th.sreg n v }

/-- Predicate n; p0 reads all ones (R56). -/
def Thread.p (th : Thread) (n : Nat) : BitVec 32 := if n = 0 then BitVec.allOnes 32 else SMap.getD th.preg n 0

/-- Writes predicate n; a write of p0 is discarded (R292). -/
def Thread.setP (th : Thread) (n : Nat) (v : BitVec 32) : Thread :=
  if n = 0 then th else { th with preg := SMap.set th.preg n v }

/-- A scalar of the thread that issues. -/
def State.sr (s : State) (n : BitVec 6) : Word := s.me.s n.toNat

/-- A scalar of the thread that issues, by number (groups). -/
def State.srN (s : State) (n : Nat) : Word := s.me.s n

/-- Writes a scalar of the thread that issues. -/
def State.setSr (s : State) (n : BitVec 6) (v : Word) : State := s.setMe (s.me.setS n.toNat v)

/-- A predicate of the thread that issues. -/
def State.pr (s : State) (n : Nat) : BitVec 32 := s.me.p n

/-! ### Completing an instruction -/

/-- An instruction of thread t is complete: its PC moves on by 4 and it counts for RDINSN (R288). -/
def State.retireAt (s : State) (t : Nat) : State :=
  let th := s.thr t
  s.setThr t { th with pc := th.pc + 4, insn := th.insn + 1, wait := .ready }

/-- The instruction that issues is complete. -/
def State.retire (s : State) : State := s.retireAt s.cur

/-- A control transfer is complete, with the next PC. -/
def State.jump (s : State) (pc : Word) : State :=
  s.setMe { s.me with pc := pc, insn := s.me.insn + 1, wait := .ready }

/-- Whether a thread is parked on an instruction that has issued (R42). A fetch that waits and a retry at a locked tile have not issued
(R53, R224). -/
def Thread.parked (th : Thread) : Bool :=
  match th.wait with
  | .ready => false
  | .trapped => false
  | .retry (.fetch _ _ _) => false
  | .retry (.lock _ _) => false
  | _ => true

/-- The PC that the debug registers show: the next instruction, where the last one has issued, or what DDATA wrote (R347, R349). -/
def Thread.shownPc (th : Thread) : Word := th.nextPc.getD (if th.parked then th.pc + 4 else th.pc)

/-- The thread that issues parks. Its PC stays at the instruction until the instruction is complete (R42). -/
def State.park (s : State) (w : Wait) : State := s.setMe { s.me with wait := w }

/-! ### Vector registers and tiles -/

/-- Lane i of a vector register (R2). -/
def lane (v : Vec) (i : Nat) : W32 := BitVec.ofNat 32 (v.toNat / 2 ^ (32 * i))

/-- The number whose 32-bit digits are f 0, ..., f (n - 1), lowest first. -/
def digits (f : Nat → W32) : Nat → Nat
  | 0 => 0
  | n + 1 => digits f n + (f n).toNat * 2 ^ (32 * n)

/-- The register with the given lanes. -/
def ofLanes (f : Nat → W32) : Vec := BitVec.ofNat 1024 (digits f 32)

/-- Lanes whose mask bit is 1 come from `new`, the others from `old`. -/
def merge (mask : BitVec 32) (new old : Vec) : Vec :=
  ofLanes fun i => if mask.getLsbD i then lane new i else lane old i

/-- First register of a thread's window in its register store (R14, R38). -/
def winStart (t : Nat) (th : Thread) : Nat := if isCcc t then 256 * threadSlot t else th.winStart

/-- W: the window's size (R14, R38). -/
def winSize (t : Nat) (th : Thread) : Nat := if isCcc t then 256 else th.winRegs

/-- Register-store index of window register r (R38). -/
def State.phys (s : State) (t r : Nat) : Nat := (winStart t (s.thr t) + r) % 4096

/-- Window register r of thread t. -/
def State.vecAt (s : State) (t r : Nat) : Vec := SMap.getD (s.core (threadCore t)).store (s.phys t r) 0

/-- Window register r of the thread that issues. -/
def State.vec (s : State) (r : Nat) : Vec := s.vecAt s.cur r

/-- Adds a number to a list that holds it at most once. -/
def insertNew (xs : List Nat) (x : Nat) : List Nat := if xs.contains x then xs else x :: xs

/-- Writes the lanes under `mask` of window register r of thread t: the register is dirty (R297), an open run keeps its
first old value (R262), and a lane that is written is no longer uncorrectable (R285). -/
def State.setVecAt (s : State) (t r : Nat) (mask : BitVec 32) (v : Vec) : State :=
  let g := threadCore t
  let k := s.phys t r
  let old := s.vecAt t r
  let c := s.core g
  let th := s.thr t
  let s1 := s.setCore g { c with
    store := SMap.set c.store k (if mask = BitVec.allOnes 32 then v else merge mask v old), dirty := insertNew c.dirty k }
  let s2 := if th.run.active && !SMap.has th.run.undoRegs k
    then s1.setThr t { th with run := { th.run with undoRegs := SMap.set th.run.undoRegs k old } } else s1
  let b := g * 4096 + k
  if SMap.has s2.badRegs b then { s2 with badRegs := SMap.set s2.badRegs b (SMap.getD s2.badRegs b 0 &&& ~~~mask) } else s2

/-- Writes window register r of the thread that issues under a mask. -/
def State.setVec (s : State) (r : Nat) (mask : BitVec 32) (v : Vec) : State := s.setVecAt s.cur r mask v

/-- The physical tile of acc e (R38). -/
def Thread.tile (th : Thread) (e : Nat) : Nat := th.tiles.getD e 0

/-- Element x of a tile. -/
def elemOf (v : Tile) (x : Nat) : W32 := BitVec.ofNat 32 (v.toNat / 2 ^ (32 * x))

/-- The tile with the given elements. -/
def ofElems (f : Nat → W32) : Tile := BitVec.ofNat 8192 (digits f 256)

/-- A tile of a core. -/
def State.tileAt (s : State) (g k : Nat) : Tile := SMap.getD (s.core g).accs k 0

/-- Writes physical tile k for thread t; an open run keeps its first old value (R262). -/
def State.setTileAt (s : State) (t k : Nat) (v : Tile) : State :=
  let g := threadCore t
  let old := s.tileAt g k
  let c := s.core g
  let th := s.thr t
  let s1 := s.setCore g { c with accs := SMap.set c.accs k v }
  let s2 := if th.run.active && !SMap.has th.run.undoTiles k
    then s1.setThr t { th with run := { th.run with undoTiles := SMap.set th.run.undoTiles k old } } else s1
  { s2 with badAccs := SMap.erase s2.badAccs (g * 32 + k) }

/-- Performs what a completing instruction writes (R42). -/
def State.writeback (s : State) (t : Nat) (wb : Writeback) : State :=
  match wb with
  | .none => s
  | .scalar d v => s.setThr t ((s.thr t).setS d.toNat v)
  | .flagged d v f => let th := (s.thr t).setS d.toNat v; s.setThr t { th with fflags := th.fflags ||| f }
  | .pair d v w => s.setThr t (((s.thr t).setS d.toNat v).setS (d.toNat + 1) w)
  | .triple d u v w => s.setThr t ((((s.thr t).setS d.toNat u).setS (d.toNat + 1) v).setS (d.toNat + 2) w)
  | .vector d m v => s.setVecAt t d.toNat m v
  | .window r vs => ((List.range vs.length).zip vs).foldl (fun s x => s.setVecAt t (r + x.1) x.2.1 x.2.2) s

/-- The parked thread t wakes in this cycle, its instruction complete (R42). -/
def State.wakeAt (s : State) (t : Nat) : State :=
  let th := s.thr t
  s.setThr t { th with pc := th.pc + 4, insn := th.insn + 1, wait := .ready, woke := some (s.cycleOf t) }

/-- The thread's instruction completes with what it writes, and the thread wakes (R42). -/
def State.complete (s : State) (t : Nat) (wb : Writeback) : State := (s.writeback t wb).wakeAt t

end Sys2Proof.Machine
end

