-- ==== Sys2Proof/Machine/Space.lean ====
section
/-! DEFINITION. Layout entries, addresses, contexts, page walks, TLBs and the bytes of memory (08_memory_spaces R121 to R135,
R140; 01_organisation R18, R19; 28_platform R363, R364). -/

namespace Sys2Proof.Machine

/-! ### Cause codes (R276) -/

def causeILLEGAL : Nat := 1
def causePRIV : Nat := 2
def causeLAYOUT : Nat := 3
def causeALIGN : Nat := 4
def causePAGE : Nat := 5
def causeDATA : Nat := 6
def causeASSIST : Nat := 7
def causeBREAK : Nat := 8
def causeWATCH : Nat := 9
def causeREMOTE : Nat := 10
def causeLOST : Nat := 11
def causeQUOTA : Nat := 12
def causeECALL : Nat := 13

/-- A cause with its trap value (R276). -/
abbrev Trap := Nat × Word

/-! ### Physical ranges (R18) -/

def hbmBytes : Nat := 2 ^ 42
def csmBase : Nat := 2 ^ 43
def csmBytes : Nat := 2 ^ 30
def ctlBase : Nat := 0x0C0000000000
def ctlBytes : Nat := 2 ^ 32
def cxlBase : Nat := 2 ^ 44

def inHbm (pa : Nat) : Bool := decide (pa < hbmBytes)
def inCsm (pa : Nat) : Bool := decide (csmBase ≤ pa ∧ pa < csmBase + csmBytes)
def inCtl (pa : Nat) : Bool := decide (ctlBase ≤ pa ∧ pa < ctlBase + ctlBytes)
def inCxl (pa : Nat) : Bool := decide (cxlBase ≤ pa ∧ pa < cxlBase + Config.cxlBytes)

/-- Whether a physical address lies in an assigned range (R18). -/
def assigned (pa : Nat) : Bool := inHbm pa || inCsm pa || inCtl pa || inCxl pa

/-- The location of a physical address of a module. -/
def locOf (m pa : Nat) : Nat := m * 2 ^ 52 + pa

/-- The location of a byte of a Moraine bank page. -/
def moraineLoc (sw bank off : Nat) : Nat := 2 ^ 62 + (sw * 49152 + bank) * 2 ^ 21 + off

def locPa (loc : Nat) : Nat := loc % 2 ^ 52
def locModule (loc : Nat) : Nat := loc / 2 ^ 52

/-- The HBM stack of a physical address (R19). -/
def stackOf (pa : Nat) : Nat := bits pa 16 12 ^^^ bits pa 21 17

/-- The home die, 0 to 7, of a physical address (R19). -/
def homeDie (pa : Nat) : Nat := if inCsm pa then bits pa 29 27 else stackOf pa / 4

/-- The cluster of a module whose CSM holds a physical address (R18). -/
def csmCluster (m pa : Nat) : Nat := m * 128 + bits pa 29 23

/-! ### Regions and contexts -/

/-- The region of a module, or one with every field zero. -/
def State.region (s : State) (m r : Nat) : Region := SMap.getD (s.module m).regions r {}

/-- A field of the effective control block (R24). -/
def Region.f (r : Region) (hi lo : Nat) : Nat := bits r.eff.toNat hi lo

/-- An address space: context, layout table, heap window base, limit and offset (R24, R14). -/
structure Space where
  ctx : Nat := 0
  ltab : Nat := 0
  heap : Nat × Nat × Nat := (0, 0, 0)
  deriving DecidableEq, Repr

/-- The address space of a region (R24). -/
def Region.space (r : Region) : Space :=
  { ctx := r.f 101 86, ltab := r.f 511 448, heap := (r.f 575 512, r.f 639 576, r.f 703 640) }

/-- The address space of a thread (R14, R24). -/
def State.space (s : State) (t : Nat) : Space :=
  let th := s.thr t
  if isCcc t then
    { ctx := bits th.cctx.toNat 15 0, ltab := th.cltab.toNat,
      heap := (th.chbase.toNat, th.chlimit.toNat, th.choff.toNat) }
  else (s.region (threadModule t) th.region).space

/-- Supervisor mode (R70): only a CCC slot has it. -/
def State.supervisor (s : State) (t : Nat) : Bool := isCcc t && (s.thr t).super

/-- The region a thread acts for: none for a CCC thread, which belongs to no region, but that user code there acts for CCTX.RGN where
CCTX.RGNV is 1 (R14). -/
def State.actsFor (s : State) (t : Nat) : Option Nat :=
  let th := s.thr t
  if isCcc t then
    if !th.super && bit th.cctx.toNat 24 then some (bits th.cctx.toNat 23 16) else none
  else some th.region

/-- Whether region `r` is region `a` or descends from it, walking at most `fuel` parents (R26). -/
def State.descends (s : State) (m : Nat) : Nat → Nat → Nat → Bool
  | 0, r, a => decide (r = a)
  | fuel + 1, r, a =>
    if r = a then true
    else match (s.region m r).parent with
      | some p => s.descends m fuel p a
      | none => false

/-- The region check of R34, R107, R109, R118, R283 for a thread and a target region (R14). -/
def State.mayReach (s : State) (t r : Nat) : Bool :=
  if s.supervisor t then SMap.has (s.module (threadModule t)).regions r
  else match s.actsFor t with
    | some a => s.descends (threadModule t) 256 r a
    | none => false

/-- The region and its ancestors, nearest first. -/
def State.ancestors (s : State) (m : Nat) : Nat → Nat → List Nat
  | 0, r => [r]
  | fuel + 1, r => r :: (match (s.region m r).parent with | some p => s.ancestors m fuel p | none => [])

/-! ### Lines, keys and bytes -/

def lineOf (loc : Nat) : Nat := loc / 128

/-- Whether a location lies in a 64 KiB frame of HBM that another context owns: an access to it waits until the frame is zeroed (R364). -/
def State.foreign (s : State) (ctx loc : Nat) : Bool :=
  inHbm (locPa loc) && decide (loc < 2 ^ 62) && (match SMap.get? s.frameOwner (loc / 65536) with
    | some o => decide (o ≠ ctx)
    | none => false)

/-- The key index that applies to a line: keys act at the memory controllers of HBM (R363). -/
def keyAt (loc key : Nat) : Nat := if inHbm (locPa loc) && decide (loc < 2 ^ 62) then key else 0

/-- The key under which a line is read or written now: 0 for none, else one more than the key that the slot holds (R363). -/
def State.keyNow (s : State) (loc key : Nat) : Nat :=
  let k := keyAt loc key
  if k = 0 then 0 else SMap.getD (s.module (locModule loc)).keys k 0 + 1

/-- The byte at a location as an access under a key sees it (R363). -/
def State.byte (s : State) (key loc : Nat) : Byte :=
  let b := Memory.get s.mem loc
  let now := s.keyNow loc key
  let w := SMap.getD s.lineKey (lineOf loc) 0
  if w = now then b else Config.otherKeyByte loc w now b

/-- The bytes from a location on. -/
def State.bytesAt (s : State) (key loc : Nat) : Nat → List Byte
  | 0 => []
  | n + 1 => s.byte key loc :: s.bytesAt key (loc + 1) n

/-- A little-endian number of n bytes in memory under no key. -/
def State.num (s : State) (loc n : Nat) : Nat := leNat (s.bytesAt 0 loc n)

/-- Every watch armed on the word of a location fires, except those of the writing thread (R155). -/
def Cluster.fire (c : Cluster) (writer : Option Nat) (loc : Nat) : Cluster :=
  { c with watches := c.watches.map fun w => if w.word = loc / 4 ∧ writer ≠ some w.thread then { w with fired := true } else w }

/-- A byte of CSM is written: the watches of its word fire, and its line is dirty (R155, R297). -/
def State.fireWatches (s : State) (writer : Option Nat) (loc : Nat) : State :=
  if inCsm (locPa loc) && decide (loc < 2 ^ 62) then
    let cl := csmCluster (locModule loc) (locPa loc)
    let c := s.cluster cl
    s.setCluster cl (Cluster.fire { c with csmDirty := insertNew c.csmDirty (lineOf loc) } writer loc)
  else s

/-- A CAS that fails covers some bytes: their watches fire, and nothing is written (R149, R155). -/
def State.coverWatches (s : State) (writer : Option Nat) (locs : List Nat) : State :=
  locs.foldl (fun s loc =>
    if inCsm (locPa loc) && decide (loc < 2 ^ 62) then
      let cl := csmCluster (locModule loc) (locPa loc)
      s.setCluster cl ((s.cluster cl).fire writer loc)
    else s) s

/-- The line is stored under the key of a write: where it was under another, its other bytes are those that key shows. -/
def State.rekey (s : State) (key loc : Nat) : State :=
  let now := s.keyNow loc key
  if SMap.getD s.lineKey (lineOf loc) 0 = now then s
  else
    let base := lineOf loc * 128
    let shown := s.bytesAt key base 128
    let s1 := { s with mem := Memory.setAll s.mem (cellsAt base shown) }
    { s1 with lineKey := if now = 0 then SMap.erase s1.lineKey (lineOf loc) else SMap.set s1.lineKey (lineOf loc) now }

/-- Writes one byte of memory: the watches of its word fire, the byte is no longer uncorrectable (R155, R285, R363). -/
def State.setByte (s : State) (writer : Option Nat) (key loc : Nat) (v : Byte) : State :=
  let s := s.rekey key loc
  let s := { s with mem := Memory.set s.mem loc v, badMem := s.badMem.filter (· ≠ loc) }
  s.fireWatches writer loc

/-- Writes cells in order. -/
def State.setBytes (s : State) (writer : Option Nat) (key : Nat) (cells : List (Nat × Byte)) : State :=
  cells.foldl (fun s c => s.setByte writer key c.1 c.2) s

/-- Writes a number of n bytes under no key. -/
def State.setNum (s : State) (loc n v : Nat) : State := s.setBytes none 0 (cellsAt loc (leBytes n v))

/-- First access of a context to a 64 KiB frame of HBM: a frame of another owner is zeroed under the access's key, and the
owner is recorded. A frame without a recorded owner is taken as it stands (DESIGN CHOICE, log 8) (R364). -/
def State.touchFrame (s : State) (key loc ctx : Nat) : State :=
  if inHbm (locPa loc) && decide (loc < 2 ^ 62) then
    let f := loc / 65536
    match SMap.get? s.frameOwner f with
    | none => { s with frameOwner := SMap.set s.frameOwner f ctx }
    | some o =>
      if o = ctx then s
      else
        let now := s.keyNow loc key
        let keep := s.lineKey.filter fun e => e.1 / 512 ≠ f
        { s with
          mem := Memory.zero s.mem (f * 65536) 65536
          badMem := s.badMem.filter (· / 65536 ≠ f)
          lineKey := if now = 0 then keep
            else (List.range 512).foldl (fun m i => SMap.set m (f * 512 + i) now) keep
          frameOwner := SMap.set s.frameOwner f ctx }
  else s

/-! ### Directed copies (R140) -/

/-- Byte i of a line. -/
def lineByte (d : BitVec 1024) (i : Nat) : Byte := BitVec.ofNat 8 (d.toNat / 2 ^ (8 * i))

/-- A line's data from its 128 bytes. -/
def lineOfBytes (bs : List Byte) : BitVec 1024 := BitVec.ofNat 1024 (leNat bs)

/-- The line with byte i replaced. -/
def setLineByte (d : BitVec 1024) (i : Nat) (v : Byte) : BitVec 1024 :=
  (d &&& ~~~(BitVec.ofNat 1024 (255 * 2 ^ (8 * i)))) ||| BitVec.ofNat 1024 (v.toNat * 2 ^ (8 * i))

/-- The die holds the line of a location in directed mode: fetched from memory when it is not present (R140). -/
def State.fetchLine (s : State) (d key loc : Nat) : State :=
  let x := s.die d
  if SMap.has x.directed (lineOf loc) then s
  else
    let l : DLine := { data := lineOfBytes (s.bytesAt key (lineOf loc * 128) 128), key := key }
    s.setDie d { x with directed := SMap.set x.directed (lineOf loc) l }

/-- The byte of a line that the die holds, or memory's byte. -/
def State.directedByte (s : State) (d key loc : Nat) : Byte :=
  match SMap.get? (s.die d).directed (lineOf loc) with
  | some l => lineByte l.data (loc % 128)
  | none => s.byte key loc

/-- Writes a byte into the die's directed copy and marks it dirty (R140). -/
def State.setDirectedByte (s : State) (d key loc : Nat) (v : Byte) : State :=
  let s := s.fetchLine d key loc
  let x := s.die d
  let l := SMap.getD x.directed (lineOf loc) {}
  let l' : DLine := { data := setLineByte l.data (loc % 128) v, dirty := l.dirty ||| BitVec.ofNat 128 (2 ^ (loc % 128)), key := key }
  s.setDie d { x with directed := SMap.set x.directed (lineOf loc) l' }

/-- Whether a die's directed copy of a byte has been written and not yet merged into memory (R140). -/
def State.directedDirty (s : State) (d loc : Nat) : Bool :=
  match SMap.get? (s.die d).directed (lineOf loc) with
  | some l => l.dirty.getLsbD (loc % 128)
  | none => false

/-- Whether a byte is uncorrectable where an access finds it: a byte that the die has written in its directed copy is not (R140, R285). -/
def State.isBad (s : State) (directed : Bool) (d loc : Nat) : Bool :=
  s.badMem.contains loc && !(directed && s.directedDirty d loc)

/-- The dirty bytes of a directed line that lie in `lo .. hi - 1`, as cells (R252). -/
def DLine.dirtyCells (l : DLine) (line lo hi : Nat) : List (Nat × Byte) :=
  (List.range 128).filterMap fun i =>
    let loc := line * 128 + i
    if l.dirty.getLsbD i && decide (lo ≤ loc ∧ loc < hi) then some (loc, lineByte l.data i) else none

/-! ### Layout entries (R122, R123) -/

def layKind (e : Nat) : Nat := bits e 2 0
def laySpace (e : Nat) : Nat := bits e 5 3
def layEsize (e : Nat) : Nat := 2 ^ bits e 7 6
def layAccess (e : Nat) : Nat := bits e 10 8
def layDirected (e : Nat) : Bool := bit e 11
def layPbits (e : Nat) : Nat := bits e 18 16
def layPlow (e : Nat) : Nat := bits e 23 19
def layPad (e : Nat) : Nat := bits e 63 32
def layBase (e : Nat) : Nat := bits e 127 64
def layDim (e i : Nat) : Nat := bits e (159 + 32 * i) (128 + 32 * i)
def layExtent (e : Nat) : Nat := bits e 191 128
def layStride (e i : Nat) : Nat := bits e (255 + 40 * i) (216 + 40 * i)
/-- Tile extent in dimension i. -/
def layTile (e i : Nat) : Nat := bits e (395 + 12 * i) (384 + 12 * i) + 1
def layModule (e : Nat) : Nat := bits e 441 432


/-- Whether an entry is valid (R123). BASE[63:57] and a MODULE above 935 are no reserved fields: an access through them ends in PAGE by
R125 and R134. -/
def layValid (e : Nat) : Bool :=
  decide (1 ≤ layKind e ∧ layKind e ≤ 4 ∧ laySpace e ≤ 4)
  && decide (bits e 511 442 = 0 ∧ bits e 383 376 = 0 ∧ bits e 31 24 = 0 ∧ bits e 15 12 = 0)
  && decide (laySpace e = 3 ∨ layModule e = 0)
  && (!layDirected e || decide (laySpace e = 0 ∨ laySpace e = 2))
  && decide (layPbits e = 0 ∨ (2 ≤ layKind e ∧ 3 ≤ layPlow e ∧ layPlow e ≤ 15
      ∧ layStride e 1 % 2 ^ (layPlow e + layPbits e) = 0))

/-- Permissions of ACCESS: 1 read, 2 write, 4 atomic; all of `need` are granted (R123). -/
def layGrants (e need : Nat) : Bool := decide (layAccess e &&& need = need)

/-- The byte offset of an element (R125). -/
def layOffset (e : Nat) (xs : List Nat) : Nat :=
  if layKind e = 1 then xs.getD 0 0
  else
    let x (i : Nat) : Nat := if i < layKind e then xs.getD i 0 else 0
    let off := x 0 * layEsize e + x 1 * layStride e 1 + x 2 * layStride e 2 + x 3 * layStride e 3
    if layPbits e = 0 then off else off ^^^ ((x 1 % 2 ^ layPbits e) * 2 ^ layPlow e)

/-- Virtual address of an element (R125). -/
def layVa (e : Nat) (xs : List Nat) : Nat := (layBase e + layOffset e xs) % 2 ^ 64

/-- Whether some coordinate reaches its dimension (R125). -/
def layOutside (e : Nat) (xs : List Nat) : Bool :=
  (List.range (layKind e)).any fun i => decide (layDim e i ≤ xs.getD i 0)

/-- The address of an element access of n bytes, with the checks of R125 for layout index `l`; `al` is the multiple that the
access is aligned to, 1 for none. -/
def elementAddress (e l : Nat) (xs : List Nat) (n al : Nat) : Except Trap Nat :=
  let bounds : Trap := (causeLAYOUT, BitVec.ofNat 64 l)
  let va := layVa e xs
  if layKind e ≠ 1 && layOutside e xs then .error bounds
  else if layKind e = 1 && decide (layExtent e < layOffset e xs + n) then .error bounds
  else if layKind e ≠ 1 && decide (layDim e 0 * layEsize e < xs.getD 0 0 * layEsize e + n) then .error bounds
  else if va % al ≠ 0 then .error (causeALIGN, BitVec.ofNat 64 va)
  else if va / 2 ^ 57 ≠ 0 then .error (causePAGE, BitVec.ofNat 64 va)
  else .ok va

/-- The address of byte b of a vector or multi-element access at coordinates xs: each byte is placed at its own element's
offset (R125, R147). -/
def elementByte (e : Nat) (xs : List Nat) (b : Nat) : Nat :=
  if layKind e = 1 then (layBase e + xs.getD 0 0 + b) % 2 ^ 64
  else
    let j := b / layEsize e
    (layBase e + layOffset e ((xs.getD 0 0 + j) :: xs.drop 1) + b % layEsize e) % 2 ^ 64

/-! ### Who makes an access -/

/-- The agent of an access: its thread, the unit that acts (R323 SRCU: 0 core, 1 CCC, 2 AP, 3 copy engine, 4 near-bank
unit), its cluster, context and heap window. -/
structure Agent where
  thread : Nat := 0
  unit : Nat := 0
  cluster : Nat := 0
  ctx : Nat := 0
  heap : Nat × Nat × Nat := (0, 0, 0)
  /-- The access is a side-log entry's at its replay: it is its thread's, and lies outside any run (R138). -/
  replay : Bool := false
  deriving DecidableEq, Repr

def Agent.module (a : Agent) : Nat := clusterModule a.cluster
def Agent.die (a : Agent) : Nat := clusterDie a.cluster
/-- The agent is a thread. -/
def Agent.isThread (a : Agent) : Bool := decide (a.unit ≤ 1)

/-- A thread as an agent. -/
def State.agent (s : State) (t : Nat) : Agent :=
  let sp := s.space t
  { thread := t, unit := if isCcc t then 1 else 0, cluster := threadCluster t, ctx := sp.ctx, heap := sp.heap }

/-! ### Translation (R128 to R134) -/

/-- Permission bits as a leaf holds them. -/
def permR : Nat := 2
def permW : Nat := 4
def permX : Nat := 8
def permA : Nat := 16

/-- Size of the page a leaf at a level maps (R130). -/
def pageSize (level : Nat) : Nat := if level = 2 then 2 ^ 30 else if level = 1 then 2 ^ 21 else 2 ^ 16

/-- Whether a word is a leaf that the level may hold (R130). -/
def leafOk (level leaf : Nat) : Bool :=
  bit leaf 0 && decide (bits leaf 3 1 ≠ 0) && decide (bits leaf 11 10 = 0 ∧ bits leaf 7 7 = 0 ∧ bits leaf 9 8 ≤ 1)
  && decide (bits leaf 63 54 ≤ 935)
  && decide (level ≤ 2 ∧ (bits leaf 53 18 * 65536) % pageSize level = 0)

/-- Index of a virtual address at a level (R130). -/
def levelIndex (level va : Nat) : Nat :=
  if level = 3 then bits va 56 39 else if level = 2 then bits va 38 30 else if level = 1 then bits va 29 21 else bits va 20 16

/-- Alignment of a table by the level it serves (R130). -/
def tableAlign (level : Nat) : Nat := if level = 3 then 2 ^ 21 else if level = 0 then 256 else 4096

/-- One page walk from a table on: the level, the leaf and its address, or none where it ends in PAGE (R130). A table that is not aligned
as its level asks ends it in PAGE too: the list of R130 does not name that case (DESIGN CHOICE, log 69). -/
def State.walk (s : State) (m va : Nat) : Nat → Nat → Option (Nat × Nat × Nat)
  | level, table =>
    let pte := table + 8 * levelIndex level va
    if !inHbm pte || decide (table % tableAlign level ≠ 0) then none
    else
      let w := s.num (locOf m pte) 8
      if !bit w 0 then none
      else if bits w 3 1 ≠ 0 then (if leafOk level w then some (level, w, pte) else none)
      else if bits w 63 52 ≠ 0 ∨ bits w 7 1 ≠ 0 then none
      else match level with
        | 0 => none
        | l + 1 => s.walk m va l (bits w 51 8 * 256)

/-- The physical address of a context's entry in the context table (R128). -/
def State.contextAt (s : State) (m ctx : Nat) : Nat := bits (s.module m).ctxtab.toNat 51 20 * 2 ^ 20 + 16 * ctx

/-- The walk of a virtual address in a context; a context table that leaves the HBM range ends it in PAGE (R128, R130). -/
def State.walkContext (s : State) (m ctx va : Nat) : Option (Nat × Nat × Nat) :=
  let e := s.num (locOf m (s.contextAt m ctx)) 16
  if va / 2 ^ 57 ≠ 0 ∨ !inHbm (s.contextAt m ctx) ∨ !bit e 0 ∨ bits e 127 52 ≠ 0 ∨ bits e 20 1 ≠ 0 then none
  else s.walk m va 3 (bits e 51 21 * 2 ^ 21)

/-- The lines that a walk reads from a table on (R130, R167). -/
def State.walkLines (s : State) (m va : Nat) : Nat → Nat → List Nat
  | level, table =>
    let pte := table + 8 * levelIndex level va
    if !inHbm pte || decide (table % tableAlign level ≠ 0) then []
    else
      let w := s.num (locOf m pte) 8
      lineOf (locOf m pte) ::
        (if !bit w 0 || decide (bits w 3 1 ≠ 0) then []
        else match level with
          | 0 => []
          | l + 1 => s.walkLines m va l (bits w 51 8 * 256))

/-- Physical address that a leaf gives a virtual address. -/
def leafPa (leaf size va : Nat) : Nat := bits leaf 53 18 * 65536 + va % size

/-- Whether a leaf fits a space and an agent: the physical range and HOME of R121 and R134. Supervisor code reaches the
control range through pages of cache mode 1 in the DEVICE space (R359; DEDUCED, log 9). -/
def State.fits (s : State) (a : Agent) (space modField leaf pa : Nat) : Bool :=
  let home := bits leaf 63 54
  match space with
  | 0 => decide (home = a.module) && (inHbm pa || (inCtl pa && bits leaf 9 8 = 1 && a.unit = 1 && s.supervisor a.thread))
  | 1 => decide (home = a.module) && inCsm pa
  | 2 => decide (home = a.module) && inCxl pa
  | 3 => decide (home = modField ∧ home ≠ a.module) && inHbm pa
  | _ => decide (home = a.module) && (inHbm pa || inCsm pa || inCxl pa)

/-- The number that stands for instruction fetch among the spaces. -/
def fetchSpace : Nat := 7

/-- A cached translation of a page (R132): the thread's first-level entries, then the cluster's. -/
def State.tlbLookup (s : State) (a : Agent) (va : Nat) : Option TlbEntry :=
  let hit (e : TlbEntry) : Bool := decide (e.ctx = a.ctx ∧ e.va = va / e.size * e.size)
  let first := if a.isThread then
      (s.core (threadCore a.thread)).tlb.find? fun e => hit e && decide (e.slot = threadSlot a.thread)
    else none
  match first with
  | some e => some e
  | none => (s.cluster a.cluster).tlb.find? hit

/-- Enters a translation in both TLBs, the oldest entries leaving when they are full (R132). -/
def State.tlbFill (s : State) (a : Agent) (e : TlbEntry) : State :=
  let drop (n : Nat) (xs : List TlbEntry) : List TlbEntry :=
    (e :: xs.filter fun x => ¬(x.ctx = e.ctx ∧ x.va = e.va ∧ x.slot = e.slot)).take n
  let c := s.cluster a.cluster
  let s := s.setCluster a.cluster { c with tlb :=
    ({ e with slot := 0 } :: c.tlb.filter fun x => ¬(x.ctx = e.ctx ∧ x.va = e.va)).take 2048 }
  if a.isThread then
    let g := threadCore a.thread
    let k := s.core g
    s.setCore g { k with tlb := drop 64 k.tlb }
  else s

/-- Whether a leaf serves an access to a page of 64 KiB: its permissions and its physical range (R121, R130, R134). -/
def State.leafServes (s : State) (a : Agent) (space modField need page leaf size : Nat) : Bool :=
  decide (leaf &&& need = need) && assigned (leafPa leaf size page) && s.fits a space modField leaf (leafPa leaf size page)

/-- Whether a virtual address lies in the heap window of an access (R129). -/
def Agent.inWindow (a : Agent) (space va : Nat) : Bool := decide (space = 0 ∧ a.heap.1 ≤ va ∧ va < a.heap.2.1)

/-- The bits that a leaf must have for an access: ACC, and D where it writes a byte (R131). -/
def leafFlags (dirty : Bool) : Nat := if dirty then 96 else 32

/-- The cached translation that serves an access without a walk (R131, R132). -/
def State.tlbServes (s : State) (a : Agent) (space modField need : Nat) (dirty : Bool) (va : Nat) : Option TlbEntry :=
  (s.tlbLookup a va).filter fun e => s.leafServes a space modField need (va / 65536 * 65536) e.leaf.toNat e.size
    && decide (e.leaf.toNat &&& leafFlags dirty = leafFlags dirty)

/-- The lines that the walk of a virtual address reads: the context table's and the page tables' (R128, R130). -/
def State.tableLines (s : State) (a : Agent) (va : Nat) : List Nat :=
  let at_ := locOf a.module (s.contextAt a.module a.ctx)
  lineOf at_ :: s.walkLines a.module va 3 (bits (s.num at_ 16) 51 21 * 2 ^ 21)

/-- Whether an access to a page needs no walk (R129, R132). -/
def State.walkless (s : State) (a : Agent) (space modField need : Nat) (dirty : Bool) (page : Nat) : Bool :=
  a.inWindow space (page * 65536) || (s.tlbServes a space modField need dirty (page * 65536)).isSome

/-- The lines in X that the walks of some pages would read: the walks are held until the engine has written them (R167). -/
def State.tableWaits (s : State) (a : Agent) (space modField need : Nat) (dirty : Bool) (pages : List Nat) : List Nat :=
  if s.xlines = [] then []
  else pages.flatMap fun p =>
    if s.walkless a space modField need dirty p then [] else (s.tableLines a (p * 65536)).filter fun l => s.xlines.contains l

/-- The lines of the leaves that the walks of some pages write, to set ACC or D (R131). -/
def State.leafLines (s : State) (a : Agent) (space modField need : Nat) (dirty : Bool) (pages : List Nat) : List Nat :=
  pages.filterMap fun p =>
    if s.walkless a space modField need dirty p then none
    else match s.walkContext a.module a.ctx (p * 65536) with
      | some (level, leaf, pte) =>
        if s.leafServes a space modField need (p * 65536) leaf (pageSize level) && decide (leaf ||| leafFlags dirty ≠ leaf) then
          some (lineOf (locOf a.module pte))
        else none
      | none => none

/-- Translates the page of a virtual address: the heap window for DEVICE, else TLB and walk; sets ACC, and D where the access
writes a byte (R129 to R134). `need` holds leaf permission bits. None is PAGE; it leaves every leaf as it was (R131). The window's
base, limit and offset are multiples of 64 KiB by R28; those of a CCC have no such check, and the 64 KiB piece that holds the address
is then moved as a whole (DESIGN CHOICE, log 70). -/
def State.translate (s : State) (a : Agent) (space modField need : Nat) (dirty : Bool) (va : Nat) : State × Option Xlat :=
  let page := va / 65536 * 65536
  if a.inWindow space va then
    let pa := (page + a.heap.2.2) % 2 ^ 64
    if inHbm pa then (s, some { loc := locOf a.module pa, home := a.module }) else (s, none)
  else
    let done (leaf size : Nat) : Xlat :=
      { loc := locOf (bits leaf 63 54) (leafPa leaf size page), key := bits leaf 17 12,
        uncached := bit leaf 8, home := bits leaf 63 54, size := size }
    let flags := leafFlags dirty
    match s.tlbServes a space modField need dirty va with
    | some e => (s, some (done e.leaf.toNat e.size))
    | none =>
      match s.walkContext a.module a.ctx va with
      | none => (s, none)
      | some (level, leaf, pte) =>
        let size := pageSize level
        if s.leafServes a space modField need page leaf size then
          let leaf' := leaf ||| flags
          let s := if leaf' = leaf then s else s.setNum (locOf a.module pte) 8 leaf'
          let e : TlbEntry := { slot := threadSlot a.thread, ctx := a.ctx, va := va / size * size, size := size,
                                leaf := BitVec.ofNat 64 leaf' }
          (s.tlbFill a e, some (done leaf size))
        else (s, none)

/-- Translates each page of a list; the first that fails is answered by its number. -/
def State.translateAll (s : State) (a : Agent) (space modField need : Nat) (dirty : Bool) :
    List Nat → State × Except Nat (SMap Xlat)
  | [] => (s, .ok [])
  | p :: ps =>
    match s.translate a space modField need dirty (p * 65536) with
    | (s, none) => (s, .error p)
    | (s, some x) =>
      match s.translateAll a space modField need dirty ps with
      | (s, .error q) => (s, .error q)
      | (s, .ok xs) => (s, .ok (SMap.set xs p x))

/-- The 64 KiB pages of a list of addresses, each once, in order. -/
def pagesOf (vas : List Nat) : List Nat :=
  (vas.foldl (fun ps va => if ps.contains (va / 65536) then ps else va / 65536 :: ps) []).reverse

/-- The location of a translated address. -/
def xlatLoc (xs : SMap Xlat) (va : Nat) : Nat := (SMap.getD xs (va / 65536) {}).loc + va % 65536

/-- Whether an address of an access is to a directed copy: the entry is DIRECTED, and the page is in cache mode 0, since cache mode 1
ignores COH (R130, R140). -/
def directedAt (entry : Nat) (xs : SMap Xlat) (va : Nat) : Bool :=
  layDirected entry && (match SMap.get? xs (va / 65536) with
    | some x => !x.uncached
    | none => false)

/-- Whether some page of an access is to directed copies (R130, R140). -/
def isDirected (entry : Nat) (xs : SMap Xlat) : Bool := layDirected entry && xs.any fun e => !e.2.uncached

/-- The key of a translated address. -/
def xlatKey (xs : SMap Xlat) (va : Nat) : Nat := (SMap.getD xs (va / 65536) {}).key

end Sys2Proof.Machine
end

