-- ==== Sys2Proof/Machine/Trace.lean ====
section
/-! DEFINITION. Stops of a core, trace records and synchronisation watchpoints (27_debug R345 to R358). -/

namespace Sys2Proof.Machine

/-- A trace type's number (R355). -/
def traceSTOP : Nat := 1
def traceBREAK : Nat := 2
def traceDWATCH : Nat := 3
def traceSWATCH : Nat := 4
def traceSAMPLE : Nat := 5
def traceTHROTTLE : Nat := 6
def traceTRAP : Nat := 7
def traceLOSS : Nat := 8

/-- A record's 256 bits (R355). -/
def traceRecord (type seq slot vf core time : Nat) (d0 d1 : Nat) : BitVec 256 :=
  BitVec.ofNat 256 (type % 256 + seq % 2 ^ 24 * 2 ^ 8 + slot % 16 * 2 ^ 36 + vf % 16 * 2 ^ 40 + core % 2 ^ 20 * 2 ^ 44
    + time % 2 ^ 64 * 2 ^ 64 + d0 % 2 ^ 64 * 2 ^ 128 + d1 % 2 ^ 64 * 2 ^ 192)

/-- Forms a record on a core's encoder when TON and the type's mask bit are set (R355). -/
def State.formRecord (s : State) (g type slot d0 d1 : Nat) : State :=
  let c := s.core g
  let b := c.dbg
  if bit b.tctl.toNat 0 && bit b.tctl.toNat (32 + type) && decide (g < 2 ^ 20) then
    let r := traceRecord type b.seq slot (s.die (clusterDie (coreCluster g))).vf g s.ticks d0 d1
    s.setCore g { c with dbg := { b with formed := b.formed ++ [r], seq := (b.seq + 1) % 2 ^ 24 } }
  else s

/-- DSTAT as it reads (R346). -/
def Debug.dstat (b : Debug) : Nat :=
  b.cause + b.index * 16 + b.slot * 256 + (if b.err then 2 ^ 62 else 0) + (if b.stopped then 2 ^ 63 else 0)

/-- Stops a core with a cause; a core that is stopped makes no second stop (R347). -/
def State.stopCore (s : State) (g cause slot index : Nat) : State :=
  let c := s.core g
  if c.dbg.stopped then s
  else
    let b := { c.dbg with stopped := true, cause := cause, slot := slot, index := index, step := none, pending := none }
    let s := s.setCore g { c with dbg := b }
    s.formRecord g traceSTOP slot (b.dstat % 4096) (s.thr (slotThread g slot)).shownPc.toNat

/-- The order in which stops of one moment are recorded: breakpoint, EBREAK, directory watch, step, sync watch, HALT (R347). -/
def stopRank (cause : Nat) : Nat := ([3, 2, 4, 6, 5, 1].findIdx? (· = cause)).getD 6

/-- A stop is asked for that takes effect later: HALT and sync watch within 128 ticks, a directory watch once the accessing thread has
woken (R347). -/
def State.requestStop (s : State) (g cause slot index : Nat) : State :=
  let c := s.core g
  let first : Bool := match c.dbg.pending with
    | none => true
    | some p => decide (stopRank cause < stopRank p.1)
  if c.dbg.stopped || !first then s else s.setCore g { c with dbg := { c.dbg with pending := some (cause, slot, index) } }

/-- Whether a thread waits for an access that has been made. -/
def Wait.accessing : Wait → Bool
  | .response _ _ => true
  | .fabric _ _ _ _ _ => true
  | .logged => true
  | _ => false

/-- A stop that was asked for takes effect; none where there is none, or its thread has not woken yet (R347). -/
def State.takeStop (s : State) (g : Nat) : Option State :=
  match (s.core g).dbg.pending with
  | none => none
  | some (cause, slot, index) =>
    if cause = 4 ∧ (s.thr (slotThread g slot)).wait.accessing = true then none else some (s.stopCore g cause slot index)

/-- Size of a core's trace buffer (R354). -/
def Debug.bufSize (b : Debug) : Nat := 4096 * 2 ^ bits b.tctl.toNat 7 4

/-- Whether TBASE names a buffer in HBM aligned to its size (R354). -/
def Debug.bufOk (b : Debug) : Bool :=
  let base := bits b.tbase.toNat 51 12 * 4096
  inHbm (base + b.bufSize - 1) && decide (base % b.bufSize = 0)

/-- Kinds of synchronisation object (R353). -/
def syncBarrier : Nat := 1
def syncCounter : Nat := 2
def syncFabric : Nat := 3

/-- The object number that SWPOn names on a core: a counter as TSIGNAL selects it (R109, R353), as cluster * 4096 + index;
none for another module's. -/
def swpObject (g kind obj : Nat) : Option Nat :=
  if kind = syncCounter then
    let sel := bits obj 28 12
    let cl := if sel = 0x1FFFF then coreCluster g else sel
    if clusterModule cl = clusterModule (coreCluster g) then some (cl * 4096 + bits obj 11 0) else none
  else if kind = syncFabric then some (bits obj 9 0) else some (bits obj 11 0)

/-- One core's synchronisation watchpoint n sees a transition, made by an instruction of a slot, or by none where it is 0 (R346, R353). -/
def State.swatchOne (s : State) (g n kind obj trans d1 slot : Nat) : State :=
  let c := s.core g
  let b := c.dbg
  let o := (SMap.getD b.swpo n 0).toNat
  let w := (SMap.getD b.swpc n 0).toNat
  if b.en && bit w 0 && decide (bits o 31 30 = kind ∧ bits w 4 3 = trans ∧ swpObject g kind o = some obj) then
    let s := s.setCore g { c with dbg := { b with swpc := SMap.set b.swpc n (BitVec.ofNat 64 (w ||| 128)) } }
    if bit w 5 then s.requestStop g 5 slot n
    else s.formRecord g traceSWATCH slot (o + trans * 2 ^ 32) d1
  else s

/-- A transition of a synchronisation object of a module: every core's watchpoints see it (R353). ARRIVE 0, LAST 1, FLIP 2. -/
def State.swatch (s : State) (m kind obj trans d1 slot : Nat) : State :=
  s.cores.foldl (fun s e =>
    if e.1 < 2 ^ 20 ∧ clusterModule (coreCluster e.1) = m ∧ e.2.dbg.en then
      (s.swatchOne e.1 0 kind obj trans d1 slot).swatchOne e.1 1 kind obj trans d1 slot
    else s) s

/-- The bank of a location for the remote-delay accumulators (R358). -/
def bankOf (loc : Nat) : Nat :=
  if 2 ^ 62 ≤ loc then 32 + (loc - 2 ^ 62) / 2 ^ 21 / 49152 % 16
  else if inCsm (locPa loc) then 48 + homeDie (locPa loc)
  else if inCxl (locPa loc) then 56
  else if inHbm (locPa loc) then stackOf (locPa loc) else 63

/-- A response adds its DELAY to its bank on the core of the thread (R358). -/
def State.addDelay (s : State) (t bank : Nat) (delay : BitVec 16) : State :=
  let g := threadCore t
  let c := s.core g
  let b := c.dbg
  s.setCore g { c with dbg := { b with
    dsum := SMap.set b.dsum bank (SMap.getD b.dsum bank 0 + delay.setWidth 64)
    dcnt := SMap.set b.dcnt bank (SMap.getD b.dcnt bank 0 + 1) } }

/-- A response other than that of an access reaches a thread of a compute core, with its delay on the way (R358). -/
def State.respond (s : State) (t bank : Nat) : State :=
  if isCcc t then s else (s.addDelay t bank (Config.linkDelay s.fresh)).tick1

end Sys2Proof.Machine
end

