-- ==== Sys2Proof/Machine/Hts.lean ====
section
/-! DEFINITION. Descriptors, dependence counters, entering, readying, squashing and ending tasks (02_execution_model R31 to R48;
07_scalar_control R105, R109; 23_access_processor R317). -/

namespace Sys2Proof.Machine

/-! ### Descriptors (R31) -/

def dEntry (d : BitVec 512) : Nat := bits d.toNat 63 0
def dTs (d : BitVec 512) : Nat := bits d.toNat 127 64
def dArg (d : BitVec 512) (i : Nat) : Nat := bits d.toNat (127 + 64 * i) (64 + 64 * i)
def dRegion (d : BitVec 512) : Nat := bits d.toNat 391 384
def dOrd (d : BitVec 512) : Bool := bit d.toNat 392
def dFmtv (d : BitVec 512) : Bool := bit d.toNat 393
def dCntv (d : BitVec 512) : Bool := bit d.toNat 394
def dCnt (d : BitVec 512) : Nat := bits d.toNat 406 395
def dWin (d : BitVec 512) : Nat := 64 * (bits d.toNat 410 407 + 1)
def dAccn (d : BitVec 512) : Nat := bits d.toNat 416 411
def dFmt (d : BitVec 512) : Nat := bits d.toNat 431 417
def dAscl (d : BitVec 512) : Nat := bits d.toNat 437 432
def dBscl (d : BitVec 512) : Nat := bits d.toNat 443 438
/-- Input-tile field i, 17 bits (R31). -/
def dTile (d : BitVec 512) (i : Nat) : Nat := bits d.toNat (460 + 17 * i) (444 + 17 * i)

/-- A descriptor's number with bits `hi .. lo` replaced. -/
def putBits (v hi lo x : Nat) : Nat := v - bits v hi lo * 2 ^ lo + x % 2 ^ (hi - lo + 1) * 2 ^ lo

/-! ### Tasks and counters -/

def State.task (s : State) (cl slot : Nat) : Task := SMap.getD (s.cluster cl).tasks slot {}
def State.setTask (s : State) (cl slot : Nat) (x : Task) : State :=
  let c := s.cluster cl
  s.setCluster cl { c with tasks := SMap.set c.tasks slot x }
def State.counter (s : State) (cl c : Nat) : Counter := SMap.getD (s.cluster cl).counters c {}
def State.setCounter (s : State) (cl c : Nat) (x : Counter) : State :=
  let k := s.cluster cl
  s.setCluster cl { k with counters := SMap.set k.counters c x }

/-- The effective priority of a task: max(CEIL, PRIO - k) with k the complete ageing intervals since it became ready (R45). -/
def State.priority (s : State) (m : Nat) (x : Task) : Nat :=
  let r := s.region m (dRegion x.desc)
  max (r.f 69 67) (r.f 66 64 - x.aged)

/-- Dispatch counts of a level return to zero while the slice holds no ready task of that level (R44). -/
def State.resetCounts (s : State) (cl : Nat) : State :=
  let c := s.cluster cl
  let levels := (c.tasks.filter fun e => e.2.state = .ready).map fun e => s.priority (clusterModule cl) e.2
  s.setCluster cl { c with dispatched := c.dispatched.filter fun e => levels.contains (e.1 % 8) }

/-- A task becomes ready: its ageing starts again (R36, R45). -/
def State.readyTask (s : State) (cl slot : Nat) : State :=
  let s := s.resetCounts cl
  let x := s.task cl slot
  (s.setTask cl slot { x with state := .ready, readyTick := s.ticks, readySeq := s.fresh, aged := 0 }).tick1

/-- Writes the first nonzero cause into a counter's STATUS (R35). -/
def State.reportStatus (s : State) (cl c cause : Nat) : State :=
  let k := s.counter cl c
  if k.status = 0 then s.setCounter cl c { k with status := cause } else s

/-- A change of a dependence counter (R35, R109): a positive delta stops at 2^24 - 1, a negative one at zero with UNDER; a
bound counter that the change brings to zero readies its task and unbinds. `by_` is the slot of the thread whose instruction makes it, 0 for
another agent (R346). -/
def State.changeCounter (s : State) (cl c : Nat) (delta : Int) (by_ : Nat) : State :=
  let k := s.counter cl c
  let v := if 0 ≤ delta then min (k.value + delta.toNat) 16777215 else k.value - (-delta).toNat
  let under := k.under || decide (delta < 0 ∧ k.value < (-delta).toNat)
  let zero := decide (k.value ≠ 0 ∧ v = 0)
  let obj := cl * 4096 + c
  let m := clusterModule cl
  let s := s.swatch m syncCounter obj 0 v by_
  let s := if zero then s.swatch m syncCounter obj 1 v by_ else s
  match k.bound with
  | some slot =>
    if zero then
      let s := s.setCounter cl c { k with value := v, under := under, bound := none }
      (s.readyTask cl slot).swatch m syncCounter obj 2 v by_
    else s.setCounter cl c { k with value := v, under := under }
  | none => s.setCounter cl c { k with value := v, under := under }

/-- An engine completion: the cause goes into STATUS and the counter is decremented (R35, R243, R317). -/
def State.completeCounter (s : State) (cl c cause : Nat) : State :=
  (s.reportStatus cl c cause).changeCounter cl c (-1) 0

/-- What entering a descriptor answers (R108). -/
inductive Entered where
  /-- Entered: cluster and slot. -/
  | at (cl slot : Nat)
  /-- Refused under R34. -/
  | refused
  /-- No free slot. -/
  | full
  deriving DecidableEq, Repr

/-- The checks of R34 of a descriptor at a slice; `mayReach` answers the region check. -/
def State.descriptorOk (s : State) (cl : Nat) (d : BitVec 512) (mayReach : Nat → Bool) : Bool :=
  let r := s.region (clusterModule cl) (dRegion d)
  decide (dEntry d / 2 ^ 57 = 0) && mayReach (dRegion d) && decide (dAccn d ≤ 32)
  && decide (dWin d * 32 ≤ r.f 177 160 ∧ dAccn d ≤ r.f 159 154)
  && !(dCntv d && (s.counter cl (dCnt d)).bound.isSome)

/-- The lowest free descriptor slot of a slice (R13). -/
def State.freeSlot (s : State) (cl : Nat) : Option Nat := SMap.free (s.cluster cl).tasks 1024 0

/-- The first cluster of a list that has a free slot. -/
def State.firstFree (s : State) : List Nat → Option (Nat × Nat)
  | [] => none
  | cl :: cls => match s.freeSlot cl with
    | some n => some (cl, n)
    | none => s.firstFree cls

/-- Enters a descriptor that passed its checks into a slot (R35, R44, R47). A task that is bound to a counter at VALUE 0 becomes ready at
once, which is the counter's FLIP (R35, R353). -/
def State.enterAt (s : State) (cl slot : Nat) (d : BitVec 512) (parent : Option (Nat × Nat)) (by_ : Nat) : State :=
  let c := s.cluster cl
  let tie := if dOrd d then c.orderedCount % 2 ^ 25 * 128 + cl / 16 % 8 * 16 + cl % 16 else 0
  let c := { c with
    orderedCount := if dOrd d then c.orderedCount + 1 else c.orderedCount
    turn := if SMap.has c.turn (dRegion d) then c.turn else SMap.set c.turn (dRegion d) true
    tasks := SMap.set c.tasks slot { desc := d, state := .waiting, tie := tie, home := cl, parent := parent, serial := s.fresh } }
  let n := s.fresh
  let s := (s.setCluster cl c).tick1
  let s := match parent with
    | some (pc, ps) =>
      let x := s.task pc ps
      let t := x.thread
      if dOrd d && decide (x.state = TaskState.dispatched) then
        s.setThr t { s.thr t with run := { (s.thr t).run with children := (cl, slot, n) :: (s.thr t).run.children } }
      else s
    | none => s
  if dCntv d then
    let k := s.counter cl (dCnt d)
    if k.value = 0 then (s.readyTask cl slot).swatch (clusterModule cl) syncCounter (cl * 4096 + dCnt d) 2 0 by_
    else s.setCounter cl (dCnt d) { k with bound := some slot }
  else s.readyTask cl slot

/-- The clusters of a die from one on, wrapping (R108). -/
def dieClusters (cl : Nat) : List Nat := (List.range 16).map fun i => cl / 16 * 16 + (cl % 16 + i) % 16

/-- The clusters of a module from one on, wrapping (R28). -/
def moduleClusters (cl : Nat) : List Nat := (List.range 128).map fun i => cl / 128 * 128 + (cl % 128 + i) % 128

/-- A slice is asked to enter a descriptor; with CNTV = 0 a full slice passes it on along `cls` (R34, R108). -/
def State.enterDescriptor (s : State) (cl : Nat) (cls : List Nat) (d : BitVec 512) (mayReach : Nat → Bool)
    (parent : Option (Nat × Nat)) (by_ : Nat) : State × Entered :=
  if !s.descriptorOk cl d mayReach then (s, .refused)
  else
    match s.firstFree (if dCntv d then [cl] else cls) with
    | none => (s, .full)
    | some (c, n) => (s.enterAt c n d parent by_, .at c n)

/-! ### Ending tasks -/

/-- Units of 128 bytes that a queue passes (R301). -/
def ApQueue.allUnits (q : ApQueue) : Nat := (q.total + 127) / 128

/-- Whether a stream that has not ended still holds a deferred failure, or units not yet popped or pushed (R317). -/
def Cluster.streamPending (c : Cluster) (x : Stream) : Bool :=
  match x.queue with
  | none => false
  | some q => match SMap.get? c.queues q with
    | none => false
    | some k => x.kind = .gather || decide (k.units < k.allUnits)

/-- Whom a stream that a thread starts belongs to: its task, by serial number, or the CCC thread (R317). -/
def State.streamOwner (s : State) (t : Nat) : Nat × Nat :=
  if isCcc t then (1, t) else (0, (s.task (s.thr t).slice (s.thr t).dslot).serial)

/-- The streams of a task that ends: one that has ended frees its slot, one that holds data that has not passed is cancelled, and
the others go on (R317). A queue of the task is emptied and released, but one whose data is all pushed and still being written. -/
def Cluster.orphanStreams (c : Cluster) (w : Nat × Nat) : Cluster :=
  let mine (x : Stream) : Bool := decide (x.owner = w) && !x.orphan
  let keep (q : Nat × ApQueue) : Bool :=
    decide (q.2.owner ≠ w) || (q.2.inbound && q.2.attached && decide (q.2.units = q.2.allUnits))
  { c with
    starts := c.starts.map fun x => if mine x.stream then { x with wake := false, stream := { x.stream with orphan := true } } else x
    queues := c.queues.filter keep
    streams := (c.streams.filter fun e => !(mine e.2 && e.2.ended)).map fun e =>
      if mine e.2 then (e.1, { e.2 with orphan := true, cancel := e.2.cancel || c.streamPending e.2 }) else e }

/-- The task of a thread ends: its streams lose it, wherever they are (R317). -/
def State.orphanAll (s : State) (w : Nat × Nat) : State :=
  { s with clusters := s.clusters.map fun (e : Nat × Cluster) => (e.1, e.2.orphanStreams w) }

/-- A thread leaves its slot: its window, tiles and slot are free, its first-level TLB entries are dropped, its watches are
disarmed, its token is released, and the residency ends with the core's last thread (R37, R105, R132, R156, R264). -/
def State.leaveSlot (s : State) (t : Nat) : State :=
  let g := threadCore t
  let th := s.thr t
  let orphaned (p : Packet) : Packet := if p.thread = t ∧ p.srcu ≤ 1 then { p with held := true } else p
  let s := { s with threads := SMap.erase s.threads t, net := s.net.map orphaned, egress := s.egress.map orphaned }
  let c := s.core g
  let others := s.threads.any fun e => e.2.live && decide (threadCore e.1 = g)
  let s := s.setCore g { c with
    tlb := c.tlb.filter fun e => e.slot ≠ threadSlot t
    locks := c.locks.filter fun k => !th.tiles.contains k
    arrayQueue := c.arrayQueue.filter (· ≠ t)
    resident := if others then c.resident else none
    image := if others then c.image else none }
  let s := { s with clusters := s.clusters.map fun (e : Nat × Cluster) =>
    (e.1, { e.2 with watches := e.2.watches.filter fun w => w.thread ≠ t }) }
  let d := s.die (threadDie t)
  s.setDie (threadDie t) { d with
    token := if d.token = some t then none else d.token
    tokenQueue := d.tokenQueue.filter (· ≠ t) }

/-- A task's descriptor slot is freed; the counts of a level that then has no ready task return to zero (R36, R44). -/
def State.freeTask (s : State) (cl slot : Nat) : State :=
  let c := s.cluster cl
  let c := { c with
    tasks := SMap.erase c.tasks slot
    held := if c.held = some slot then none else c.held
    reserved := if c.held = some slot then none else c.reserved
    counters := c.counters.map fun e => (e.1, if e.2.bound = some slot then { e.2 with bound := none } else e.2) }
  (s.setCluster cl c).resetCounts cl

/-- The records that name a thread or a descriptor slot are gone. -/
def State.dropRecords (s : State) (p : Record → Bool) : State := { s with records := s.records.filter fun r => !p r }

/-- Whether a record is the kind-1 record of a thread (R279). -/
def Record.ofThread (r : Record) (t : Nat) : Bool :=
  decide (bits r.handle.toNat 63 60 = 1 ∧ bits r.handle.toNat 59 40 = threadId t
    ∧ bits r.handle.toNat 39 36 = threadSlot t ∧ (bits r.handle.toNat 25 24 = 1 ↔ isCcc t = true))

/-- Whether a record is the kind-3 or kind-4 record of a descriptor slot (R279). -/
def Record.ofSlot (r : Record) (cl slot : Nat) : Bool :=
  decide ((bits r.handle.toNat 63 60 = 3 ∨ bits r.handle.toNat 63 60 = 4)
    ∧ bits r.handle.toNat 59 40 = cl * 8 ∧ bits r.handle.toNat 35 26 = slot)

/-- A task becomes aborted: its thread leaves and its slot is freed (R36, R283). -/
def State.abortTask (s : State) (cl slot : Nat) : State :=
  let x := s.task cl slot
  let s := s.orphanAll (0, x.serial)
  let s := if x.state = .dispatched then (s.dropRecords (·.ofThread x.thread)).leaveSlot x.thread else s
  (s.dropRecords (·.ofSlot cl slot)).freeTask cl slot

/-- The ordered children of a task's run, wherever the run stands: cluster, slot and serial number (R48). -/
def State.childrenOf (s : State) (cl slot : Nat) : List (Nat × Nat × Nat) :=
  let x := s.task cl slot
  if x.state = .dispatched then (s.thr x.thread).run.children else x.run.children

/-- A thread that is parked on an MMA: what would end its run waits for the cycle in which the MMA writes its tile (R228). -/
def Wait.inArray : Wait → Bool
  | .mma _ _ _ _ _ _ _ _ => true
  | _ => false

/-- An abort or a squash waits for a thread's MMA (R228). The first abort that reaches the thread stands; a squash takes its place. -/
def State.doom (s : State) (t : Nat) (d : Doom) : State :=
  let th := s.thr t
  s.setThr t { th with doomed := if d = .squash ∨ th.doomed = none then some d else th.doomed }

/-- A task is squashed: it becomes aborted, once its thread's MMA has written its tile where it is parked on one (R36, R48, R228). -/
def State.squashTask (s : State) (cl slot : Nat) : State :=
  let x := s.task cl slot
  if decide (x.state = .dispatched) && (s.thr x.thread).wait.inArray then s.doom x.thread .squash else s.abortTask cl slot

/-- Squashes the tasks of a list, and their own children, to any depth. A slot that another task has taken since is passed over
(R48). -/
def State.squash : Nat → List (Nat × Nat × Nat) → State → State
  | 0, _, s => s
  | _, [], s => s
  | fuel + 1, (cl, slot, n) :: rest, s =>
    if SMap.has (s.cluster cl).tasks slot && decide ((s.task cl slot).serial = n) then
      State.squash fuel (s.childrenOf cl slot ++ rest) (s.squashTask cl slot)
    else State.squash fuel rest s

/-- Steps that a squash may take: more than the tasks of a fabric and their lists of children. -/
def squashFuel : Nat := 2 ^ 32

end Sys2Proof.Machine
end

