-- ==== Sys2Proof/Machine/Runs.lean ====
section
/-! DEFINITION. Runs: ages, holders, conflicts, limits and aborts (19_transactions R255 to R264, R273). -/

namespace Sys2Proof.Machine

/-- An age: ordered runs (0) before explicit transactions (1), then the parts of R258. -/
abbrev Age := Nat × Nat × Nat × Nat

/-- Whether an age is older (R258). -/
def Age.older (a b : Age) : Bool :=
  decide (a.1 < b.1) || (decide (a.1 = b.1) && (decide (a.2.1 < b.2.1) || (decide (a.2.1 = b.2.1)
    && (decide (a.2.2.1 < b.2.2.1) || (decide (a.2.2.1 = b.2.2.1) && decide (a.2.2.2 < b.2.2.2))))))

/-- The age of a thread's run (R258). -/
def Thread.runAge (th : Thread) (t : Nat) : Age :=
  if th.run.ordered then (0, th.ts, th.tie, th.region) else (1, th.age, t / 16, t % 16)

/-- The age of an ordered task (R258). -/
def Task.age (x : Task) : Age := (0, dTs x.desc, x.tie, dRegion x.desc)

/-- A run: of a thread, or a finished-speculative task's. -/
inductive Holder where
  | thread (t : Nat)
  | task (cl slot : Nat)
  deriving DecidableEq, Repr

/-- The open runs of a module with their ages, threads first (R255, R272). -/
def State.holders (s : State) (m : Nat) : List (Holder × Age × Run) :=
  (s.threads.filterMap fun e =>
    if e.2.live && e.2.run.active && decide (threadModule e.1 = m) then
      some (Holder.thread e.1, e.2.runAge e.1, e.2.run) else none)
  ++ (s.clusters.filter fun e => decide (clusterModule e.1 = m)).flatMap fun e =>
    e.2.tasks.filterMap fun x =>
      if x.2.state = .finishedSpeculative then some (Holder.task e.1 x.1, x.2.age, x.2.run) else none

/-- The number that a byte's conflict tile is taken from: its location, or the copy of a die for a DIRECTED line (R255, R257). -/
def runKey (directed : Bool) (die loc : Nat) : Nat := if directed then (die + 1) * 2 ^ 64 + loc else loc

/-- The conflict tile of a byte (R255). -/
def tileOf (key : Nat) : Nat := key / 512

/-- Kinds of request (R260). -/
def reqRead : Nat := 0
def reqWrite : Nat := 1
def reqComm : Nat := 2

/-- Whether a request on a tile conflicts with a run (R260). -/
def Run.conflicts (r : Run) (kind tile : Nat) : Bool :=
  if kind = reqRead then r.writes.contains tile || r.comms.contains tile
  else if kind = reqWrite then r.reads.contains tile || r.writes.contains tile || r.comms.contains tile
  else r.reads.contains tile || r.writes.contains tile

/-- Whether an age is protected: at or older than OLDEST (R259). -/
def State.protectedAge (s : State) (m : Nat) (a : Age) : Bool :=
  match (s.module m).oldest with
  | none => false
  | some o => !Age.older o a

/-- Whether a holder holds its die's token (R264). -/
def State.irrevocable (s : State) : Holder → Bool
  | .thread t => (s.thr t).irrev
  | .task _ _ => false

/-- The requests of a run or of an agent outside any run: its age, if it is in a run. -/
def State.requesterAge (s : State) (a : Agent) : Option Age :=
  let th := s.thr a.thread
  if a.isThread && !a.replay && th.run.active then some (th.runAge a.thread) else none

/-- Whether the abort of a holder waits for its thread's MMA (R228). -/
def State.abortPending (s : State) : Holder → Bool
  | .thread t => (s.thr t).doomed.isSome
  | .task _ _ => false

/-- Whether a holder makes a request wait: a request goes on only once the abort of a holder has restored the tile (R261). -/
def State.mustWait (s : State) (m : Nat) (req : Option Age) (h : Holder × Age × Run) : Bool :=
  s.abortPending h.1 || match req with
  | some a => !Age.older a h.2.1
  | none => s.protectedAge m h.2.1 || s.irrevocable h.1

/-- The holders that a request on a tile conflicts with; a thread never conflicts with itself (R260). -/
def State.conflicting (s : State) (a : Agent) (kind tile : Nat) : List (Holder × Age × Run) :=
  (s.holders (locModule (tile * 512 % 2 ^ 64))).filter fun h =>
    h.2.2.conflicts kind tile && !(a.isThread && decide (h.1 = Holder.thread a.thread))

/-- Whether a request in the directories' queue still waits: its thread is parked for the tile, or the engine's operation or the packet
that it belongs to is not over. -/
def State.stillQueued (s : State) (q : Nat × Nat × Nat × Nat) : Bool :=
  let t := q.2.1
  let c := s.cluster q.2.2.2
  (match (s.thr t).wait with
    | .retry (.conflict tile _ _) => decide (tile = q.1)
    | .retry (.fetch _ _ (some (tile, _))) => decide (tile = q.1)
    | _ => false)
  || (s.net.any fun p => decide (p.thread = t ∧ p.srcu = q.2.2.1))
  || (match q.2.2.1 with
    | 2 => (c.streams.any fun e => decide (e.2.thread = t)) || (c.starts.any fun e => decide (e.thread = t))
    | 3 => (c.copies.any fun o => decide (o.thread = t)) || (s.thr t).staging
    | 4 => c.nears.any fun o => decide (o.thread = t)
    | 6 => !(s.module (clusterModule q.2.2.2)).tripped
    | 8 => (match s.agenda with
      | .hostAccess _ _ _ _ :: _ => true
      | _ => false)
    | 9 => (match s.agenda with
      | .eviction _ _ :: _ => true
      | _ => false)
    | _ => (s.core (threadCore t)).sideLog.any fun e => decide (e.thread = t))

/-- Whether an agent's request waits for a tile behind one that reached the directory before it (R261). -/
def State.queuedBehind (s : State) (a : Agent) (tile : Nat) : Bool :=
  let key := (tile, a.thread, a.unit, a.cluster)
  let q := s.dirQueue.filter fun e => decide (e.1 = tile)
  q.contains key && (q.takeWhile fun e => decide (e ≠ key)).any fun e => s.stillQueued e

/-- A request waits for a tile, behind those that wait there (R261). -/
def State.enqueue (s : State) (a : Agent) (tile : Nat) : State :=
  let key := (tile, a.thread, a.unit, a.cluster)
  if s.dirQueue.contains key then s else { s with dirQueue := s.dirQueue ++ [key] }

/-- An agent's request no longer waits for a tile. -/
def State.dequeue (s : State) (a : Agent) (tile : Nat) : State :=
  if s.dirQueue = [] then s else { s with dirQueue := s.dirQueue.filter fun e => decide (e ≠ (tile, a.thread, a.unit, a.cluster)) }

/-- An agent's requests no longer wait for any tile. -/
def State.dequeueAll (s : State) (a : Agent) : State :=
  if s.dirQueue = [] then s else { s with dirQueue := s.dirQueue.filter fun e => decide (e.2 ≠ (a.thread, a.unit, a.cluster)) }

/-- Whether a request on a tile must wait (R261). -/
def State.blocked (s : State) (a : Agent) (kind tile : Nat) : Bool :=
  ((s.conflicting a kind tile).any fun h => s.mustWait (locModule (tile * 512 % 2 ^ 64)) (s.requesterAge a) h)
  || s.queuedBehind a tile

/-! ### Aborts (R262, R263, R273) -/

def abortCONFLICT : Nat := 1
def abortCAPACITY : Nat := 2
def abortFAULT : Nat := 3
def abortREMOTE : Nat := 4
def abortEXPLICIT : Nat := 5
def abortPREEMPT : Nat := 6

/-- Each register and tile that the run wrote has its old value again (R262). -/
def State.undo (s : State) (t : Nat) : State :=
  let g := threadCore t
  let r := (s.thr t).run
  let c := s.core g
  s.setCore g { c with
    store := r.undoRegs.foldl (fun m e => SMap.set m e.1 e.2) c.store
    accs := r.undoTiles.foldl (fun m e => SMap.set m e.1 e.2) c.accs }

/-- Adds what an MMA counts in a cycle: TERMS, ZSKIP, TCYC, GSTALL, MMAN and the counter of its B format (R236). -/
def Core.count (c : Core) (now : Nat) (counts : List Nat) : Core :=
  let add (m : SMap Word) (k n : Nat) : SMap Word := SMap.set m k (SMap.getD m k 0 + BitVec.ofNat 64 n)
  let m := add (add (add (add c.terms 0 (counts.getD 0 0)) 1 (counts.getD 1 0)) 2 (counts.getD 2 0)) 3 (counts.getD 3 0)
  { c with terms := add (add m 4 1) (5 + counts.getD 4 0) 1, counted := some (now, counts) }

/-- What an MMA that wrote its tile in this very cycle added to term counter k: TERMRD does not see it yet, and TERMCLR leaves it
(R237). -/
def Core.termsNow (c : Core) (now k : Nat) : Word :=
  match c.counted with
  | some (cyc, counts) =>
    if cyc ≠ now then 0
    else if k < 4 then BitVec.ofNat 64 (counts.getD k 0)
    else if k = 4 ∨ k = 5 + counts.getD 4 0 then 1 else 0
  | none => 0

/-- A tile's lock clears in this cycle (R42, R224). -/
def State.unlock (s : State) (g tile : Nat) : State :=
  let c := s.core g
  s.setCore g { c with
    locks := c.locks.filter (· ≠ tile), unlocked := SMap.set c.unlocked tile (s.dieCycle (clusterDie (coreCluster g))) }

/-- What a thread waits for is cancelled: a stream start that is not accepted stays, and writes no result (R320), a request no longer waits
at a directory, and an assist that is open in the run ends, with its record and its lock (R224, R261; DESIGN CHOICE, log 41). -/
def State.cancelWait (s : State) (t : Nat) : State :=
  let k := s.cluster (threadCluster t)
  let s := s.setCluster (threadCluster t) { k with starts := k.starts.map fun x => if x.thread = t then { x with wake := false } else x }
  let s := s.dequeueAll (s.agent t)
  if (s.thr t).wait = .trapped then
    (s.thr t).tiles.foldl (fun s k => if (s.core (threadCore t)).locks.contains k then s.unlock (threadCore t) k else s)
      (s.dropRecords (·.ofThread t))
  else s

/-- The die's token is free again where a thread held or asked for it (R264). -/
def State.dropToken (s : State) (t : Nat) : State :=
  let d := s.die (threadDie t)
  s.setDie (threadDie t) { d with
    token := if d.token = some t then none else d.token, tokenQueue := d.tokenQueue.filter (· ≠ t) }

/-- Whether an explicit transaction of a thread is open: from its SOPEN to its abort, or to step 7 of its commit (R255, R265). -/
def Thread.explicitOpen (th : Thread) : Bool := (th.run.active && !th.run.ordered) || decide (th.wait = .commit)

/-- Step 7 of R265: the sets, CAUSE, CODE and CONFL are clear, DEPTH and IRREV are 0, and the die's token is free (R264, R269). -/
def State.closeRun (s : State) (t : Nat) : State :=
  let s := s.dropToken t
  s.setThr t { s.thr t with run := {}, depth := 0, cause := 0, code := 0, confl := 0, irrev := false }

/-- Abort of an explicit transaction at once: registers restored from the checkpoint and the undo copies, speculative bytes, log and
held requests discarded, the status word written, the thread at the fallback target (R262, R268). -/
def State.abortExplicitNow (s : State) (t cause code : Nat) : State :=
  let s := ((s.undo t).cancelWait t).dropToken t
  let th := s.thr t
  let k := th.run.ckpt
  s.setThr t { th with
    sreg := k.sreg, preg := k.preg, fmt := k.fmt, fflags := k.fflags, xclip := k.xclip, gens := k.gens
    pc := th.fallback, wait := .ready, run := {}, depth := 0, irrev := false, cause := cause, code := code, doomed := none, nextPc := none
    confl := if cause = abortCONFLICT then min (th.confl + 1) 15 else 0 }

/-- Abort of an explicit transaction; while its thread is parked on an MMA it waits for the tile (R228, R262). -/
def State.abortExplicit (s : State) (t cause code : Nat) : State :=
  if (s.thr t).wait.inArray then s.doom t (.abort cause code) else s.abortExplicitNow t cause code

/-- Abort of an ordered run at once, whatever state its task is in: its work is discarded, its children are squashed, and the task
returns to ready; a FAULT abort holds it back until its record is resolved (R273). -/
def State.abortOrderedNow (s : State) (cl slot cause : Nat) : State :=
  let x := s.task cl slot
  let s := State.squash squashFuel (s.childrenOf cl slot) s
  let s := if x.state = .dispatched then ((s.undo x.thread).cancelWait x.thread).leaveSlot x.thread else s
  let s := s.readyTask cl slot
  let x := s.task cl slot
  s.setTask cl slot { x with
    run := {}, thread := 0, staged := 4, stagingFault := false, captured := none, heldBack := decide (cause = abortFAULT) }

/-- Abort of an ordered run; while its thread is parked on an MMA it waits for the tile (R228, R273). -/
def State.abortOrdered (s : State) (cl slot cause : Nat) : State :=
  let x := s.task cl slot
  if decide (x.state = .dispatched) && (s.thr x.thread).wait.inArray then s.doom x.thread (.abort cause 0)
  else s.abortOrderedNow cl slot cause

/-- What waited for a thread's MMA happens: its run aborts, or its task is squashed (R48, R228). -/
def State.meetDoom (s : State) (t : Nat) : State :=
  let th := s.thr t
  match th.doomed with
  | some (.abort cause code) =>
    if th.run.ordered then s.abortOrderedNow th.slice th.dslot cause else s.abortExplicitNow t cause code
  | some .squash => s.abortTask th.slice th.dslot
  | none => s

/-- Aborts a run with a cause and a code (R262, R273). -/
def State.abortHolder (s : State) (h : Holder) (cause code : Nat) : State :=
  match h with
  | .thread t =>
    let th := s.thr t
    if th.run.ordered then s.abortOrdered th.slice th.dslot cause
    else if th.run.active then s.abortExplicit t cause code else s
  | .task cl slot => s.abortOrdered cl slot cause

/-- Whether a holder that was found still holds its run: an abort of another may have squashed its task (R48, R261). -/
def State.stillHolds (s : State) (h : Holder × Age × Run) : Bool :=
  match h.1 with
  | .thread t => let th := s.thr t; th.live && th.run.active && decide (th.runAge t = h.2.1)
  | .task cl slot => let x := s.task cl slot; decide (x.state = .finishedSpeculative ∧ x.age = h.2.1)

/-- The holders that must give way to a request on a tile abort with CONFLICT (R261). -/
def State.wound (s : State) (a : Agent) (kind tile : Nat) : State :=
  let m := locModule (tile * 512 % 2 ^ 64)
  let req := s.requesterAge a
  (s.conflicting a kind tile).foldl (fun s h =>
    if !s.stillHolds h || s.mustWait m req h then s else s.abortHolder h.1 abortCONFLICT 0) s

/-- Resolves a request on each tile of a list, each holder separately (R261): holders that must give way abort with CONFLICT; a tile on
which the request must wait, because a conflicting holder remains or another request waited there first, is answered. -/
def State.resolveConflicts (s : State) (a : Agent) (kind : Nat) : List Nat → State × Option Nat
  | [] => (s, none)
  | tile :: rest =>
    let s' := s.wound a kind tile
    if s'.conflicting a kind tile ≠ [] ∨ s'.queuedBehind a tile = true then (s'.enqueue a tile, some tile)
    else (s'.dequeue a tile).resolveConflicts a kind rest

/-- Resolves groups of requests of an agent in order, each of a kind on some tiles: the first group that must wait, by its kind, its tiles
and the tile that it waits for (R261). -/
def State.resolveAll (s : State) (a : Agent) : List (Nat × List Nat) → State × Option (Nat × List Nat × Nat)
  | [] => (s, none)
  | (kind, tiles) :: rest =>
    match s.resolveConflicts a kind tiles with
    | (s, some tile) => (s, some (kind, tiles, tile))
    | (s, none) => s.resolveAll a rest

/-- The tiles of some lines, each once (R255). -/
def tilesOfLines (ls : List Nat) : List Nat := (ls.map fun l => tileOf (l * 128)).foldl insertNew []

/-- The requests of the walks of some pages: the tables are read, and a leaf whose bits change is written (R131, R170, R260). -/
def State.walkRequests (s : State) (a : Agent) (space modField need : Nat) (dirty : Bool) (pages : List Nat) : List (Nat × List Nat) :=
  let walked := pages.filter fun p => !s.walkless a space modField need dirty p
  [(reqRead, tilesOfLines (walked.flatMap fun p => s.tableLines a (p * 65536))),
   (reqWrite, tilesOfLines (s.leafLines a space modField need dirty pages))]

/-- The frames of other contexts that an access to some locations takes: it waits until each is zeroed by coherent writes (R364). -/
def State.takenFrames (s : State) (ctx : Nat) (locs : List Nat) : List Nat :=
  ((locs.filter fun l => s.foreign ctx l).map (· / 65536)).foldl insertNew []

/-- The lines in X of the frames that an access takes: their zeroing waits for them (R167, R364). -/
def State.frameLines (s : State) (ctx : Nat) (locs : List Nat) : List Nat :=
  let fs := s.takenFrames ctx locs
  if fs = [] then [] else s.xlines.filter fun l => fs.contains (l / 512)

/-- The request that zeroes the frames that an access takes: a coherent write of every tile that an open run holds there (R260, R364). -/
def State.frameRequests (s : State) (ctx : Nat) (locs : List Nat) : List (Nat × List Nat) :=
  let fs := s.takenFrames ctx locs
  if fs = [] then []
  else [(reqWrite, ((s.holders (locModule (locs.headD 0))).flatMap fun h =>
    (h.2.2.reads ++ h.2.2.writes ++ h.2.2.comms).filter fun t => fs.contains (t / 128)).foldl insertNew [])]

/-- The agent of a module's hub, which writes the fields that the HTS keeps in memory (R24). -/
def hubAgent (m : Nat) : Agent := { unit := 6, cluster := m * 128 }

/-! ### Limits (R256) -/

/-- Entries of a shared resource that a run holds, by the resource's CODE. -/
def Run.usage (r : Run) (code : Nat) : Nat :=
  match code with
  | 3 => r.log.length
  | 4 => r.held.length
  | 6 => r.undoRegs.length + 8 * r.undoTiles.length
  | _ => 0

/-- The die whose versioned slice serves a line of a run: the line's home, or the die that caches a DIRECTED line (R257). -/
def lineDie (l : Nat) : Nat :=
  if 2 ^ 64 ≤ l * 128 then l * 128 / 2 ^ 64 - 1 else locModule (l * 128) * 8 + homeDie (locPa (l * 128))

/-- Versioned-slice entries that a run holds on a die: its W lines homed there, and its record on the task's die (R257, R272). -/
def Run.sliceUse (r : Run) (die own : Nat) : Nat :=
  (r.wlines.filter fun l => decide (lineDie l = die)).length
  + (if own = die then r.record else 0)

/-- The youngest of some runs (R258). -/
def youngest : List (Holder × Age × Run) → Option Holder
  | [] => none
  | h :: hs => some (hs.foldl (fun y x => if Age.older y.2.1 x.2.1 then x else y) h).1

/-- The runs of a core's threads. -/
def State.coreRuns (s : State) (g : Nat) : List (Holder × Age × Run) :=
  (s.holders (clusterModule (coreCluster g))).filter fun h =>
    match h.1 with
    | .thread t => decide (threadCore t = g)
    | .task _ _ => false

/-- The distinct tiles in the read sets of a core's runs. -/
def readTiles (hs : List (Holder × Age × Run)) : List Nat :=
  hs.foldl (fun ts h => h.2.2.reads.foldl insertNew ts) []

/-- A run to abort for a limit that a core's runs share, with the CODE; none while the abort of the youngest waits for its MMA (R228,
R256). -/
def State.coreOver (s : State) (g : Nat) : Option (Holder × Nat) :=
  let hs := s.coreRuns g
  let pick (code : Nat) (use : Run → Nat) : Option (Holder × Nat) :=
    ((youngest (hs.filter fun h => decide (0 < use h.2.2))).filter fun h => !s.abortPending h).map fun h => (h, code)
  let sum (code : Nat) : Nat := hs.foldl (fun n h => n + h.2.2.usage code) 0
  if 512 < (readTiles hs).length then pick 1 fun r => r.reads.length
  else if 256 < sum 3 then pick 3 fun r => r.usage 3
  else if 16 < sum 4 then pick 4 fun r => r.usage 4
  else if 512 < sum 6 then pick 6 fun r => r.usage 6
  else none

/-- The die of a holder's own records. -/
def Holder.die : Holder → Nat
  | .thread t => threadDie t
  | .task cl _ => clusterDie cl

/-- A run to abort for the versioned slice of a die (R256, R257, R272). -/
def State.sliceOver (s : State) (die : Nat) : Option Holder :=
  let hs := (s.holders (die / 8)).filter fun h => decide (0 < h.2.2.sliceUse die h.1.die)
  if 98304 < hs.foldl (fun n h => n + h.2.2.sliceUse die h.1.die) 0 then (youngest hs).filter fun h => !s.abortPending h else none

end Sys2Proof.Machine
end

