-- ==== Sys2Proof/Machine/Ops.lean ====
section
/-! DEFINITION. Taking an exception, the records of faults and their resolution, and the return from an exception
(21_traps R276 to R287, R263, R273); the checks of R68 that execution makes. -/

namespace Sys2Proof.Machine

/-! ### Handles and records -/

/-- A fault handle (R279). -/
def mkHandle (kind id slot dslot unit rseq : Nat) : BitVec 64 :=
  BitVec.ofNat 64 (kind * 2 ^ 60 + id * 2 ^ 40 + slot * 2 ^ 36 + dslot * 2 ^ 26 + unit * 2 ^ 24 + rseq % 2 ^ 22 * 4)

/-- The handle of a thread's record (R279). -/
def threadHandle (t : Nat) : BitVec 64 := mkHandle 1 (threadId t) (threadSlot t) 0 (if isCcc t then 1 else 0) 0

/-- The number that stands for no region in a record. -/
def noRegion : Nat := 256

/-- The region of a thread for its records (R14, R281). -/
def State.recordRegion (s : State) (t : Nat) : Nat := (s.actsFor t).getD noRegion

/-- Adds a pending record at the end. -/
def State.addRecord (s : State) (r : Record) : State := { s with records := s.records ++ [r] }

/-- Causes whose records go to the CCC first (R280). -/
def toKerlis (cause : Nat) : Bool := decide (cause = causePAGE ∨ cause = causeASSIST ∨ cause = causeECALL)

/-- An engine-reported record of kind 5 of a region, at a cluster (R278, R279). -/
def State.report (s : State) (cl region cause : Nat) (tval : Word) : State :=
  let c := s.cluster cl
  let s := s.setCluster cl { c with rseq := (c.rseq + 1) % 2 ^ 22 }
  s.addRecord { handle := mkHandle 5 (cl * 8) 0 0 0 c.rseq, cause := cause, tval := tval, region := region }

/-! ### Taking an exception -/

/-- Taking an exception: thread t raises a precise trap with a cause, a trap value and the PC at which RESUME continues (R277).
An explicit transaction aborts with FAULT first, and RESUME then continues at its fallback target (R263); an ordered run aborts
with FAULT and is reported under kind 4 (R273). ASSIST is no fault of R263: the run stays open (R226, R286; log 41). Otherwise the
record of kind 1 is written with TCAUSE, TPC, TVAL and TNPC, and the thread is trapped. -/
def State.takeTrap (s : State) (t cause : Nat) (tval tnpc : Word) : State :=
  let th := s.thr t
  let region := s.recordRegion t
  let s := s.formRecord (threadCore t) traceTRAP (threadSlot t) cause th.pc.toNat
  let aborts := decide (cause ≠ causeASSIST)
  if aborts && th.run.ordered then
    (s.abortOrdered th.slice th.dslot abortFAULT).addRecord
      { handle := mkHandle 4 (th.slice * 8) 0 th.dslot 0 0, cause := cause, tval := tval, region := region }
  else
    let next := if aborts && th.run.active then th.fallback else tnpc
    let s := if aborts && th.run.active then s.abortExplicit t abortFAULT cause else s
    (s.setThr t { s.thr t with wait := .trapped }).addRecord
      { handle := threadHandle t, cause := cause, tpc := th.pc, tval := tval, tnpc := next, region := region }

/-- The instruction that issues raises a precise trap, and RESUME issues it again. -/
def State.trap (s : State) (cause : Nat) (tval : Word) : State := s.takeTrap s.cur cause tval s.me.pc

/-- The instruction that issues raises a precise trap given as a pair. -/
def State.trapWith (s : State) (x : Trap) : State := s.trap x.1 x.2

/-- ILLEGAL with the instruction word (R69, R276). -/
def State.illegal (s : State) (i : Instr) : State := s.trap causeILLEGAL ((encode i).setWidth 64)

/-! ### Checks that execution makes (R68 steps 4 to 6, R70) -/

/-- Step 5 of R68: an opcode of compute cores alone raises ILLEGAL on a CCC. -/
def onCore (i : Instr) (s : State) (k : Out) : Out := if isCcc s.cur then .next (s.illegal i) else k

/-- Step 6 of R68: a supervisor instruction raises PRIV in user mode. -/
def privileged (i : Instr) (s : State) (k : Out) : Out :=
  if s.supervisor s.cur then k else .next (s.trap causePRIV ((encode i).setWidth 64))

/-- Step 4 of R68 for an accumulator: a name at or above ACCN raises ILLEGAL (R38). -/
def withTile (i : Instr) (e : BitVec 5) (s : State) (k : Out) : Out :=
  if e.toNat < s.me.tiles.length then k else .next (s.illegal i)

/-- Window registers that an instruction reads, with the lanes: the first uncorrectable word raises DATA_ERROR (R285). -/
def readable (s : State) (regs : List (Nat × BitVec 32)) (k : Out) : Out :=
  if s.badRegs = [] then k
  else
    match regs.find? fun r => decide (SMap.getD s.badRegs (threadCore s.cur * 4096 + s.phys s.cur r.1) 0 &&& r.2 ≠ 0) with
    | none => k
    | some r => .next (s.trap causeDATA (BitVec.ofNat 64 (2 ^ 63 + s.phys s.cur r.1)))

/-- The lowest bit of a number below n, as a position. -/
def lowBit (v : Nat) : Nat → Nat → Nat
  | 0, i => i
  | n + 1, i => if bit v i then i else lowBit v n (i + 1)

/-- The accumulator tile that an instruction reads: an uncorrectable element raises DATA_ERROR (R285). -/
def readableTile (s : State) (k : Nat) (go : Out) : Out :=
  let m := SMap.getD s.badAccs (threadCore s.cur * 32 + k) 0
  if m = 0 then go
  else .next (s.trap causeDATA (BitVec.ofNat 64 (2 ^ 63 + 4096 + 256 * k + lowBit m.toNat 256 0)))

/-! ### Resolving a record (R283) -/

def actRESUME : Nat := 0
def actSKIP : Nat := 1
def actDISCARD : Nat := 2
def actFORWARD : Nat := 3

/-- The pending record a handle names. -/
def State.findRecord (s : State) (h : BitVec 64) : Option Record := s.records.find? fun r => r.handle = h

/-- A record is retired. -/
def State.retireRecord (s : State) (h : BitVec 64) : State := { s with records := s.records.filter fun r => r.handle ≠ h }

/-- The thread that a kind-1 handle names (R279). -/
def handleThread (h : BitVec 64) : Nat :=
  let id := bits h.toNat 59 40
  if bits h.toNat 25 24 = 1 then cccBase + id / 8 * 4 + bits h.toNat 39 36 else id * 16 + bits h.toNat 39 36

def handleKind (h : BitVec 64) : Nat := bits h.toNat 63 60
def handleId (h : BitVec 64) : Nat := bits h.toNat 59 40
def handleDslot (h : BitVec 64) : Nat := bits h.toNat 35 26

/-- The head of a side log is removed with no effect: a release store's thread wakes and learns nothing of it, and the stream of a
scatter element then holds PAGE (R146, R283, R284, R312). -/
def State.dropHead (s : State) (g : Nat) : State :=
  let c := s.core g
  match c.sideLog with
  | [] => s
  | e :: rest =>
    let s := s.setCore g { c with sideLog := rest }
    let s := if e.rel && decide ((s.thr e.thread).wait = .logged) then s.complete e.thread .none else s
    match e.stream with
    | none => s
    | some (cl, n) =>
      let k := s.cluster cl
      let x := SMap.getD k.streams n {}
      let x' := { x with
        logged := x.logged - 1, skipped := insertNew x.skipped e.elem, stop := if x.stop = 0 then causePAGE else x.stop }
      if SMap.has k.streams n then s.setCluster cl { k with streams := SMap.set k.streams n x' } else s

/-- The thread of a kind-1 record goes on at a PC. Where it is resumed from WATCHPOINT, the access passes the watch entries once (R352); an
assist's tile is unlocked (R286). -/
def State.resumeThread (s : State) (r : Record) (pc : Word) (again : Bool) : State :=
  let t := handleThread r.handle
  let th := s.thr t
  let s := s.setThr t { th with
    pc := pc, wait := .ready, nextPc := none
    passWatch := if again && decide (r.cause = causeWATCH) then some r.tpc else th.passWatch }
  if r.cause = causeASSIST then s.unlock (threadCore t) r.tile else s

/-- Resolves a pending record with an action (R283). -/
def State.resolve (s : State) (h : BitVec 64) (action : Nat) : State :=
  match s.findRecord h with
  | none => s
  | some r =>
    if action = actFORWARD then
      match r.place with
      | .queue _ => { s with records := s.records.map fun x =>
          if x.handle = h then { x with place := .chain (if r.region = noRegion then none else some r.region) } else x }
      | .handler q =>
        let m := handleId h / 1024
        { s with records := s.records.map fun x =>
          if x.handle = h then { x with place := .chain (s.region m q).parent } else x }
      | _ => s
    else
      let s := s.retireRecord h
      let id := handleId h
      match handleKind h with
      | 1 =>
        let t := handleThread h
        if action = actRESUME then s.resumeThread r r.tnpc true
        else if action = actSKIP then s.resumeThread r (r.tpc + 4) false
        else if isCcc t then (s.orphanAll (s.streamOwner t)).leaveSlot t
        else
          let th := s.thr t
          let s := State.squash squashFuel (s.childrenOf (s.thr t).slice (s.thr t).dslot) s
          s.abortTask th.slice th.dslot
      | 2 =>
        if action = actRESUME then
          let c := s.core id
          s.setCore id { c with sideLog := match c.sideLog with
            | [] => []
            | e :: rest => { e with recorded := false } :: rest }
        else s.dropHead id
      | 3 =>
        let cl := id / 8
        let x := s.task cl (handleDslot h)
        if action = actRESUME then s.setTask cl (handleDslot h) { x with stagingFault := false, captured := none }
        else s.abortTask cl (handleDslot h)
      | 4 =>
        let cl := id / 8
        let x := s.task cl (handleDslot h)
        if action = actRESUME then s.setTask cl (handleDslot h) { x with heldBack := false, readyTick := s.ticks, aged := 0 }
        else (State.squash squashFuel (s.childrenOf cl (handleDslot h)) s).abortTask cl (handleDslot h)
      | _ => s

/-- The cause that a write of TRES raises for a thread, by the checks of R283 in order; none where it acts. -/
def State.tresCheck (s : State) (t : Nat) (i : Instr) (v : Word) : Option Trap :=
  let h := v.toNat
  let kind := bits h 63 60
  let word : Word := (encode i).setWidth 64
  if kind = 0 ∨ 6 ≤ kind ∨ 2 ≤ bits h 25 24 ∨ (kind ≤ 4 ∧ bits h 23 2 ≠ 0) then some (causeILLEGAL, word)
  else if bits h 1 0 = actFORWARD ∧ s.supervisor t = false then some (causePRIV, word)
  else if bits h 59 50 ≠ threadModule t then some (causeREMOTE, v)
  else
    match s.findRecord (v &&& ~~~3#64) with
    | none => none
    | some r => if s.supervisor t || s.mayReach t r.region then none else some (causeREMOTE, v)

/-- Check 3 of R283 for TRET: TSEL names a pending record of another module. -/
def State.tretDenied (s : State) (t : Nat) : Bool :=
  let h := (s.thr t).tsel
  (s.findRecord h).isSome && decide (handleId h / 1024 ≠ threadModule t)

/-- The return from an exception: TRET acts as a write of TSEL with RESUME to TRES, and does nothing where TSEL names no
pending record (R287). -/
def State.returnFromTrap (s : State) (t : Nat) : State := s.resolve (s.thr t).tsel actRESUME

end Sys2Proof.Machine
end

