-- ==== Sys2Proof/Machine/Route.lean ====
section
/-! DEFINITION. The wiring of the Firn fabric: pods and their joined pods, the plane and the route of a packet, and its header (25_fabric
R321 to R323). -/

namespace Sys2Proof.Machine

/-! ### Pods (R321) -/

/-- The vector of each pod over GF(3). -/
def podVectors : List (Nat × Nat × Nat) :=
  [(1, 0, 0), (0, 1, 0), (0, 0, 1), (1, 1, 0), (1, 2, 0), (1, 0, 1), (1, 0, 2), (0, 1, 1), (0, 1, 2), (1, 1, 1), (1, 1, 2), (1, 2, 1), (1, 2, 2)]

def podVector (p : Nat) : Nat × Nat × Nat := podVectors.getD p (0, 0, 0)

/-- Whether two different pods are joined in each plane: the dot product of their vectors is 0 modulo 3. -/
def joined (p q : Nat) : Bool :=
  let x := podVector p
  let y := podVector q
  decide (p ≠ q ∧ (x.1 * y.1 + x.2.1 * y.2.1 + x.2.2 * y.2.2) % 3 = 0)

/-- The first nonzero coordinate of a vector over GF(3), 1 for the zero vector. -/
def leading (v : Nat × Nat × Nat) : Nat := if v.1 ≠ 0 then v.1 else if v.2.1 ≠ 0 then v.2.1 else if v.2.2 ≠ 0 then v.2.2 else 1

/-- A vector over GF(3) with 1 as its first nonzero coordinate; 1 and 2 are their own inverses. -/
def normalised (v : Nat × Nat × Nat) : Nat × Nat × Nat :=
  let k := leading v
  (v.1 * k % 3, v.2.1 * k % 3, v.2.2 * k % 3)

/-- The pod whose vector is the normalised cross product of those of two pods (R322). -/
def crossPod (p q : Nat) : Nat :=
  let x := podVector p
  let y := podVector q
  podVectors.findIdx fun v => decide (v = normalised
    ((x.2.1 * y.2.2 + 2 * (x.2.2 * y.2.1)) % 3, (x.2.2 * y.1 + 2 * (x.1 * y.2.2)) % 3, (x.1 * y.2.1 + 2 * (x.2.1 * y.1)) % 3))

/-- Pods that have a module. -/
def State.podPresent (s : State) (p : Nat) : Bool := s.present.any fun m => decide (m / 72 = p)

/-- The pods with a module. -/
def State.pods (s : State) : List Nat := (List.range 13).filter s.podPresent

/-! ### Routes (R322) -/

/-- The pods of the minimal route from a pod to a pod, both among them. -/
def minimalPods (x y : Nat) : List Nat := if x = y then [x] else if joined x y then [x, y] else [x, crossPod x y, y]

/-- The pods of a route that runs minimally to an intermediate pod and then minimally on. -/
def viaPods (x i y : Nat) : List Nat := minimalPods x i ++ (minimalPods i y).drop 1

/-- A route that would cross an absent pod is not loaded (R321). -/
def State.loaded (s : State) (ps : List Nat) : Bool := ps.all s.podPresent

/-- Route r of a switch's table to a pod: 0 the minimal one, 1 to 4 the non-minimal ones; the intermediate pod and the pods passed; none
where it is not loaded. -/
def State.tableRoute (s : State) (sw y r : Nat) : Option (Nat × List Nat) :=
  let x := sw / 16
  if r = 0 then (if s.loaded (minimalPods x y) then some (0, minimalPods x y) else none)
  else match (s.switch sw).routes[4 * y + (r - 1)]? with
    | none => none
    | some i => if s.loaded (viaPods x i y) then some (i, viaPods x i y) else none

/-- The route that a packet takes from its first switch: the one whose next output queue holds the fewest flits, a free choice among
those loaded; its number, intermediate pod and pods. With none loaded the manual names no route: the minimal one (log 63). -/
def State.chooseRoute (s : State) (sw y choice : Nat) : Nat × Nat × List Nat :=
  if sw / 16 = y then (0, 0, [y])
  else ((choice % 5 :: List.range 5).findSome? fun r => (s.tableRoute sw y r).map fun x => (r, x.1, x.2)).getD (0, 0, minimalPods (sw / 16) y)

/-- Switch hops h of a packet: the switches that it passes through. -/
def hops (ps : List Nat) : Nat := ps.length

/-! ### The header (R322, R323) -/

/-- CLASS of a KIND: 0 request, 1 response, 2 collective, 3 multicast; 4 for a KIND that is not assigned. -/
def kindClass (kind : Nat) : Nat :=
  if kind ≤ 11 then 0 else if kind ≤ 14 then 1 else if kind ≤ 18 then 2 else if kind ≤ 23 then 3 else 4

/-- The plane that a packet's destination chooses; a response has the plane of its request. -/
def Packet.planeOf (p : Packet) : Nat :=
  if p.kind ≤ 3 then (if 1024 ≤ p.dest then p.dest % 16 else bits p.addr 10 7 ^^^ bits p.addr 14 11)
  else if 5 ≤ p.kind ∧ p.kind ≤ 7 then p.dest % 16
  else if p.kind = 12 ∨ p.kind = 13 ∨ p.kind = 14 then p.plane
  else p.addr % 16

/-- The pod of a source or destination: a module's or a switch's. -/
def endPod (d : Nat) : Nat := if 1024 ≤ d then (d - 1024) / 16 else d / 72

/-- A packet as it leaves its source: CLASS, LEN, its plane, and ROUTE and VIA of the route that its first switch chooses; DELAY is zero
(R322, R323). -/
def State.header (s : State) (p : Packet) : Packet :=
  let plane := p.planeOf
  let r := s.chooseRoute (endPod p.from_ * 16 + plane) (endPod p.dest) (Config.routeChoice s.time p.thread p.dest p.seq)
  { p with cls := kindClass p.kind, len := (p.payload.length + 63) / 64, plane := plane, route := r.1, via := r.2.1 }

/-- Packets join those in flight. -/
def State.addPackets (s : State) (ps : List Packet) : State := { s with net := s.net ++ ps.map s.header }
def State.addPacket (s : State) (p : Packet) : State := s.addPackets [p]

/-- Whether a header names an assigned KIND and its CLASS. -/
def Packet.headerOk (p : Packet) : Bool := decide (p.kind ≤ 23 ∧ p.cls = kindClass p.kind)

/-- The first switch of a packet's route. -/
def Packet.firstSwitch (p : Packet) : Nat := endPod p.from_ * 16 + p.plane

end Sys2Proof.Machine
end

