-- ==== Sys2Proof/Machine/Access.lean ====
section
/-! DEFINITION. One access of a thread to memory: layout entry, checks, side log, translation, X lines, conflicts, watch
entries, uncorrectable data, and the bytes read or written (08_memory_spaces R124 to R139; 09_memory_instructions R141 to R144;
19_transactions R255 to R261; 27_debug R351, R352). -/

namespace Sys2Proof.Machine

/-! ### Reading through a run's own bytes -/

/-- The byte that a thread's own open run has stored at a location (R262). -/
def State.ownByte (s : State) (a : Agent) (directed : Bool) (loc : Nat) : Option Byte :=
  let th := s.thr a.thread
  if a.isThread && th.run.active then SMap.get? th.run.buf (runKey directed a.die loc) else none

/-- A byte as a thread sees it: its run's speculative byte, the die's directed copy, or memory (R140, R262). -/
def State.seen (s : State) (a : Agent) (directed : Bool) (key loc : Nat) : Byte :=
  match s.ownByte a directed loc with
  | some b => b
  | none => if directed then s.directedByte a.die key loc else s.byte key loc

/-- The location of the entry of a layout index in a thread's table (R122). -/
def State.entryLoc (s : State) (t l : Nat) : Nat := locOf (threadModule t) (((s.space t).ltab + 64 * l) % 2 ^ 52)

/-- The entry of a layout index in a thread's table, as a plain coherent load reads it (R124). -/
def State.tableEntry (s : State) (t l : Nat) : Nat :=
  leNat ((List.range 64).map fun i => s.seen (s.agent t) false 0 (s.entryLoc t l + i))

/-- The entry of a layout index for a thread's instruction: as it was read when the instruction issued, else the table's (R124). -/
def State.layoutEntry (s : State) (t l : Nat) : Nat :=
  ((s.thr t).entries.bind fun m => SMap.get? m l).getD (s.tableEntry t l)

/-- The instruction that issues keeps the layout entries that it has read (R124). -/
def State.capture (s : State) (ls : List Nat) : State :=
  s.setMe { s.me with entries := some (ls.foldl (fun m l => SMap.set m l (s.tableEntry s.cur l)) []) }

/-- What the read of layout entries comes to. -/
inductive EntryRead where
  | ok
  /-- It waits. -/
  | wait (r : Retry)
  /-- An uncorrectable byte: its location. -/
  | bad (loc : Nat)
  deriving DecidableEq, Repr

/-- The read of some layout entries of a thread's table, as plain coherent loads: it meets an entry's line that an engine holds in X, a run
that holds its tile, or an uncorrectable byte (R124, R167, R260, R285). The tile joins no read set (DEDUCED, log 39). -/
def State.meetEntries (s : State) (a : Agent) : List Nat → State × EntryRead
  | [] => (s, .ok)
  | l :: ls =>
    let at_ := s.entryLoc a.thread l
    let held := [lineOf at_, lineOf (at_ + 63)].filter fun x => s.xlines.contains x
    if held ≠ [] then (s, .wait (.lineX held))
    else match s.resolveConflicts a reqRead (insertNew [tileOf at_] (tileOf (at_ + 63))) with
      | (s, some tile) => (s.tick1, .wait (.conflict tile s.fresh reqRead))
      | (s, none) =>
        match ((List.range 64).map (at_ + ·)).find? fun x => s.badMem.contains x && (s.ownByte a false x).isNone with
        | some x => (s, .bad x)
        | none => s.meetEntries a ls

/-- The coordinates of an entry from the scalars from s[c] on (R125). -/
def Thread.coords (th : Thread) (e c : Nat) : List Nat := (List.range (layKind e)).map fun i => (th.s (c + i)).toNat

/-- Steps 1 to 3 of R141: the coordinate group, the entry's validity and its permissions. `need`: 1 read, 2 write, 4 atomic. -/
def layoutChecks (e l c need : Nat) : Except Trap Unit :=
  let bounds : Trap := (causeLAYOUT, BitVec.ofNat 64 l)
  if layValid e && decide (63 < c + layKind e - 1) then .error bounds
  else if !layValid e then .error bounds
  else if !layGrants e need then .error bounds
  else .ok ()

/-- Steps 1 to 5 of R141 for an element access of n bytes with an alignment; the entry and the address (R125). -/
def State.elementAccess (s : State) (t l c need n al : Nat) : Except Trap (Nat × Nat) :=
  let e := s.layoutEntry t l
  match layoutChecks e l c need with
  | .error x => .error x
  | .ok _ =>
    match elementAddress e l ((s.thr t).coords e c) n al with
    | .error x => .error x
    | .ok va => .ok (e, va)

/-! ### The side log (R136, R137) -/

/-- The pages of a list that have live entries of a context in a core's side log (R137). -/
def Core.livePages (c : Core) (ctx : Nat) (pages : List Nat) : List Nat :=
  pages.filter fun p => c.sideLog.any fun e => decide (e.ctx = ctx) && (e.vas.any fun v => decide (v / 65536 = p))

/-- The pages of a list that have live entries of a thread in a context. -/
def Core.ownPages (c : Core) (t ctx : Nat) (pages : List Nat) : List Nat :=
  { c with sideLog := c.sideLog.filter fun e => decide (e.thread = t) }.livePages ctx pages

/-- Whether a thread has entries of its own in the side log (R139). Entries of a stream hold no release (R312). -/
def Core.hasLogOf (c : Core) (t : Nat) : Bool := c.sideLog.any fun e => decide (e.thread = t) && e.stream.isNone

/-- Whether a core's side log takes no entry for some more: it has 64 places, and it takes none while its record waits for a place in the trap
queue (R136, R280). -/
def State.logFull (s : State) (g n : Nat) : Bool :=
  decide (64 < (s.core g).sideLog.length + n)
  || s.records.any fun r => decide (r.place = .fresh ∧ r.handle = mkHandle 2 g 0 0 0 0) && toKerlis r.cause

/-- An entry joins the side log at its end; an entry that comes to the head with a fault has a record (R136, R278). -/
def State.enterLog (s : State) (g : Nat) (x : LogEntry) (fault : Option Nat) : State :=
  let c := s.core g
  match c.sideLog, fault with
  | [], some va =>
    (s.setCore g { c with sideLog := [{ x with recorded := true }] }).addRecord
      { handle := mkHandle 2 g 0 0 0 0, cause := causePAGE, tval := BitVec.ofNat 64 va, region := x.region }
  | _, _ => s.setCore g { c with sideLog := c.sideLog ++ [x] }

/-! ### Releases (R144) -/

/-- What a release finds. -/
inductive ReleaseStatus where
  | go
  | wait
  | err (x : Trap)
  deriving DecidableEq, Repr

/-- Conditions 2 and 3 of R144; `log` says whether condition 2 applies (core scope or wider). Condition 1 holds at once: every
write of the model is visible when it is performed (log 5). -/
def State.releaseStatus (s : State) (t : Nat) (log : Bool) : ReleaseStatus :=
  let th := s.thr t
  match th.postedErr with
  | some x => .err x
  | none =>
    if th.posted ≠ 0 then .wait
    else if log && (s.core (threadCore t)).hasLogOf t then .wait
    else .go

/-- Runs `k` once the release of the thread that issues has taken effect; it raises the error of a posted access, or parks. Inside
a run the release waits for the commit (R143), to which condition 2 applies where some release of the run is at core scope or wider. -/
def State.afterRelease (s : State) (rel log : Bool) (k : State → State) : State :=
  if !rel then k s
  else if s.me.run.active then k (s.setMe { s.me with run := { s.me.run with rel := true, relLog := s.me.run.relLog || log } })
  else match s.releaseStatus s.cur log with
    | .go => k s
    | .wait => s.park (.retry (.release log))
    | .err x => (s.setMe { s.me with postedErr := none }).trapWith x

/-! ### Directory watch entries (R351, R352) -/

/-- Kinds of access of a watch hit. -/
def kindRead : Nat := 0
def kindWrite : Nat := 1
def kindAmo : Nat := 2

/-- Whether a die's entry e is hit by an access of an agent to a location (R351, R352). -/
def Die.watchHit (d : Die) (e loc kind : Nat) (engine : Bool) : Bool :=
  let a := (SMap.getD d.dwa e 0).toNat
  let c := (SMap.getD d.dwc e 0).toNat
  bit c 0 && decide (bits a 51 7 = locPa loc / 128) && bit c (32 + locPa loc % 128 / 4) && decide (bits c 6 5 ≠ 3)
  && (decide (kind ≠ kindWrite) && bit c 1 || decide (kind ≠ kindRead) && bit c 2) && (!engine || bit c 3)

/-- The die at which an access to a location is performed: its home, or the die that caches a DIRECTED line (R140, R351). -/
def Agent.servedAt (a : Agent) (directed : Bool) (loc : Nat) : Nat := if directed then a.die else locModule loc * 8 + homeDie (locPa loc)

/-- The watch entries that an access to some places hits, a place being a die and a location: die, entry and location, each entry of a die
once (R351, R352). -/
def State.watchHits (s : State) (a : Agent) (kind : Nat) (places : List (Nat × Nat)) : List (Nat × Nat × Nat) :=
  if s.dies.all fun e => e.2.dwc = [] then []
  else
    ((places.map (·.1)).foldl insertNew []).reverse.flatMap fun d =>
      (List.range 16).filterMap fun e =>
        (places.find? fun x => decide (x.1 = d) && (s.die d).watchHit e x.2 kind (!a.isThread)).map fun x => (d, e, x.2)

/-- SRCID of an agent (R323, R351). -/
def Agent.srcId (a : Agent) : Nat :=
  if a.unit = 0 ∨ a.unit = 4 then threadCore a.thread else a.cluster * 8

/-- A hit sets HIT and DWHe (R351). -/
def State.noteHit (s : State) (a : Agent) (kind : Nat) (h : Nat × Nat × Nat) : State :=
  let d := s.die h.1
  let c := (SMap.getD d.dwc h.2.1 0).toNat
  let w := a.srcId * 2 ^ 44 + (if a.isThread then threadSlot a.thread else 0) * 2 ^ 40 + kind * 2 ^ 38
    + (if a.isThread then 0 else 2 ^ 37) + a.unit * 2 ^ 34
  s.setDie h.1 { d with
    dwc := SMap.set d.dwc h.2.1 (BitVec.ofNat 64 (c ||| 128)), dwh := SMap.set d.dwh h.2.1 (BitVec.ofNat 64 w) }

/-- The action of a hit entry: 0 TRACE, 1 TRAP, 2 STOP (R351). -/
def State.hitAction (s : State) (h : Nat × Nat × Nat) : Nat := bits (SMap.getD (s.die h.1).dwc h.2.1 0).toNat 6 5

/-- The effect of a hit whose access is performed: a DWATCH record, or a stop of the issuing core. An engine access and a replay do nothing
more at an entry whose action is not TRACE where the core's stops are not enabled (R352). -/
def State.performHit (s : State) (a : Agent) (kind : Nat) (h : Nat × Nat × Nat) : State :=
  let act := s.hitAction h
  let s := s.noteHit a kind h
  let g := threadCore a.thread
  if locModule h.2.2 ≠ a.module ∨ threadModule a.thread ≠ a.module ∨ 2 ^ 20 ≤ g then s
  else if act ≠ 0 ∧ (s.core g).dbg.en then s.requestStop g 4 (threadSlot a.thread) h.2.1
  else if act ≠ 0 ∧ (a.isThread && !a.replay) = false then s
  else s.formRecord g traceDWATCH (threadSlot a.thread) (h.1 % 8 * 256 + h.2.1 * 16 + kind) (locPa h.2.2)

/-! ### The access itself -/

/-- What an access of a thread meets. -/
inductive Met where
  /-- Performed in the module: the pages translated. -/
  | here (xs : SMap Xlat)
  /-- A peer's memory: the pages translated at the source. -/
  | peer (xs : SMap Xlat)
  /-- Moraine memory. -/
  | moraine
  /-- A precise trap. -/
  | trap (x : Trap)
  /-- The instruction is performed later. -/
  | wait (r : Retry)
  /-- A store or reduction enters the side log; the address that faulted, if one did. -/
  | log (fault : Option Nat)
  /-- The run aborts with REMOTE. -/
  | remote
  /-- An abort that the access caused has squashed the thread's own task: the access is cancelled (R48, R261). -/
  | gone
  deriving DecidableEq, Repr

/-- An access of a thread: its entry, kind of request, whether it can enter the side log, the bytes read and written. -/
structure Req where
  entry : Nat := 0
  /-- Request kind of R260, and the kind of a watch hit. -/
  kind : Nat := 0
  hit : Nat := 0
  /-- Leaf permissions. -/
  need : Nat := 2
  logs : Bool := false
  /-- Whether a request of a writing kind writes a byte: a CAS that fails writes none (R131, R149). -/
  stores : Bool := true
  /-- Addresses that are translated, and those of the bytes read or written. -/
  vas : List Nat := []
  bytes : List Nat := []
  deriving DecidableEq, Repr

def Req.writes (r : Req) : Bool := decide (r.kind ≠ reqRead)

/-- First address of a list that lies in a page. -/
def firstIn (p : Nat) (vas : List Nat) : Nat := (vas.find? fun v => decide (v / 65536 = p)).getD (p * 65536)

/-- A place of an access of an agent: the die that serves the byte at an address, and the byte's location. -/
def placeOf (a : Agent) (entry : Nat) (xs : SMap Xlat) (va : Nat) : Nat × Nat :=
  (a.servedAt (directedAt entry xs va) (xlatLoc xs va), xlatLoc xs va)

/-- The conflict tiles of the bytes of an access (R255). -/
def tilesOf (a : Agent) (entry : Nat) (xs : SMap Xlat) (vas : List Nat) : List Nat :=
  (vas.map fun v => tileOf (runKey (directedAt entry xs v) a.die (xlatLoc xs v))).foldl insertNew []

/-- The lines in X that an access must wait for: those of its coherent bytes and of the directed lines that it fetches (R140, R167), and
those of the frames that it takes (R364). -/
def State.heldLines (s : State) (a : Agent) (entry : Nat) (xs : SMap Xlat) (vas : List Nat) : List Nat :=
  if s.xlines = [] then []
  else (vas.filterMap fun v =>
      let l := lineOf (xlatLoc xs v)
      if s.xlines.contains l && !(directedAt entry xs v && SMap.has (s.die a.die).directed l) then some l else none)
    ++ s.frameLines a.ctx (vas.map (xlatLoc xs))

/-- The requests that an access of a kind makes at the directories: its own, and the zeroing of the frames that it takes (R260, R364). -/
def State.accessRequests (s : State) (a : Agent) (kind : Nat) (entry : Nat) (xs : SMap Xlat) (vas : List Nat) : List (Nat × List Nat) :=
  (kind, tilesOf a entry xs vas) :: s.frameRequests a.ctx (vas.map (xlatLoc xs))

/-- What an access that must wait for a tile comes to: it is performed later, unless an abort that it caused squashed its own task. -/
def State.waitFor (s : State) (a : Agent) (was : Bool) (kind tile : Nat) : State × Met :=
  if was && !(s.thr a.thread).live then (s.dequeueAll a, .gone) else (s.tick1, .wait (.conflict tile s.fresh kind))

/-- An uncorrectable byte that an access meets: one that it reads, or another byte of a line that it writes in part; a frame that it takes is
zeroed first (R285, R364). -/
def State.badFor (s : State) (a : Agent) (entry : Nat) (xs : SMap Xlat) (reads : Bool) (vas : List Nat) : Option Nat :=
  let bad := s.badMem.filter fun b => !s.foreign a.ctx b
  if bad = [] then none
  else
    vas.find? fun va =>
      let loc := xlatLoc xs va
      let dir := directedAt entry xs va
      if reads then bad.contains loc && s.isBad dir a.die loc
      else bad.any fun b => decide (lineOf b = lineOf loc) && s.isBad dir a.die b && !(vas.any fun v => decide (xlatLoc xs v = b))

/-- The uncorrectable byte that a request meets. A RED's own bytes are not read by the issuer: it is performed on them as they are stored, and
they are good then (R285; DESIGN CHOICE, log 83). -/
def State.badByte (s : State) (a : Agent) (r : Req) (xs : SMap Xlat) : Option Nat :=
  s.badFor a r.entry xs (decide (r.kind = reqRead ∨ r.hit = kindAmo)) r.bytes

/-- The frames of an access's bytes become the context's, and the lines of its directed bytes are fetched (R140, R364). -/
def State.touchBytes (s : State) (a : Agent) (entry : Nat) (xs : SMap Xlat) (vas : List Nat) : State :=
  let s := vas.foldl (fun s va => s.touchFrame (xlatKey xs va) (xlatLoc xs va) a.ctx) s
  if isDirected entry xs then
    vas.foldl (fun s va => if directedAt entry xs va then s.fetchLine a.die (xlatKey xs va) (xlatLoc xs va) else s) s
  else s

/-- The read and write sets of a run after an access to some tiles (R143). -/
def Run.access (run : Run) (kind hit : Nat) (tiles : List Nat) : Run :=
  { run with
    reads := if kind = reqRead ∨ hit = kindAmo then tiles.foldl insertNew run.reads else run.reads
    writes := if kind = reqWrite then tiles.foldl insertNew run.writes else run.writes
    comms := if kind = reqComm then tiles.foldl insertNew run.comms else run.comms }

/-- Steps 6 and 7 of R141 for an access of thread t inside the module; a peer or Moraine access is only translated. An access
inside a run joins its read or write set (R143). -/
def State.meet (s : State) (t : Nat) (r : Req) : State × Met :=
  let a := s.agent t
  let th := s.thr t
  let sp := laySpace r.entry
  let pages := pagesOf r.vas
  let dirty := r.writes && r.stores && decide (r.bytes ≠ [])
  if th.run.active && decide (3 ≤ sp) then (s, .remote)
  else if sp = 4 then (s, .moraine)
  else
    let live := (s.core (threadCore t)).livePages a.ctx pages
    let tables := s.tableWaits a sp (layModule r.entry) r.need dirty pages
    if live ≠ [] ∧ (r.logs = false ∨ th.run.active) then (s, .wait (.pageLive live))
    else if live ≠ [] then (s, .log none)
    else if tables ≠ [] then (s, .wait (.lineX tables))
    else
      match s.resolveAll a (s.walkRequests a sp (layModule r.entry) r.need dirty pages) with
      | (s, some (kind, _, tile)) => s.waitFor a th.live kind tile
      | (s, none) =>
      match s.translateAll a sp (layModule r.entry) r.need dirty pages with
      | (s, .error p) =>
        let va := firstIn p r.vas
        if th.live && !(s.thr t).live then (s, .gone)
        else if r.logs && !th.run.active && !isCcc t then (s, .log (some va)) else (s, .trap (causePAGE, BitVec.ofNat 64 va))
      | (s, .ok xs) =>
        if th.live && !(s.thr t).live then (s, .gone)
        else if sp = 3 then (s, .peer xs)
        else
          let lines := s.heldLines a r.entry xs r.bytes
          if lines ≠ [] then (s, .wait (.lineX lines))
          else
            let tiles := tilesOf a r.entry xs r.bytes
            match s.resolveAll a (s.accessRequests a r.kind r.entry xs r.bytes) with
            | (s, some (kind, _, tile)) => s.waitFor a th.live kind tile
            | (s, none) =>
              let hits := if th.passWatch = some th.pc then [] else s.watchHits a r.hit (r.bytes.map (placeOf a r.entry xs))
              if th.live && !(s.thr t).live then (s, .gone)
              else match hits.find? fun h => decide (s.hitAction h = 1) with
              | some h =>
                let va := (r.bytes.find? fun v => decide (placeOf a r.entry xs v = (h.1, h.2.2))).getD 0
                (hits.foldl (fun s h => s.noteHit a r.hit h) s, .trap (causeWATCH, BitVec.ofNat 64 va))
              | none =>
                match s.badByte a r xs with
                | some va => (s, .trap (causeDATA, BitVec.ofNat 64 va))
                | none =>
                  let s := hits.foldl (fun s h => s.performHit a r.hit h) s
                  let s := s.touchBytes a r.entry xs r.bytes
                  let th := s.thr t
                  (s.setThr t { th with
                    passWatch := if th.passWatch = some th.pc then none else th.passWatch, run := if th.run.active then th.run.access r.kind r.hit tiles else th.run }, .here xs)

/-- The bytes of an access as the thread sees them, in order (R145). -/
def State.readBytes (s : State) (t entry : Nat) (xs : SMap Xlat) (vas : List Nat) : List Byte :=
  vas.map fun va => s.seen (s.agent t) (directedAt entry xs va) (xlatKey xs va) (xlatLoc xs va)

/-- Writes bytes of thread t: into its run's speculative bytes, into the die's directed copy, or into memory (R142, R262). -/
def State.writeBytes (s : State) (t entry : Nat) (xs : SMap Xlat) (cells : List (Nat × Byte)) : State :=
  let a := s.agent t
  cells.foldl (fun s c =>
    let loc := xlatLoc xs c.1
    let key := xlatKey xs c.1
    let dir := directedAt entry xs c.1
    let th := s.thr t
    if th.run.active then
      let keys := if keyAt loc key = 0 then th.run.keys else SMap.set th.run.keys (lineOf loc) key
      s.setThr t { th with run := { th.run with buf := SMap.set th.run.buf (runKey dir a.die loc) c.2, keys := keys } }
    else if inCtl (locPa loc) then s
    else if dir then s.setDirectedByte a.die key loc c.2
    else s.setByte (some t) key loc c.2) s

/-- The bank of an access, by its first byte (R358). -/
def bankOfAccess (xs : SMap Xlat) (vas : List Nat) : Nat := bankOf (xlatLoc xs (vas.headD 0))

/-! ### Packets (R323) -/

/-- The switch that a Moraine address names (R326). -/
def moraineSwitch (addr : Nat) : Nat := bits addr 44 41 * 16 + bits addr 40 37

/-- A packet as a thread forms it. -/
def State.formPacket (s : State) (t : Nat) (p : Packet) : Packet :=
  let a := s.agent t
  { p with thread := t, srcu := a.unit, from_ := threadModule t, ctx := a.ctx, region := s.recordRegion t }

/-- A packet joins those in flight, with the next SEQ of its thread and destination (R323, R324). -/
def State.stamp (s : State) (p : Packet) : State :=
  let th := s.thr p.thread
  let n := SMap.getD th.seqs p.dest 0
  (s.setThr p.thread { th with seqs := SMap.set th.seqs p.dest ((n + 1) % 65536) }).addPacket { p with seq := n }

/-- A packet of a thread joins those in flight. -/
def State.sendPacket (s : State) (t : Nat) (p : Packet) : State := s.stamp (s.formPacket t p)

/-- Sends a list of packets of a thread in order. -/
def State.sendPackets (s : State) (t : Nat) (ps : List Packet) : State := ps.foldl (fun s p => s.sendPacket t p) s

/-- Kinds that a source sends of itself: each waits for the earlier ones of its thread to its destination (R169, R324). -/
def isRequest (kind : Nat) : Bool := decide (kind ≤ 11 ∨ kind = 15 ∨ kind = 17 ∨ kind = 18 ∨ kind = 19 ∨ kind = 20)

/-- Whether packet x must be performed before packet p that stands behind it. -/
def Packet.before (x p : Packet) : Bool :=
  isRequest x.kind && isRequest p.kind && decide (x.from_ = p.from_ ∧ x.dest = p.dest)
  && (decide (x.thread = p.thread ∧ x.srcu = p.srcu) || (decide (x.kind = 4 ∧ p.kind = 4 ∧ x.addr = p.addr)
    && decide (threadCore x.thread = threadCore p.thread)))

/-- How many packets among some a thread, or an engine for it, has sent to a destination that are not acknowledged: requests, and those whose
acknowledgement is on its way (R324). -/
def unackedIn (ps : List Packet) (t : Nat) (engine : Bool) (dest : Nat) : Nat :=
  (ps.filter fun p => decide (p.thread = t ∧ (1 < p.srcu ↔ engine = true)
    ∧ ((isRequest p.kind = true ∧ p.dest = dest) ∨ (p.from_ = dest ∧ (p.kind = 12 ∨ p.kind = 13 ∨ p.kind = 16 ∨ p.kind = 22))))).length

/-- Packets of a thread to a destination that are not acknowledged, those that still wait at the source among them (R324). -/
def State.unacked (s : State) (t dest : Nat) : Nat := unackedIn (s.net ++ s.egress) t false dest

/-- Whether a packet may leave its source: none that stands before it waits there, and fewer than 256 of its source are unacknowledged at its
destination (R169, R324). -/
def State.mayLeave (s : State) (ahead : List Packet) (p : Packet) : Bool :=
  !(ahead.any fun x => x.before p) && decide (unackedIn s.net p.thread (decide (1 < p.srcu)) p.dest < 256)

/-- A packet leaves its source; a thread that is no longer there counts no SEQ. -/
def State.leave (s : State) (p : Packet) : State := if (s.thr p.thread).live then s.stamp p else s.addPacket p

/-- A packet is sent, or waits at its source in its turn (R324). -/
def State.emit (s : State) (p : Packet) : State := if s.mayLeave s.egress p then s.leave p else { s with egress := s.egress ++ [p] }

/-- Packets are sent in order. -/
def State.emitAll (s : State) (ps : List Packet) : State := ps.foldl State.emit s

/-- The first packet that waits at its source and may leave now. -/
def State.egressEvent (s : State) : Option State :=
  (List.range s.egress.length).findSome? fun i => match s.egress[i]? with
    | some p => if s.mayLeave (s.egress.take i) p then some (State.leave { s with egress := s.egress.eraseIdx i } p) else none
    | none => none

/-- Whether a thread's packets can all be sent: each of the given destinations then has at most 256 that are not acknowledged (R324). -/
def State.windowOpen (s : State) (t : Nat) (dests : List Nat) : Bool :=
  dests.all fun d => decide (s.unacked t d + dests.count d ≤ 256)

/-- The thread that issues sends packets, and goes on with `k`; they wait at the source while a destination's window has no room (R324). -/
def State.request (s : State) (ps : List Packet) (k : State → State) : State :=
  let dests := ps.map (·.dest)
  if s.windowOpen s.cur dests then k (s.sendPackets s.cur ps) else s.park (.retry (.window dests))

/-- Runs of cells, each with its first address; `joins` says whether a cell's address goes on into the next one's (R323 kind 1). -/
def runsOf (joins : Nat → Nat → Bool) : List (Nat × Byte) → List (Nat × List Byte)
  | [] => []
  | (a, b) :: rest =>
    match runsOf joins rest with
    | (c, bs) :: more => if joins a c then (a, b :: bs) :: more else (a, [b]) :: (c, bs) :: more
    | [] => [(a, [b])]

/-- Whether two addresses of a peer or Moraine access are consecutive at the target: a peer's page may lie anywhere, and a Moraine page of
2 MiB in any bank (R134, R326). -/
def farJoins (xs : SMap Xlat) (moraine : Bool) (a c : Nat) : Bool :=
  decide (c = a + 1) && (if moraine then decide (c / 2 ^ 21 = a / 2 ^ 21) else decide (xlatLoc xs c = xlatLoc xs a + 1))

/-- The runs of cells of a peer or Moraine access that lie at consecutive addresses of the target, each with its first address (R323). -/
def farRuns (xs : SMap Xlat) (moraine : Bool) (cells : List (Nat × Byte)) : List (Nat × List Byte) := runsOf (farJoins xs moraine) cells

/-- The same runs of addresses, each with its length. -/
def farSpans (xs : SMap Xlat) (moraine : Bool) (vas : List Nat) : List (Nat × Nat) :=
  (farRuns xs moraine (vas.map fun v => (v, (0 : Byte)))).map fun r => (r.1, r.2.length)

/-- Where the request for an address of a peer or Moraine access goes, and the address it carries (R322, R326). -/
def farTarget (xs : SMap Xlat) (moraine : Bool) (va : Nat) : Nat × Nat :=
  if moraine then (1024 + moraineSwitch va, va)
  else (locModule (xlatLoc xs va), locPa (xlatLoc xs va))

/-- The bank of a far access (R358). -/
def farBank (xs : SMap Xlat) (moraine : Bool) (va : Nat) : Nat :=
  if moraine then 32 + bits va 40 37 else bankOf (xlatLoc xs va)

/-! ### When an instruction issues again -/

/-- Whether a tile can be reached: it is not locked, and its lock did not clear in this very cycle (R42, R224). -/
def State.unlocked (s : State) (g tile : Nat) : Bool :=
  let c := s.core g
  !c.locks.contains tile && decide (SMap.get? c.unlocked tile ≠ some (s.dieCycle (clusterDie (coreCluster g))))

def NearOp.agent (o : NearOp) : Agent :=
  { thread := o.thread, unit := 4, cluster := threadCluster o.thread, ctx := o.ctx, heap := o.heap }

/-- The agent whose request a thread waits for at a directory: itself, or the near-bank units for its NBMV (R235, R261). -/
def State.waiter (s : State) (t : Nat) : Agent :=
  match (s.thr t).near with
  | some o => o.agent
  | none => s.agent t

/-- Whether the reason of a retry is over for a thread. -/
def State.retryOver (s : State) (t : Nat) : Retry → Bool
  | .sideLogFull => !s.logFull (threadCore t) 1
  | .pageLive ps => decide ((s.core (threadCore t)).livePages (s.agent t).ctx ps = [])
  | .release log => s.releaseStatus t log ≠ .wait
  | .lineX ls => ls.all fun l => !s.xlines.contains l
  | .fetch ls ps tile => (ls.all fun l => !s.xlines.contains l)
    && decide ((s.core (threadCore t)).ownPages t (s.agent t).ctx ps = [])
    && tile.all fun x => !s.blocked (s.agent t) x.2 x.1
  | .conflict tile _ kind => !s.blocked (s.waiter t) kind tile
  | .lock g tile => s.unlocked g tile
  | .token => decide ((s.die (threadDie t)).token = some t)
  | .tokenDrain => s.threads.all fun e => decide (e.1 = t) || decide (threadDie e.1 ≠ threadDie t) || !e.2.live
      || !e.2.explicitOpen
  | .tokenBusy => decide ((s.die (threadDie t)).token = none)
  | .inboundFull g => decide ((s.core g).inbound.length < 16)
  | .window ds => s.windowOpen t ds

end Sys2Proof.Machine
end

