-- ==== Sys2Proof/Machine/Operands.lean ====
section
/-! DEFINITION. The operand forms of the instruction words: immediates, groups of scalars, predicates, window registers by
index, packed coordinates (04_formats R54 to R56; 02_execution_model R32). -/

namespace Sys2Proof.Machine

/-- Sign extension of an immediate to 64 bits (R54, R97). -/
def sext {n : Nat} (i : BitVec n) : Word := i.signExtend 64

/-- Scalars s[a], s[a+1], ... of the thread that issues, as numbers. -/
def State.group (s : State) (a : BitVec 6) (n : Nat) : List Nat := (List.range n).map fun i => (s.srN (a.toNat + i)).toNat

/-- The predicate of a p field as a lane mask (R195). -/
def State.mask (s : State) (p : BitVec 3) : BitVec 32 := s.pr p.toNat

/-- Register v[n] of the thread that issues. -/
def State.v (s : State) (n : BitVec 6) : Vec := s.vec n.toNat

/-- W of the thread that issues. -/
def State.w (s : State) : Nat := winSize s.cur s.me

/-- LAYOUT_BOUNDS of a window-relative register index (R276). -/
def badIndex (r : Nat) : Trap := (causeLAYOUT, BitVec.ofNat 64 (2 ^ 63 + r % 2 ^ 63))

/-- Coordinates packed in a word: four of 16 bits for a tiled entry, the byte offset for a linear one (R32). -/
def unpackCoords (e : Nat) (v : Nat) : List Nat :=
  if layKind e = 1 then [v] else (List.range (layKind e)).map fun i => bits v (16 * i + 15) (16 * i)

/-- PC + 4 * an offset in words (R102, R103). -/
def relTarget {n : Nat} (pc : Word) (o : BitVec n) : Word := pc + sext o * 4

/-- The low n bytes of a scalar, lowest first. -/
def lowBytes (v : Word) (n : Nat) : List Byte := leBytes n v.toNat

/-- The value of loaded bytes: zero-extended, or sign-extended from their width (R145). -/
def loadValue (bs : List Byte) (sx : Bool) : Word :=
  if sx then BitVec.ofNat 64 (trunc (signed (leNat bs) (8 * bs.length)) 64) else BitVec.ofNat 64 (leNat bs)

/-- A condition of BR (R102); values 6 and 7 do not decode and never hold. -/
def branchTaken (n : BitVec 3) (x y : Word) : Bool :=
  match n.toNat with
  | 0 => decide (x = y)
  | 1 => decide (x ≠ y)
  | 2 => x.slt y
  | 3 => !x.slt y
  | 4 => x.ult y
  | 5 => !x.ult y
  | _ => false

/-- A condition of BRP (R102). -/
def predTaken (n : BitVec 3) (p : BitVec 32) : Bool :=
  match n.toNat with
  | 0 => decide (p ≠ 0)
  | 1 => decide (p = BitVec.allOnes 32)
  | 2 => decide (p = 0)
  | _ => false

/-- The cluster that a 17-bit selector names for a thread: its own, or one of its module; none is REMOTE_DENIED (R107). -/
def selectCluster (t sel : Nat) : Option Nat :=
  if sel = 0x1FFFF then some (threadCluster t)
  else if clusterModule sel = threadModule t then some sel else none

end Sys2Proof.Machine
end

