-- ==== Sys2Proof/Machine/Flags.lean ====
section
/-! DEFINITION. The sticky flags of scalar FP32: each result with the flags that its instruction ORs into FFLAGS (07_scalar_control R99
to R101; 21_traps R291). -/

namespace Sys2Proof.Machine

/-- ORs flags into FFLAGS of the thread that issues (R99). -/
def State.orFlags (s : State) (f : BitVec 5) : State := s.setMe { s.me with fflags := s.me.fflags ||| f }

/-- NV where an operand is a signalling NaN (R100). -/
def snanFlags (xs : List W32) : BitVec 5 := if xs.any isSnan then flagNV else 0

/-- NV where an operation on operands that are no NaN gives one (R100). -/
def invalidFlags (xs : List W32) (r : Num) : BitVec 5 :=
  if r = .nan ∧ (xs.all fun x => !isNan x) then flagNV else 0

/-- A result rounded once with the flags of its operands and its rounding (R99, R100). -/
def flagged (xs : List W32) (r : Num) : W32 × BitVec 5 :=
  ((round32 r).1, snanFlags xs ||| invalidFlags xs r ||| (round32 r).2)

def fadd32 (x y : W32) : W32 × BitVec 5 := flagged [x, y] ((num32 x).add (num32 y))
def fsub32 (x y : W32) : W32 × BitVec 5 := flagged [x, y] ((num32 x).add (num32 y).neg)
def fmul32 (x y : W32) : W32 × BitVec 5 := flagged [x, y] ((num32 x).mul (num32 y))

/-- Division: DZ for a finite nonzero dividend over zero (R100). -/
def fdiv32 (x y : W32) : W32 × BitVec 5 :=
  let r := flagged [x, y] ((num32 x).div (num32 y))
  let dz := match num32 x, num32 y with
    | .fin _ m _, .fin _ n _ => decide (m ≠ 0 ∧ n = 0)
    | _, _ => false
  (r.1, r.2 ||| (if dz then flagDZ else 0))

def fsqrt32 (x : W32) : W32 × BitVec 5 := flagged [x] (num32 x).sqrt

/-- Fused multiply-add: inf times zero sets NV even when the addend is a NaN (R100). -/
def fmadd32 (x y z : W32) : W32 × BitVec 5 :=
  let p := (num32 x).mul (num32 y)
  let r := p.add (num32 z)
  ((round32 r).1, snanFlags [x, y, z] ||| invalidFlags [x, y] p ||| invalidFlags [x, y, z] r ||| (round32 r).2)

/-- FEQ: NV for a signalling NaN (R101). -/
def feq32 (x y : W32) : Bool × BitVec 5 := ((num32 x).eq (num32 y), snanFlags [x, y])

/-- FLT: NV for any NaN (R101). -/
def flt32 (x y : W32) : Bool × BitVec 5 :=
  ((num32 x).lt (num32 y), if isNan x || isNan y then flagNV else 0)

/-- FTOI (R101). -/
def ftoi32 (x : W32) : Word × BitVec 5 :=
  match num32 x with
  | .nan => (0, flagNV)
  | .inf s => (if s then BitVec.ofNat 64 (2 ^ 63) else BitVec.ofNat 64 (2 ^ 63 - 1), flagNV)
  | .fin s m e =>
    let t := truncInt s m e
    if 2 ^ 63 ≤ t.1 then (BitVec.ofNat 64 (2 ^ 63 - 1), flagNV)
    else if t.1 < -2 ^ 63 then (BitVec.ofNat 64 (2 ^ 63), flagNV)
    else (BitVec.ofInt 64 t.1, if t.2 then 0 else flagNX)

/-- ITOF (R101). -/
def itof32 (x : Word) : W32 × BitVec 5 :=
  let r := round32 (ofInt x.toInt 0 false)
  (r.1, r.2 &&& flagNX)

end Sys2Proof.Machine
end

