-- ==== Sys2Proof/Machine/Control.lean ====
section
/-! DEFINITION. The meanings of the control transfers, opcodes 0x10 to 0x14 (07_scalar_control R102 to R104, R98). -/

namespace Sys2Proof.Machine

def execBr (a b : BitVec 6) (n : BitVec 3) (o : BitVec 10) (s : State) : Out :=
  .next (if branchTaken n (s.sr a) (s.sr b) then s.jump (relTarget s.me.pc o) else s.retire)

def execBrp (a : BitVec 6) (n : BitVec 3) (o : BitVec 10) (s : State) : Out :=
  .next (if predTaken n (s.pr a.toNat) then s.jump (relTarget s.me.pc o) else s.retire)

def execJal (d : BitVec 6) (i : BitVec 19) (s : State) : Out :=
  .next ((s.setSr d (s.me.pc + 4)).jump (relTarget s.me.pc i))

/-- JALR: a target that is no multiple of 4 raises ALIGN with the target, and neither d nor the PC changes (R103). -/
def execJalr (d a : BitVec 6) (i : BitVec 13) (s : State) : Out :=
  let t := s.sr a + sext i
  if t.toNat % 4 ≠ 0 then .next (s.trap causeALIGN t)
  else .next ((s.setSr d (s.me.pc + 4)).jump t)

def execAuipc (d : BitVec 6) (i : BitVec 19) (s : State) : Out :=
  .next ((s.setSr d (s.me.pc + (sext i <<< 13))).retire)

end Sys2Proof.Machine
end

