-- ==== Sys2Proof/Machine/Ctl.lean ====
section
/-! DEFINITION. The control range: hub registers, debug and watch blocks, platform registers, and the state of a thread as TXDATA
and DDATA reach it (28_platform R359, R360, R368; 27_debug R344 to R358; 21_traps R290 to R292; 02_execution_model R27; 08_memory_spaces
R128, R135; 25_fabric R334, R335; 15_matrix R231, R236; 19_transactions R271). -/

namespace Sys2Proof.Machine

/-! ### The format registers and the user CSRs -/

/-- fmt n as FMTR reads it: scale indices relative to the window, bits [15] and [63:40] zero (R231). -/
def Thread.fmtRead (th : Thread) (start n : Nat) : Word :=
  let v := (SMap.getD th.fmt n 0).toNat
  BitVec.ofNat 64 (bits v 14 0 + (bits v 27 16 + 4096 - start % 4096) % 4096 * 2 ^ 16 + (bits v 39 28 + 4096 - start % 4096) % 4096 * 2 ^ 28)

/-- fmt n written as FMTW writes it (R178, R231). -/
def Thread.fmtWrite (th : Thread) (start n : Nat) (v : Word) : Thread :=
  let x := v.toNat
  let w := bits x 14 0 + (bits x 27 16 + start) % 4096 * 2 ^ 16 + (bits x 39 28 + start) % 4096 * 2 ^ 28
  { th with fmt := SMap.set th.fmt n (BitVec.ofNat 64 w) }

/-- The transaction status word (R271). -/
def Thread.runst (th : Thread) : Word :=
  BitVec.ofNat 64 (th.cause + th.confl * 2 ^ 12 + (if th.irrev then 2 ^ 18 else 0) + th.depth * 2 ^ 19 + th.code * 2 ^ 56)

/-- A generator of stochastic rounding (R192). -/
def Thread.gen (th : Thread) (j : Nat) : W32 := SMap.getD th.gens j 0

/-- A user CSR of a thread (R290). TRES reads zero. -/
def Thread.userCsr (th : Thread) (n : Nat) : Word :=
  if n = 1 then th.fflags.setWidth 64
  else if n = 2 then th.xclip.setWidth 64
  else if n = 4 then th.runst
  else if 16 ≤ n ∧ n ≤ 31 then
    BitVec.ofNat 64 ((th.gen (2 * (n - 16))).toNat + (th.gen (2 * (n - 16) + 1)).toNat * 2 ^ 32)
  else 0

/-- Writes a user CSR that holds state of the thread; the other user CSRs are unchanged (R290, R291). -/
def Thread.setUserCsr (th : Thread) (n : Nat) (v : Word) : Thread :=
  if n = 1 then { th with fflags := v.setWidth 5 }
  else if n = 2 then { th with xclip := v.setWidth 9 }
  else if 16 ≤ n ∧ n ≤ 31 then
    let lo : W32 := v.setWidth 32
    let hi : W32 := (v >>> 32).setWidth 32
    { th with gens := SMap.set (SMap.set th.gens (2 * (n - 16)) lo) (2 * (n - 16) + 1) hi }
  else th

/-- Whether a number is a user CSR (R290). -/
def isUserCsr (n : Nat) : Bool := decide (1 ≤ n ∧ n ≤ 4 ∨ 16 ≤ n ∧ n ≤ 31)

/-! ### A thread's state through TXDATA and DDATA (R292, R349) -/

/-- Whether the selection is one that R292 allows for a thread; class 6 is DDATA's alone (R349). -/
def State.txAllowed (s : State) (t cls idx : Nat) (pc : Bool) : Bool :=
  let th := s.thr t
  match cls with
  | 0 => decide (idx < 64)
  | 1 => decide (idx < 8)
  | 2 => decide (idx < 4)
  | 3 => decide (idx < 32 * winSize t th)
  | 4 => decide (idx < 256 * th.tiles.length)
  | 5 => isUserCsr idx
  | 6 => pc && decide (idx = 0)
  | _ => false

/-- The physical tile that a selection of class 4 reaches, none for another class. -/
def Thread.txTile (th : Thread) (cls idx : Nat) : Option Nat := if cls = 4 then some (th.tile (idx / 256)) else none

/-- The selected value (R292, R349). -/
def State.txGet (s : State) (t cls idx : Nat) : Word :=
  let th := s.thr t
  match cls with
  | 0 => th.s idx
  | 1 => (th.p idx).setWidth 64
  | 2 => th.fmtRead (winStart t th) idx
  | 3 => (lane (s.vecAt t (idx / 32)) (idx % 32)).setWidth 64
  | 4 => (elemOf (s.tileAt (threadCore t) (th.tile (idx / 256))) (idx % 256)).setWidth 64
  | 5 => th.userCsr idx
  | _ => th.shownPc

/-- Replaces one element of a tile. -/
def setElem (v : Tile) (x : Nat) (w : W32) : Tile := ofElems fun i => if i = x then w else elemOf v i

/-- Writes the selected value (R292, R349). -/
def State.txSet (s : State) (t cls idx : Nat) (v : Word) : State :=
  let th := s.thr t
  match cls with
  | 0 => s.setThr t (th.setS idx v)
  | 1 => s.setThr t (th.setP idx (v.setWidth 32))
  | 2 => s.setThr t (th.fmtWrite (winStart t th) idx v)
  | 3 => s.setVecAt t (idx / 32) (1#32 <<< (idx % 32)) (ofLanes fun _ => v.setWidth 32)
  | 4 =>
    let g := threadCore t
    let k := th.tile (idx / 256)
    let bad := SMap.getD s.badAccs (g * 32 + k) 0 &&& ~~~(1#256 <<< (idx % 256))
    let s := s.setTileAt t k (setElem (s.tileAt g k) (idx % 256) (v.setWidth 32))
    if bad = 0 then s else { s with badAccs := SMap.set s.badAccs (g * 32 + k) bad }
  | 5 => s.setThr t (th.setUserCsr idx v)
  | 6 => s.setThr t (if th.parked then { th with nextPc := some v } else { th with pc := v, nextPc := none })
  | _ => s

/-! ### Debug blocks (R344 to R358) -/

/-- The thread, class and index that DSEL names on a core (R349). -/
def Debug.selection (b : Debug) (g : Nat) : Nat × Nat × Nat :=
  (slotThread g (bits b.dsel.toNat 27 24), bits b.dsel.toNat 23 20, bits b.dsel.toNat 19 0)

/-- Whether DDATA performs the access that DSEL names (R349). -/
def State.ddataOk (s : State) (g : Nat) : Bool :=
  let b := (s.core g).dbg
  let x := b.selection g
  b.stopped && (s.thr x.1).live && s.txAllowed x.1 x.2.1 x.2.2 true

/-- The locked tile that an access of DDATA waits for, if there is one (R349). -/
def State.ddataLock (s : State) (g : Nat) : Option Nat :=
  let b := (s.core g).dbg
  let x := b.selection g
  if s.ddataOk g then ((s.thr x.1).txTile x.2.1 x.2.2).filter fun k => (s.core g).locks.contains k else none

/-- DDATA refuses an access: DSTAT.ERR is set (R349). -/
def State.ddataRefuse (s : State) (g : Nat) : State :=
  let c := s.core g
  s.setCore g { c with dbg := { c.dbg with err := true } }

/-- The value that a read of DDATA returns, and the state after it. -/
def State.ddataRead (s : State) (g : Nat) : State × Word :=
  let x := (s.core g).dbg.selection g
  if s.ddataOk g then (s, s.txGet x.1 x.2.1 x.2.2) else (s.ddataRefuse g, 0)

/-- A write of DDATA. -/
def State.ddataWrite (s : State) (g : Nat) (v : Word) : State :=
  let x := (s.core g).dbg.selection g
  if s.ddataOk g then s.txSet x.1 x.2.1 x.2.2 v else s.ddataRefuse g

/-- RESUME: a stopped core issues again (R345). -/
def State.resumeCore (s : State) (g : Nat) : State :=
  let c := s.core g
  let b := c.dbg
  if b.stopped then s.setCore g { c with dbg := { b with stopped := false, step := none } } else s

/-- STEP: the core is resumed for one instruction of a slot (R345). -/
def State.stepCore (s : State) (g slot : Nat) : State :=
  if (s.core g).dbg.stopped then
    let s := s.resumeCore g
    let c := s.core g
    s.setCore g { c with dbg := { c.dbg with step := some slot } }
  else s

/-- A write of DCTL: HALT before STEP before RESUME (R345). -/
def State.writeDctl (s : State) (g v : Nat) : State :=
  let c := s.core g
  let s := s.setCore g { c with dbg := { c.dbg with en := bit v 0, sslot := bits v 7 4 } }
  if bit v 1 then s.requestStop g 1 0 0
  else if bit v 3 then s.stepCore g (bits v 7 4)
  else if bit v 2 then s.resumeCore g
  else s

/-- A debug register of a core, by its offset in the block; DDATA apart (R344). -/
def Debug.read (b : Debug) (terms : SMap Word) (off : Nat) : Word :=
  if off = 0 then BitVec.ofNat 64 ((if b.en then 1 else 0) + b.sslot * 16)
  else if off = 0x8 then BitVec.ofNat 64 b.dstat
  else if off = 0x10 then b.dsel
  else if 0x40 ≤ off ∧ off < 0x80 then
    (if off % 16 = 0 then SMap.getD b.ibpa ((off - 0x40) / 16) 0 else SMap.getD b.ibpc ((off - 0x40) / 16) 0)
  else if 0x80 ≤ off ∧ off < 0xA0 then
    (if off % 16 = 0 then SMap.getD b.swpo ((off - 0x80) / 16) 0 else SMap.getD b.swpc ((off - 0x80) / 16) 0)
  else if off = 0x100 then b.tctl
  else if off = 0x108 then b.tbase
  else if off = 0x110 then BitVec.ofNat 64 b.twr
  else if off = 0x118 then
    BitVec.ofNat 64 (b.lost + (if b.full then 2 ^ 62 else 0) + (if b.formed = [] then 0 else 2 ^ 63))
  else if off = 0x120 then b.tsamp
  else if 0x200 ≤ off ∧ off < 0x290 then SMap.getD terms ((off - 0x200) / 8) 0
  else if 0x400 ≤ off ∧ off < 0x800 then
    (if off % 16 = 0 then SMap.getD b.dsum ((off - 0x400) / 16) 0 else SMap.getD b.dcnt ((off - 0x400) / 16) 0)
  else 0

/-- A number's bits `hi .. lo`, in their places. -/
def field (v hi lo : Nat) : Nat := bits v hi lo * 2 ^ lo

/-- A buffer is named anew, by TBASE or by another SZ: OFF and what has been written of it return to zero (R354; log 78). -/
def Debug.emptied (b : Debug) : Debug := { b with twr := 0, filled := 0 }

/-- Writes a debug register of a core that has no effect but its own contents (R344 to R355). -/
def Debug.write (b : Debug) (off v : Nat) : Debug :=
  if off = 0x8 then { b with err := b.err && !bit v 62 }
  else if off = 0x10 then { b with dsel := BitVec.ofNat 64 (bits v 27 0) }
  else if 0x40 ≤ off ∧ off < 0x80 then
    (if off % 16 = 0 then { b with ibpa := SMap.set b.ibpa ((off - 0x40) / 16) (BitVec.ofNat 64 (field v 56 2)) }
     else { b with ibpc := SMap.set b.ibpc ((off - 0x40) / 16) (BitVec.ofNat 64 (field v 19 2 + bits v 0 0)) })
  else if 0x80 ≤ off ∧ off < 0xA0 then
    let n := (off - 0x80) / 16
    if off % 16 = 0 then { b with swpo := SMap.set b.swpo n (BitVec.ofNat 64 (field v 31 30 + bits v 28 0)) }
    else
      let hit := if bit v 7 then 0 else field (SMap.getD b.swpc n 0).toNat 7 7
      { b with swpc := SMap.set b.swpc n (BitVec.ofNat 64 (hit + field v 5 3 + bits v 0 0)) }
  else if off = 0x100 then
    let b' := { b with tctl := BitVec.ofNat 64 (field v 63 32 + field v 7 2 + bits v 0 0) }
    if bits v 7 4 = bits b.tctl.toNat 7 4 then b' else b'.emptied
  else if off = 0x108 then
    let b' := { b with tbase := BitVec.ofNat 64 (field v 51 12) }
    b'.emptied
  else if off = 0x118 then { b with lost := bits v 31 0, full := b.full && !bit v 62 }
  else if off = 0x120 then { b with tsamp := BitVec.ofNat 64 (bits v 31 0) }
  else if off = 0x3F8 then (if bit v 0 then { b with dsum := [], dcnt := [] } else b)
  else b

/-! ### The trace encoder (R354 to R357) -/

/-- The agent of a core's trace encoder. -/
def encoderAgent (g : Nat) : Agent := { thread := g * 16, unit := 6, cluster := coreCluster g }

/-- Records that an encoder writes for one formed record: after a loss a LOSS record comes first, while TON and its mask bit are set. It has
the SEQ of the last record lost (R355, R357; log 78). -/
def Debug.toWrite (b : Debug) (g : Nat) (r : BitVec 256) : List (BitVec 256) :=
  if b.gap ≠ 0 ∧ bit b.tctl.toNat 0 ∧ bit b.tctl.toNat (32 + traceLOSS) then
    [traceRecord traceLOSS (bits r.toNat 31 8 + 2 ^ 24 - 1) 0 (bits r.toNat 43 40) g (bits r.toNat 127 64) b.gap 0, r]
  else [r]

/-- The encoder writes its oldest formed record at OFF by a coherent write, or counts it as lost; none while it has none, or while an engine
or a run holds the line (R167, R261, R355, R356). -/
def State.encoderStep (s : State) (g : Nat) : Option State :=
  let c := s.core g
  let b := c.dbg
  match b.formed with
  | [] => none
  | r :: rest =>
    let rs := b.toWrite g r
    let lose (b : Debug) : Debug := { b with formed := rest, lost := (b.lost + 1) % 2 ^ 32, gap := b.gap + 1 }
    if !b.bufOk then some (s.setCore g { c with dbg := lose b })
    else if !bit b.tctl.toNat 2 && decide (b.bufSize < b.filled + 32 * rs.length) then
      some (s.setCore g { c with dbg := { lose b with full := true } })
    else
      let base := locOf (clusterModule (coreCluster g)) (bits b.tbase.toNat 51 12 * 4096)
      let cells := ((List.range rs.length).zip rs).flatMap fun x => cellsAt (base + (b.twr + 32 * x.1) % b.bufSize) (leBytes 32 x.2.toNat)
      let locs := cells.map (·.1)
      if locs.any fun l => s.xlines.contains (lineOf l) then none
      else match s.resolveConflicts (encoderAgent g) reqWrite ((locs.map tileOf).foldl insertNew []) with
        | (s', some _) => changed s s'
        | (s, none) =>
          let s := s.setBytes none 0 cells
          let k := s.core g
          some (s.setCore g { k with dbg := { k.dbg with
            formed := k.dbg.formed.drop 1, twr := (b.twr + 32 * rs.length) % b.bufSize, filled := b.filled + 32 * rs.length, gap := 0 } })

/-- The encoder writes formed records one after another, as long as none must wait. -/
def State.writeFormed (g : Nat) : Nat → State → State
  | 0, s => s
  | n + 1, s => match s.encoderStep g with
    | some s' => State.writeFormed g n s'
    | none => s

/-- FLUSH: every formed record is written; BUSY stays 1 while one waits for its line (R354, R356). -/
def State.flushTrace (s : State) (g : Nat) : State := State.writeFormed g (s.core g).dbg.formed.length s

/-- A write into a core's debug block (R344). -/
def State.debugWrite (s : State) (g off v : Nat) : State :=
  if off = 0 then s.writeDctl g v
  else if off = 0x18 then s.ddataWrite g (BitVec.ofNat 64 v)
  else
    let c := s.core g
    let s := s.setCore g { c with dbg := c.dbg.write off v }
    if off = 0x100 && bit v 1 then s.flushTrace g else s

/-- A register of a die's watch block (R344, R351). -/
def Die.watchRead (d : Die) (off : Nat) : Word :=
  if 512 ≤ off then 0
  else if off % 32 = 0 then SMap.getD d.dwa (off / 32) 0
  else if off % 32 = 8 then SMap.getD d.dwc (off / 32) 0
  else if off % 32 = 16 then SMap.getD d.dwh (off / 32) 0
  else 0

/-- Writes a register of a die's watch block (R351). -/
def Die.watchWrite (d : Die) (off v : Nat) : Die :=
  if 512 ≤ off then d
  else if off % 32 = 0 then { d with dwa := SMap.set d.dwa (off / 32) (BitVec.ofNat 64 (field v 51 7)) }
  else if off % 32 = 8 then
    let hit := if bit v 7 then 0 else field (SMap.getD d.dwc (off / 32) 0).toNat 7 7
    { d with dwc := SMap.set d.dwc (off / 32) (BitVec.ofNat 64 (field v 63 32 + hit + field v 6 5 + bits v 3 0)) }
  else d

/-! ### Collective configuration (R334, R335) -/

def colPmask (d : Nat) : Nat := bits d 71 0
def colObj (d : Nat) : Nat := bits d 123 112
def colKind (d : Nat) : Nat := bits d 125 124
def colOp (d : Nat) : Nat := bits d 128 126
def colNreg (d : Nat) : Nat := bits d 131 129 + 1
def colTag (d : Nat) : Nat := bits d 147 132
def colCtx (d : Nat) : Nat := bits d 163 148
def colMcount (d : Nat) : Nat := bits d 178 164
def colDst (d : Nat) : Nat := bits d 255 192

/-- The rules of R335. -/
def colOk (d : Nat) : Bool :=
  decide (bits d 511 256 = 0 ∧ bits d 191 179 = 0 ∧ bits d 111 72 = 0)
  && match colKind d with
    | 0 => decide (colDst d = 0 ∧ colMcount d = 0 ∧ colCtx d = 0 ∧ colTag d = 0 ∧ colNreg d = 1 ∧ colOp d = 0 ∧ colPmask d = 0)
    | 1 => decide (colMcount d = 0 ∧ colOp d ≤ 5 ∧ colTag d % 16 = colObj d % 16 ∧ (colOp d ≠ 5 ∨ 2 ≤ colNreg d) ∧ colPmask d ≠ 0)
    | 2 => decide (colDst d = 0 ∧ colTag d = 0 ∧ colNreg d = 1 ∧ colOp d = 0 ∧ colObj d < 1024 ∧ 1 ≤ colMcount d
        ∧ colMcount d ≤ 16384 ∧ colPmask d ≠ 0)
    | _ => false

/-- The switch of object n for a module: switch n mod 16 of its pod (R335). -/
def objectSwitch (m n : Nat) : Nat := m / 72 * 16 + n % 16

/-- The configuration that was being installed ends with a code (R334). -/
def State.endFcol (s : State) (m code : Nat) : State :=
  s.setModule m { s.module m with fcol := none, fcolCode := code }

/-- A write of FCOLCFG: ignored with LOST while BUSY; else the hub reads and checks the descriptor, and sends it (R334). -/
def State.writeFcolcfg (s : State) (m v : Nat) : State :=
  let x := s.module m
  if x.fcol.isSome then s.setModule m { x with fcolLost := true }
  else
    let pa := field v 51 6
    if bits v 63 52 ≠ 0 ∨ bits v 5 0 ≠ 0 ∨ inHbm pa = false then s.endFcol m 1
    else
      let d := s.num (locOf m pa) 64
      if colOk d = false then s.endFcol m 2
      else if x.failed.contains (objectSwitch m (colObj d)) then s.endFcol m 4
      else
        let s := s.setModule m { x with fcol := some (BitVec.ofNat 64 v) }
        let p : Packet := { kind := 10, from_ := m, dest := 1024 + objectSwitch m (colObj d), addr := colObj d, payload := leBytes 64 d }
        s.addPacket p

/-! ### The control range (R359, R360) -/

/-- Who makes an access to the control range. -/
inductive CtlAgent where
  | host
  | supervisor
  | management
  deriving DecidableEq, Repr

/-- The unsigned value of a flag. -/
def flagBit (b : Bool) (n : Nat) : Nat := if b then 2 ^ n else 0

/-- PLSTAT (R360). -/
def Module.plstat (x : Module) : Word := BitVec.ofNat 64 (x.stage + x.err * 2 ^ 8 + flagBit x.ready 63)

/-- A platform register (R360). -/
def Module.platformRead (x : Module) (off : Nat) : Word :=
  if off = 0 then x.plstat
  else if off = 0x8 then BitVec.ofNat 64 x.plim
  else if off = 0x10 then BitVec.ofNat 64 x.pwr
  else if off = 0x18 then x.vfcap
  else if off = 0x20 then x.fqmax
  else if 0x100 ≤ off ∧ off < 0x620 ∧ off % 8 = 0 then (SMap.getD x.temp ((off - 0x100) / 8) (Config.temperature ((off - 0x100) / 8))).setWidth 64
  else if 0x800 ≤ off ∧ off < 0x840 ∧ off % 8 = 0 then SMap.getD x.margin ((off - 0x800) / 8) 0
  else if 0xA00 ≤ off ∧ off < 0xA40 ∧ off % 8 = 0 then SMap.getD x.secnt ((off - 0xA00) / 8) 0
  else 0

/-- Writes a platform register; some are written by the management cluster alone (R360, R368). -/
def Module.platformWrite (x : Module) (who : CtlAgent) (off v : Nat) : Module :=
  if off = 0x8 then { x with plim := max 3000 (min 6400 (v % 65536)) }
  else if who ≠ .management then x
  else if off = 0x18 then { x with vfcap := BitVec.ofNat 64 (bits v 31 0) }
  else if off = 0x20 then { x with fqmax := BitVec.ofNat 64 (bits v 31 0) }
  else if 0xA00 ≤ off ∧ off < 0xA40 ∧ off % 8 = 0 then { x with secnt := SMap.set x.secnt ((off - 0xA00) / 8) (BitVec.ofNat 64 v) }
  else x

/-- RGNSTAT (R27). -/
def Module.rgnstat (x : Module) : Word :=
  BitVec.ofNat 64 (x.rgnCode + x.rgnNum * 16 + flagBit x.rgnLost 62 + flagBit x.launch.isSome 63)

/-- FCOLSTAT (R334). -/
def Module.fcolstat (x : Module) : Word :=
  BitVec.ofNat 64 (x.fcolCode + flagBit x.fcolLost 62 + flagBit x.fcol.isSome 63)

/-- A hub register (R27, R128, R135, R334). -/
def Module.hubRead (x : Module) (off : Nat) : Word :=
  if off = 0x108 then x.rgnstat
  else if off = 0x200 then x.ctxtab
  else if off = 0x208 then x.peertab
  else if off = 0x308 then x.fcolstat
  else 0

/-- A write of RGNSTART: it sets BUSY and starts a launch, or sets LOST while BUSY is 1 (R27, R28). -/
def State.writeRgnstart (s : State) (m : Nat) (v : Word) : State :=
  let x := s.module m
  s.setModule m (if x.launch.isSome then { x with rgnLost := true } else { x with launch := some v })

/-- Writes a hub register; the host does not write CTXTAB (R27, R128, R135, R334). -/
def State.hubWrite (s : State) (m : Nat) (who : CtlAgent) (off v : Nat) : State :=
  let x := s.module m
  if off = 0x100 then s.writeRgnstart m (BitVec.ofNat 64 v)
  else if off = 0x108 then s.setModule m { x with rgnLost := x.rgnLost && !bit v 62 }
  else if off = 0x200 then (if who = .host then s else s.setModule m { x with ctxtab := BitVec.ofNat 64 (field v 51 20) })
  else if off = 0x208 then s.setModule m { x with peertab := BitVec.ofNat 64 (field v 51 20) }
  else if off = 0x300 then s.writeFcolcfg m v
  else if off = 0x308 then s.setModule m { x with fcolLost := x.fcolLost && !bit v 62 }
  else s

/-- What an offset of the control range names (R344, R359). -/
inductive CtlPlace where
  | hub (off : Nat)
  | coreBlock (core off : Nat)
  | dieBlock (die off : Nat)
  | platform (off : Nat)
  | empty
  deriving DecidableEq, Repr

def ctlPlace (m pa : Nat) : CtlPlace :=
  let x := pa - ctlBase
  if x < 0x10000000 then .hub x
  else if x < 0x10400000 then .coreBlock (m * 1024 + (x - 0x10000000) / 4096) (x % 4096)
  else if x < 0x10408000 then .dieBlock (m * 8 + (x - 0x10400000) / 4096) (x % 4096)
  else if 0x20000000 ≤ x ∧ x < 0x20001000 then .platform (x - 0x20000000)
  else .empty

/-- An aligned 8-byte read of the control range. Before READY every offset but PLSTAT reads zero (R359). -/
def State.ctlRead (s : State) (m pa : Nat) : State × Word :=
  let x := s.module m
  match ctlPlace m pa with
  | .platform off => (s, if x.ready || decide (off = 0) then x.platformRead off else 0)
  | .hub off => (s, if x.ready then x.hubRead off else 0)
  | .coreBlock g off =>
    if !x.ready then (s, 0)
    else if off = 0x18 then s.ddataRead g
    else
      let c := s.core g
      let now := s.dieCycle (clusterDie (coreCluster g))
      (s, c.dbg.read (c.terms.map fun e => (e.1, e.2 - c.termsNow now e.1)) off)
  | .dieBlock d off => (s, if x.ready then (s.die d).watchRead off else 0)
  | .empty => (s, 0)

/-- An aligned 8-byte write of the control range. Before READY it is ignored (R359). -/
def State.ctlWrite (s : State) (m pa : Nat) (who : CtlAgent) (v : Word) : State :=
  let x := s.module m
  if !x.ready then s
  else match ctlPlace m pa with
    | .platform off => s.setModule m (x.platformWrite who off v.toNat)
    | .hub off => s.hubWrite m who off v.toNat
    | .coreBlock g off => s.debugWrite g off v.toNat
    | .dieBlock d off => s.setDie d ((s.die d).watchWrite off v.toNat)
    | .empty => s

/-- The tile that an access to the control range waits for: DDATA on a locked tile (R349). -/
def State.ctlLock (s : State) (m pa : Nat) : Option (Nat × Nat) :=
  match ctlPlace m pa with
  | .coreBlock g off => if off = 0x18 && (s.module m).ready then (s.ddataLock g).map fun k => (g, k) else none
  | _ => none

end Sys2Proof.Machine
end

