-- ==== Sys2Proof/Machine/Scalar.lean ====
section
/-! DEFINITION. The meanings of the scalar integer and scalar FP32 instructions, opcodes 0x01 to 0x0F (07_scalar_control R93 to R101). -/

namespace Sys2Proof.Machine

/-- A fixed-latency scalar result: s[d] is written and the instruction is complete. -/
def writeScalar (d : BitVec 6) (v : Word) (s : State) : Out := .next ((s.setSr d v).retire)

/-- A scalar result of one bit. -/
def ofBool (b : Bool) : Word := if b then 1 else 0

/-! ### Opcode 0x01 (R94) -/

def execAdd (d a b : BitVec 6) (s : State) : Out := writeScalar d (s.sr a + s.sr b) s
def execSub (d a b : BitVec 6) (s : State) : Out := writeScalar d (s.sr a - s.sr b) s
def execAnd (d a b : BitVec 6) (s : State) : Out := writeScalar d (s.sr a &&& s.sr b) s
def execOr (d a b : BitVec 6) (s : State) : Out := writeScalar d (s.sr a ||| s.sr b) s
def execXor (d a b : BitVec 6) (s : State) : Out := writeScalar d (s.sr a ^^^ s.sr b) s

/-- The shift count of a scalar: bits [5:0] (R94). -/
def shiftCount (y : Word) : Nat := y.toNat % 64

def execSll (d a b : BitVec 6) (s : State) : Out := writeScalar d (s.sr a <<< shiftCount (s.sr b)) s
def execSrl (d a b : BitVec 6) (s : State) : Out := writeScalar d (s.sr a >>> shiftCount (s.sr b)) s
def execSra (d a b : BitVec 6) (s : State) : Out := writeScalar d ((s.sr a).sshiftRight (shiftCount (s.sr b))) s
def execSlt (d a b : BitVec 6) (s : State) : Out := writeScalar d (ofBool ((s.sr a).slt (s.sr b))) s
def execSltu (d a b : BitVec 6) (s : State) : Out := writeScalar d (ofBool ((s.sr a).ult (s.sr b))) s
def execSeq (d a b : BitVec 6) (s : State) : Out := writeScalar d (ofBool (decide (s.sr a = s.sr b))) s
def execMin (d a b : BitVec 6) (s : State) : Out :=
  writeScalar d (if (s.sr b).slt (s.sr a) then s.sr b else s.sr a) s
def execMax (d a b : BitVec 6) (s : State) : Out :=
  writeScalar d (if (s.sr a).slt (s.sr b) then s.sr b else s.sr a) s
def execMinu (d a b : BitVec 6) (s : State) : Out :=
  writeScalar d (if (s.sr b).ult (s.sr a) then s.sr b else s.sr a) s
def execMaxu (d a b : BitVec 6) (s : State) : Out :=
  writeScalar d (if (s.sr a).ult (s.sr b) then s.sr b else s.sr a) s

/-! ### Opcode 0x02 (R95) -/

def execMul (d a b : BitVec 6) (s : State) : Out := writeScalar d (s.sr a * s.sr b) s
def execMulh (d a b : BitVec 6) (s : State) : Out :=
  writeScalar d (BitVec.ofInt 64 ((s.sr a).toInt * (s.sr b).toInt / 2 ^ 64)) s
def execMulhu (d a b : BitVec 6) (s : State) : Out :=
  writeScalar d (BitVec.ofNat 64 ((s.sr a).toNat * (s.sr b).toNat / 2 ^ 64)) s

/-- DIV: truncating, 2^64 - 1 for a zero divisor; the overflow case wraps to 2^63 (R95). -/
def divSigned (x y : Word) : Word := if y = 0 then BitVec.allOnes 64 else BitVec.ofInt 64 (Int.tdiv x.toInt y.toInt)
def divUnsigned (x y : Word) : Word := if y = 0 then BitVec.allOnes 64 else BitVec.ofNat 64 (x.toNat / y.toNat)
def remSigned (x y : Word) : Word := if y = 0 then x else BitVec.ofInt 64 (Int.tmod x.toInt y.toInt)
def remUnsigned (x y : Word) : Word := if y = 0 then x else BitVec.ofNat 64 (x.toNat % y.toNat)

/-- Cycles of an integer divide by the magnitude of its quotient: 8 + ceil(q / 4), q = 64 - CLZ (R93). -/
def divideLatency (zero : Bool) (quotient : Nat) : Nat := if zero then 8 else 8 + (bitLen quotient + 3) / 4

/-- Parks on the integer divider (R93). -/
def startDivide (d : BitVec 6) (v : Word) (lat : Nat) (s : State) : Out :=
  .next (s.park (.result .int (s.cycleOf s.cur + lat) (.scalar d v)))

/-- Latency of a signed divide. -/
def signedLatency (x y : Word) : Nat := divideLatency (decide (y = 0)) (Int.tdiv x.toInt y.toInt).natAbs
/-- Latency of an unsigned divide. -/
def unsignedLatency (x y : Word) : Nat := divideLatency (decide (y = 0)) (x.toNat / y.toNat)

def execDiv (d a b : BitVec 6) (s : State) : Out :=
  startDivide d (divSigned (s.sr a) (s.sr b)) (signedLatency (s.sr a) (s.sr b)) s
def execDivu (d a b : BitVec 6) (s : State) : Out :=
  startDivide d (divUnsigned (s.sr a) (s.sr b)) (unsignedLatency (s.sr a) (s.sr b)) s
def execRem (d a b : BitVec 6) (s : State) : Out :=
  startDivide d (remSigned (s.sr a) (s.sr b)) (signedLatency (s.sr a) (s.sr b)) s
def execRemu (d a b : BitVec 6) (s : State) : Out :=
  startDivide d (remUnsigned (s.sr a) (s.sr b)) (unsignedLatency (s.sr a) (s.sr b)) s

/-! ### Opcode 0x03 (R96) -/

/-- Zero bits below the lowest one bit, looking at n bits from i on. -/
def trailingZeros (x : Nat) : Nat → Nat → Nat
  | 0, i => i
  | n + 1, i => if bit x i then i else trailingZeros x n (i + 1)

/-- Number of one bits among the low n. -/
def popCount (x : Nat) : Nat → Nat
  | 0 => 0
  | n + 1 => popCount x n + (if bit x n then 1 else 0)

def execClz (d a : BitVec 6) (s : State) : Out := writeScalar d (BitVec.ofNat 64 (64 - bitLen (s.sr a).toNat)) s
def execCtz (d a : BitVec 6) (s : State) : Out := writeScalar d (BitVec.ofNat 64 (trailingZeros (s.sr a).toNat 64 0)) s
def execPopc (d a : BitVec 6) (s : State) : Out := writeScalar d (BitVec.ofNat 64 (popCount (s.sr a).toNat 64)) s
def execSextb (d a : BitVec 6) (s : State) : Out := writeScalar d (((s.sr a).setWidth 8).signExtend 64) s
def execSexth (d a : BitVec 6) (s : State) : Out := writeScalar d (((s.sr a).setWidth 16).signExtend 64) s
def execSextw (d a : BitVec 6) (s : State) : Out := writeScalar d (((s.sr a).setWidth 32).signExtend 64) s
def execZextw (d a : BitVec 6) (s : State) : Out := writeScalar d (((s.sr a).setWidth 32).setWidth 64) s

/-! ### Immediate forms (R97, R98) -/

def execAddi (d a : BitVec 6) (i : BitVec 13) (s : State) : Out := writeScalar d (s.sr a + sext i) s
def execAndi (d a : BitVec 6) (i : BitVec 13) (s : State) : Out := writeScalar d (s.sr a &&& sext i) s
def execOri (d a : BitVec 6) (i : BitVec 13) (s : State) : Out := writeScalar d (s.sr a ||| sext i) s
def execXori (d a : BitVec 6) (i : BitVec 13) (s : State) : Out := writeScalar d (s.sr a ^^^ sext i) s
def execSlli (d a : BitVec 6) (i : BitVec 6) (s : State) : Out := writeScalar d (s.sr a <<< i.toNat) s
def execSrli (d a : BitVec 6) (i : BitVec 6) (s : State) : Out := writeScalar d (s.sr a >>> i.toNat) s
def execSrai (d a : BitVec 6) (i : BitVec 6) (s : State) : Out := writeScalar d ((s.sr a).sshiftRight i.toNat) s
def execSlti (d a : BitVec 6) (i : BitVec 13) (s : State) : Out := writeScalar d (ofBool ((s.sr a).slt (sext i))) s
def execCsel (d a b c : BitVec 6) (s : State) : Out := writeScalar d (if s.sr c ≠ 0 then s.sr a else s.sr b) s
def execCselz (d a b c : BitVec 6) (s : State) : Out := writeScalar d (if s.sr c = 0 then s.sr a else s.sr b) s
def execLui (d : BitVec 6) (i : BitVec 19) (s : State) : Out := writeScalar d (sext i <<< 13) s

/-! ### Scalar FP32 (R99 to R101) -/

/-- The FP32 value that a source reads: bits [31:0] (R99). -/
def State.fp (s : State) (a : BitVec 6) : W32 := (s.sr a).setWidth 32

/-- A fixed-latency FP32 result with its flags (R99). -/
def writeFp (d : BitVec 6) (r : W32 × BitVec 5) (s : State) : Out :=
  .next (((s.setSr d (r.1.setWidth 64)).orFlags r.2).retire)

/-- Parks for 20 cycles on a divide or square root; result and flags are written when the thread wakes (R93). -/
def startFpDivide (d : BitVec 6) (r : W32 × BitVec 5) (s : State) : Out :=
  .next (s.park (.result .fp (s.cycleOf s.cur + 20) (.flagged d (r.1.setWidth 64) r.2)))

def execFadd (d a b : BitVec 6) (s : State) : Out := writeFp d (fadd32 (s.fp a) (s.fp b)) s
def execFsub (d a b : BitVec 6) (s : State) : Out := writeFp d (fsub32 (s.fp a) (s.fp b)) s
def execFmul (d a b : BitVec 6) (s : State) : Out := writeFp d (fmul32 (s.fp a) (s.fp b)) s
def execFdiv (d a b : BitVec 6) (s : State) : Out := startFpDivide d (fdiv32 (s.fp a) (s.fp b)) s
def execFsqrt (d a : BitVec 6) (s : State) : Out := startFpDivide d (fsqrt32 (s.fp a)) s
def execFmadd (d a b c : BitVec 6) (s : State) : Out := writeFp d (fmadd32 (s.fp a) (s.fp b) (s.fp c)) s

/-- A comparison's bit with its flags (R101). -/
def writeCompare (d : BitVec 6) (r : Bool × BitVec 5) (s : State) : Out :=
  .next (((s.setSr d (ofBool r.1)).orFlags r.2).retire)

def execFeq (d a b : BitVec 6) (s : State) : Out := writeCompare d (feq32 (s.fp a) (s.fp b)) s
def execFlt (d a b : BitVec 6) (s : State) : Out := writeCompare d (flt32 (s.fp a) (s.fp b)) s
def execFtoi (d a : BitVec 6) (s : State) : Out :=
  .next (((s.setSr d (ftoi32 (s.fp a)).1).orFlags (ftoi32 (s.fp a)).2).retire)
def execItof (d a : BitVec 6) (s : State) : Out := writeFp d (itof32 (s.sr a)) s

end Sys2Proof.Machine
end

