-- ==== Sys2Proof/Machine/Tasking.lean ====
section
/-! DEFINITION. The meanings of the task, signal, deque, mailbox and barrier instructions, opcodes 0x15, 0x18, 0x19, 0x1C, 0x68, 0x69
and 0x6D (07_scalar_control R105 to R120; 02_execution_model R35, R49, R50). -/

namespace Sys2Proof.Machine

/-! ### Task end and yield (R105, R106) -/

/-- The record of a finished ordered run: its lines as W lines, and the versioned-slice entries that it takes (R272). -/
def Run.finish (r : Run) : Run :=
  { r with
    wlines := r.buf.foldl (fun ls c => insertNew ls (c.1 / 128)) r.wlines
    record := 1 + (r.reads.length + r.comms.length + 15) / 16 + (r.log.length + 7) / 8 + (r.held.length + 1) / 2
    undoRegs := [], undoTiles := [], ckpt := {} }

/-- TEND of thread t: an unordered task is committed and its descriptor slot is free; an ordered one is finished-speculative with
its run's record. The thread leaves its slot (R36, R105, R272). -/
def State.endTask (s : State) (t : Nat) : State :=
  let th := s.thr t
  let cl := th.slice
  let s := s.orphanAll (s.streamOwner t)
  if th.ordered then
    let x := s.task cl th.dslot
    (s.setTask cl th.dslot { x with state := .finishedSpeculative, run := th.run.finish, thread := t }).leaveSlot t
  else (s.leaveSlot t).freeTask cl th.dslot

def execTend (s : State) : Out :=
  onCore .tend s (if 0 < s.me.depth then .next (s.illegal .tend) else .next (s.endTask s.cur))

/-- The descriptor that a YIELD leaves: ENTRY, ARG1 to ARG4 and CNTV replaced (R106). -/
def yieldDescriptor (d : BitVec 512) (pc : Word) (args : List Nat) : BitVec 512 :=
  let v := putBits d.toNat 63 0 pc.toNat
  let v := putBits v 191 128 (args.getD 0 0)
  let v := putBits v 255 192 (args.getD 1 0)
  let v := putBits v 319 256 (args.getD 2 0)
  let v := putBits v 383 320 (args.getD 3 0)
  BitVec.ofNat 512 (putBits v 394 394 0)

/-- YIELD: the task is ready again as a fresh run of its descriptor slot (R106). In an ordered task or a transaction it raises
ILLEGAL after a FAULT abort. -/
def execYield (s : State) : Out :=
  onCore .yield s (
    if s.me.run.active || s.me.ordered then .next (s.illegal .yield)
    else
      let th := s.me
      let cl := th.slice
      let x := s.task cl th.dslot
      let d := yieldDescriptor x.desc (th.pc + 4) (s.group 1 4)
      let s := ((s.orphanAll (s.streamOwner s.cur)).setTask cl th.dslot { x with desc := d, thread := 0 }).leaveSlot s.cur
      .next (s.readyTask cl th.dslot))

/-! ### Spawning and signalling (R107 to R111) -/

/-- Adds a request to the held-copy queue of the thread's run (R111). -/
def State.hold (s : State) (r : HeldReq) : State :=
  s.setMe { s.me with run := { s.me.run with held := s.me.run.held ++ [r] } }

/-- What a spawn writes to s[d] (R108). -/
def Entered.code : Entered → Word
  | .at cl slot => BitVec.ofNat 64 (cl * 1024 + slot)
  | .refused => BitVec.allOnes 64
  | .full => BitVec.allOnes 64 - 1

/-- The 64 bytes of lanes 0 to 15 of a register (R108). -/
def descriptorOf (v : Vec) : BitVec 512 := v.setWidth 512

/-- A spawn by thread t reaches the slice of a cluster (R34, R108). An ordered spawner inside its run is the child's parent. -/
def State.spawn (s : State) (t cl : Nat) (d : BitVec 512) : State × Entered :=
  let th := s.thr t
  let parent := if th.run.active && th.run.ordered && dOrd d then some (th.slice, th.dslot) else none
  s.enterDescriptor cl (dieClusters cl) d (s.mayReach t) parent (threadSlot t)

def execTspawn (d a b : BitVec 6) (s : State) : Out :=
  let r := (s.sr a).toNat
  let sel := (s.sr b).toNat
  if s.w ≤ r then .next (s.trapWith (badIndex r))
  else
    readable s [(r, 0xFFFF)] (
      let desc := descriptorOf (s.vec r)
      match (if sel / 2 ^ 17 = 0 then selectCluster s.cur sel else none) with
      | none => .next (s.trap causeREMOTE (BitVec.ofNat 64 (sel % 2 ^ 17)))
      | some cl =>
        if dEntry desc / 2 ^ 57 ≠ 0 ∨ 32 < dAccn desc then .next (s.illegal (.tspawn d a b))
        else if s.me.run.active && !(s.me.run.ordered && dOrd desc) then
          .next (((s.hold { instr := .tspawn d a b, args := [desc.toNat, cl] }).setSr d (BitVec.allOnes 64 - 2)).retire)
        else
          .next (s.afterRelease true true fun s =>
            let e := s.spawn s.cur cl desc
            e.1.park (.response 63 (.scalar d e.2.code))))

/-- A signal by a thread reaches a counter: false where the counter is bound to a task of a region out of reach (R109). -/
def State.signalOk (s : State) (t cl c : Nat) : Bool :=
  match (s.counter cl c).bound with
  | none => true
  | some slot => s.mayReach t (dRegion (s.task cl slot).desc)

/-- Applies a delta; a delta of zero changes nothing (R109). -/
def State.signal (s : State) (cl c : Nat) (delta : Int) (by_ : Nat) : State := if delta = 0 then s else s.changeCounter cl c delta by_

def execTsignal (a b : BitVec 6) (i : BitVec 13) (s : State) : Out :=
  let x := (s.sr a).toNat
  let sel := bits x 28 12
  let c := bits x 11 0
  let delta := (s.sr b + sext i).toInt
  let denied := s.trap causeREMOTE (BitVec.ofNat 64 sel)
  match (if x / 2 ^ 29 = 0 then selectCluster s.cur sel else none) with
  | none => .next denied
  | some cl =>
    if s.me.run.active then
      .next ((s.hold { instr := .tsignal a b i, args := [cl, c, (s.sr b + sext i).toNat, sel] }).retire)
    else if !s.signalOk s.cur cl c then .next denied
    else .next (s.afterRelease true true fun s => (s.signal cl c delta (threadSlot s.cur)).park (.response 63 .none))

/-! ### The range deque (R49, R50, R112) -/

/-- The deque of the core of the thread that issues, head first. -/
def State.deque (s : State) : List DqEntry := (s.core (threadCore s.cur)).deque

def State.setDeque (s : State) (g : Nat) (q : List DqEntry) : State := s.setCore g { s.core g with deque := q }

/-- Writes lo, hi and tag to s[d], s[d+1], s[d+2] (R112). -/
def State.setRange (s : State) (d : BitVec 6) (e : DqEntry) : State :=
  s.writeback s.cur (.triple d e.lo e.hi (e.tag.setWidth 64))

def execDqpush (a : BitVec 6) (s : State) : Out :=
  onCore (.dqpush a) s (
    let lo := s.sr a
    let hi := s.srN (a.toNat + 1)
    if hi.toNat ≤ lo.toNat then .next s.retire
    else if 64 ≤ s.deque.length then .next (s.trap causeQUOTA 0)
    else
      let e : DqEntry := { lo := lo, hi := hi, tag := (s.srN (a.toNat + 2)).setWidth 16 }
      .next ((s.setDeque (threadCore s.cur) (s.deque ++ [e])).retire))

def execDqpop (d : BitVec 6) (s : State) : Out :=
  onCore (.dqpop d) s (
    match s.deque.getLast? with
    | none => .next ((s.setRange d {}).retire)
    | some e => .next (((s.setDeque (threadCore s.cur) s.deque.dropLast).setRange d e).retire))

def execDqsplit (d a : BitVec 6) (s : State) : Out :=
  onCore (.dqsplit d a) s (
    match s.deque.getLast? with
    | none => .next ((s.setRange d {}).retire)
    | some e =>
      let n := e.hi.toNat - e.lo.toNat
      let k := min (s.sr a).toNat n
      if k = 0 then .next ((s.setRange d {}).retire)
      else
        let mid := e.lo + BitVec.ofNat 64 k
        let rest := if k = n then s.deque.dropLast else s.deque.dropLast ++ [{ e with lo := mid }]
        .next (((s.setDeque (threadCore s.cur) rest).setRange d { e with hi := mid }).retire))

/-- An entry of two elements or more (R50). -/
def DqEntry.splits (e : DqEntry) : Bool := decide (2 ≤ e.hi.toNat - e.lo.toNat)

/-- Whether a core can be stolen from by a thread of a region (R50). -/
def Core.victim (c : Core) (region : Nat) : Bool :=
  decide (c.resident = some region) && !c.dbg.stopped && c.deque.any DqEntry.splits

/-- The victim of a reach: the first in cyclic order from a random start (R50). -/
def pickVictim (start : Nat) (cs : List Nat) : Option Nat :=
  match cs with
  | [] => none
  | c :: rest => some (rest.foldl (fun b x => if (x + 1024 - start) % 1024 < (b + 1024 - start) % 1024 then x else b) c)

/-- The victim core of a steal by thread t: the cluster, then the die, then the package (R50). -/
def State.victim (s : State) (t : Nat) : Option Nat :=
  let g := t / 16
  let all := s.cores.filterMap fun e =>
    if e.1 < 2 ^ 20 ∧ e.1 ≠ g ∧ e.1 / 1024 = g / 1024 ∧ e.2.victim (s.thr t).region = true then some e.1 else none
  let near := all.filter fun c => c / 8 = g / 8
  let mid := all.filter fun c => c / 128 = g / 128
  let start := Config.stealStart s.fresh 1024 % 1024
  if near ≠ [] then pickVictim start near else if mid ≠ [] then pickVictim start mid else pickVictim start all

/-- Splits the entry nearest the head that can be split: the rest of the deque and the stolen half (R50). -/
def stealFrom : List DqEntry → List DqEntry × DqEntry
  | [] => ([], {})
  | e :: q =>
    if e.splits then
      let mid := e.lo + BitVec.ofNat 64 ((e.hi.toNat - e.lo.toNat) / 2)
      ({ e with hi := mid } :: q, { e with lo := mid })
    else let r := stealFrom q; (e :: r.1, r.2)

/-- DQSTEAL travels: it reaches the deques after the local operations of its cycle (R49, R50, R112). -/
def execDqsteal (d : BitVec 6) (s : State) : Out :=
  onCore (.dqsteal d) s (.next (s.park (.steal d (s.cycleOf s.cur))))

/-- A steal by thread t reaches the deques: the victim keeps the lower half of its entry, and the thief's s[d], s[d+1] and s[d+2] hold the
other half, or zeros where no core of a reach has an entry to split (R50, R112). -/
def State.performSteal (s : State) (t : Nat) (d : BitVec 6) : State :=
  match s.victim t with
  | none => (s.tick1.respond t 63).complete t (.triple d 0 0 0)
  | some g =>
    let r := stealFrom (s.core g).deque
    ((s.tick1.setDeque g r.1).respond t 63).complete t (.triple d r.2.lo r.2.hi (r.2.tag.setWidth 64))

def execDqcount (d : BitVec 6) (s : State) : Out :=
  onCore (.dqcount d) s (writeScalar d (BitVec.ofNat 64 s.deque.length) s)

/-! ### Mailboxes (R113 to R115) -/

/-- SEND: the word names a core or raises REMOTE_DENIED; the value travels to its mailbox (R113). What the destination reports
is found when the value arrives. SENDs keep the order in which they issued; one whose release waits for R144 waits in its place. The trap value of
REMOTE_DENIED is the whole of s[a] (DESIGN CHOICE, log 80). -/
def execSend (i : BitVec 5) (a b : BitVec 6) (s : State) : Out :=
  let g := (s.sr a).toNat
  if g / 2 ^ 20 ≠ 0 ∨ 936 ≤ g / 1024 then .next (s.trap causeREMOTE (s.sr a))
  else if s.me.run.active then
    .next ((s.hold { instr := .send i a b, args := [g, i.toNat, (s.sr b).toNat] }).retire)
  else
    let p : Packet := { kind := 4, dest := g / 1024, addr := g, aux := i.toNat, payload := leBytes 8 (s.sr b).toNat }
    .next ((s.emit (s.formPacket s.cur { p with gate := decide (s.releaseStatus s.cur true ≠ .go) })).park .send)

/-- The mailbox's value is consumed: the oldest queued value for it moves in, or its presence bit clears (R114). -/
def Core.consume (c : Core) (m : Nat) : Core :=
  match c.inbound.find? fun q => decide (q.1 = m) with
  | some q => { c with mail := SMap.set c.mail m q.2, inbound := c.inbound.erase q }
  | none => { c with present := c.present &&& ~~~(1#32 <<< m) }

def execMrecv (d a : BitVec 6) (s : State) : Out :=
  onCore (.mrecv d a) s (
    let g := threadCore s.cur
    let c := s.core g
    if c.present.getLsbD a.toNat then
      .next (((s.setCore g (c.consume a.toNat)).setSr d (SMap.getD c.mail a.toNat 0)).retire)
    else .next (s.tick1.park (.mrecv d a.toNat s.fresh)))

def execMpoll (d : BitVec 6) (s : State) : Out :=
  onCore (.mpoll d) s (
    let c := s.core (threadCore s.cur)
    writeScalar d (BitVec.ofNat 64 (c.present.toNat + c.inbound.length * 2 ^ 32)) s)

/-- The thread parked on a mailbox that parked first (R115). -/
def State.receiver (s : State) (g m : Nat) : Option (Nat × BitVec 6) :=
  let ws := s.threads.filterMap fun e => match e.2.wait with
    | .mrecv d b seq => if threadCore e.1 = g ∧ b = m ∧ e.2.live then some (seq, e.1, d) else none
    | _ => none
  match ws with
  | [] => none
  | w :: rest => let x := rest.foldl (fun y z => if z.1 < y.1 then z else y) w; some (x.2.1, x.2.2)

/-- A value arrives at a mailbox of a core: a parked receiver takes it, or the mailbox, or the inbound queue (R114, R115). -/
def State.placeMail (s : State) (g m : Nat) (v : Word) : State :=
  let c := s.core g
  match s.receiver g m with
  | some (t, d) => s.complete t (.scalar d v)
  | none =>
    if c.present.getLsbD m || c.inbound.any (fun q => decide (q.1 = m)) then s.setCore g { c with inbound := c.inbound ++ [(m, v)] }
    else s.setCore g { c with mail := SMap.set c.mail m v, present := c.present ||| (1#32 <<< m) }

/-- Whether a value for mailbox m of core g finds room (R113). -/
def State.mailRoom (s : State) (g m : Nat) : Bool :=
  let c := s.core g
  (s.receiver g m).isSome || !c.present.getLsbD m || decide (c.inbound.length < 16)

/-- Whether the destination takes a SEND of a context (R113): it holds a residency of that context. -/
def State.mailAllowed (s : State) (g ctx : Nat) : Bool :=
  match (s.core g).resident with
  | none => false
  | some r => decide ((s.region (g / 1024) r).f 101 86 = ctx)

/-! ### Hardware barriers (R116 to R119) -/

/-- The region that configures a barrier: the executing one (R117). -/
def State.execRegion (s : State) (t : Nat) : Nat :=
  let th := s.thr t
  if isCcc t then (if bit th.cctx.toNat 24 then bits th.cctx.toNat 23 16 else noRegion) else th.region

def State.barrier (s : State) (m n : Nat) : Option BarrierObj := SMap.get? (s.module m).barriers n

def State.setBarrier (s : State) (m n : Nat) (b : BarrierObj) : State :=
  s.setModule m { s.module m with barriers := SMap.set (s.module m).barriers n b }

/-- BARCFG's result code and the state it leaves (R117). A CCC thread belongs to no region (R14): supervisor code passes code 1 on any
region's object, and the object it configures belongs to CCTX.RGN, or to no region (256) where RGNV is 0; user code with RGNV = 0 gets
code 1, on a free object too (DESIGN CHOICE, log 65). -/
def State.configureBarrier (s : State) (t x count ctr must : Nat) : State × Nat :=
  let m := threadModule t
  let n := bits x 11 0
  let old := s.barrier m n
  let other := match old with
    | some b => !s.supervisor t && ((s.actsFor t).isNone || decide (b.owner ≠ s.execRegion t))
    | none => !s.supervisor t && (s.actsFor t).isNone
  let sel := bits ctr 28 12
  if other then (s, 1)
  else if 16384 < count then (s, 2)
  else if x / 4096 ≠ 0 ∨ bits ctr 62 29 ≠ 0 ∨ must ≠ 0 then (s, 3)
  else if bit ctr 63 && (selectCluster t sel).isNone then (s, 5)
  else if (match old with | some b => decide (b.arrivals ≠ 0) | none => false) then (s, 4)
  else if count = 0 then
    (s.setModule m { s.module m with barriers := SMap.erase (s.module m).barriers n }, 0)
  else
    let c := if bit ctr 63 then some ((selectCluster t sel).getD 0 * 4096 + bits ctr 11 0) else none
    (s.setBarrier m n { owner := s.execRegion t, count := count, ctr := c }, 0)

def execBarcfg (d a : BitVec 6) (s : State) : Out :=
  let r := s.configureBarrier s.cur (s.sr a).toNat (s.srN (a.toNat + 1)).toNat (s.srN (a.toNat + 2)).toNat
    (s.srN (a.toNat + 3)).toNat
  .next (r.1.park (.response 63 (.scalar d (BitVec.ofNat 64 r.2))))

/-- Whether a thread may arrive at an object: its own region or an ancestor owns it (R118). -/
def State.mayArrive (s : State) (t : Nat) (b : BarrierObj) : Bool :=
  if s.supervisor t then true
  else match s.actsFor t with
    | some r => s.descends (threadModule t) 256 r b.owner
    | none => false

/-- Every thread of a module that waits on a phase of an object wakes, with its response (R118, R358). -/
def State.wakeBarrier (s : State) (m n phase : Nat) : State :=
  (s.threads.filterMap fun e =>
    if threadModule e.1 = m ∧ e.2.wait = .barrier n phase ∧ e.2.live then some e.1 else none).foldl
    (fun s t => (s.respond t 63).complete t .none) s

/-- Whether the completion counter of an object may be changed, as TSIGNAL checks it (R109): it is unbound, or bound to a task of the
region that owns the object or of a descendant. An object of no region signals as supervisor code does (DESIGN CHOICE, log 66). -/
def State.barrierSignals (s : State) (m : Nat) (b : BarrierObj) (cl c : Nat) : Bool :=
  match (s.counter cl c).bound with
  | none => true
  | some slot => decide (b.owner = noRegion) || s.descends m 256 (dRegion (s.task cl slot).desc) b.owner

/-- One arrival of a parked thread at an object: it counts, and the arrival that reaches the count completes the phase, wakes
its threads and decrements the completion counter, unless R109 denies that (R118, R353). -/
def State.arrive (s : State) (m n : Nat) (b : BarrierObj) : State :=
  let s := s.swatch m syncBarrier n 0 b.phase (threadSlot s.cur)
  if b.count ≤ b.arrivals + 1 then
    let s := s.setBarrier m n { b with arrivals := 0, phase := (b.phase + 1) % 2 ^ 32 }
    let s := (s.swatch m syncBarrier n 1 b.phase (threadSlot s.cur)).swatch m syncBarrier n 2 ((b.phase + 1) % 2 ^ 32) (threadSlot s.cur)
    let s := s.wakeBarrier m n b.phase
    match b.ctr with
    | some c => if s.barrierSignals m b (c / 4096) (c % 4096) then s.changeCounter (c / 4096) (c % 4096) (-1) (threadSlot s.cur) else s
    | none => s
  else s.setBarrier m n { b with arrivals := b.arrivals + 1 }

/-- BARRIER: an arrival at an object that the thread's region may use, after its release; any other number raises REMOTE_DENIED, with the whole
of s[a] as the trap value (R118; DESIGN CHOICE, log 80). -/
def execBarrier (a : BitVec 6) (s : State) : Out :=
  let x := (s.sr a).toNat
  let m := threadModule s.cur
  match (if x / 4096 = 0 then s.barrier m x else none) with
  | none => .next (s.trap causeREMOTE (s.sr a))
  | some b =>
    if s.mayArrive s.cur b then
      .next (s.afterRelease true true fun s => (s.park (.barrier x b.phase)).arrive m x b)
    else .next (s.trap causeREMOTE (s.sr a))

def execBarpoll (d a : BitVec 6) (s : State) : Out :=
  let x := (s.sr a).toNat
  let v : Word := match (if x / 4096 = 0 then s.barrier (threadModule s.cur) x else none) with
    | none => BitVec.allOnes 64
    | some b => if s.mayArrive s.cur b then BitVec.ofNat 64 (b.phase * 2 ^ 32 + b.arrivals) else BitVec.allOnes 64
  .next (s.park (.response 63 (.scalar d v)))

end Sys2Proof.Machine
end

