-- ==== Sys2Proof/Machine/Memory.lean ====
section
/-! DEFINITION. The meanings of the memory, atomic, fence, prefetch, watch and directed instructions, opcodes 0x20 to 0x2A and 0x6A
to 0x6C (09_memory_instructions R141 to R156; 17_copies R251 to R254). -/

namespace Sys2Proof.Machine

/-! ### What an access leads to -/

/-- The run of the thread that issues aborts with REMOTE (R143). -/
def State.abortRemote (s : State) : State := s.abortHolder (.thread s.cur) abortREMOTE 0

/-- Addresses of n consecutive bytes. -/
def span (va n : Nat) : List Nat := (List.range n).map (va + ·)

/-- Requests for bytes outside the module: RD packets, the thread parked until the replies are put together (R142, R323). -/
def State.farRead (s : State) (xs : SMap Xlat) (moraine : Bool) (vas : List Nat) (acq : Bool) (fin : Finish) : State :=
  let rs := farSpans xs moraine vas
  s.request (rs.map fun r =>
    let t := farTarget xs moraine r.1
    { kind := 0, dest := t.1, addr := t.2, size := r.2, ord := if acq then 1 else 0, va := r.1 })
    fun s => s.park (.fabric (farBank xs moraine (vas.headD 0)) rs.length [] none fin)

/-- A vector access to a peer without an active lane: a request without bytes, which the target checks at its address and acknowledges
(R148; DESIGN CHOICE, log 71). -/
def State.farProbe (s : State) (xs : SMap Xlat) (kind va : Nat) : State :=
  let t := farTarget xs false va
  s.request [{ kind := kind, dest := t.1, addr := t.2, va := va }] fun s => s.park (.fabric (farBank xs false va) 1 [] none .store)

/-- A Moraine store or reduction is posted: the thread goes on when the port accepts it (R142). -/
def State.post (s : State) (n : Nat) : State := (s.setMe { s.me with posted := s.me.posted + n }).retire

/-- Stores to bytes outside the module: WR packets, acknowledged for a peer, posted for Moraine memory (R142, R323). -/
def State.farWrite (s : State) (xs : SMap Xlat) (moraine : Bool) (va : Nat) (cells : List (Nat × Byte)) (rel : Bool) : State :=
  if cells = [] ∧ moraine = false then s.farProbe xs 1 va
  else
    let rs := farRuns xs moraine cells
    s.request (rs.map fun r =>
      let t := farTarget xs moraine r.1
      { kind := 1, dest := t.1, addr := t.2, size := r.2.length, ord := if rel then 2 else 0, payload := r.2
        posted := moraine, va := r.1 })
      fun s => if moraine then s.post rs.length else s.park (.fabric (farBank xs moraine va) rs.length [] none .store)

/-- An AMO or RED outside the module (R149, R150, R323). -/
def State.farReduce (s : State) (xs : SMap Xlat) (moraine : Bool) (va kind op w ord : Nat) (data : List Byte)
    (fin : Finish) : State :=
  let posted := moraine && decide (kind = 3)
  let t := farTarget xs moraine va
  s.request [{ kind := kind, dest := t.1, addr := t.2, size := w, opc := op, ord := ord, payload := data, posted := posted, va := va }]
    fun s => if posted then s.post 1 else s.park (.fabric (farBank xs moraine va) 1 [] none fin)

/-- A store or reduction enters the side log, and its thread wakes when the entry is made; a release stays parked until its
entry has replayed (R136, R142, R146). -/
def State.logStore (s : State) (x : LogEntry) (fault : Option Nat) : State :=
  let g := threadCore s.cur
  if s.logFull g 1 then s.park (.retry .sideLogFull)
  else
    let s' := s.enterLog g x fault
    if x.rel then s'.park .logged else s'.retire

/-- The fields of a side-log entry that name its thread (R136). -/
def State.logEntryOf (s : State) (e : Nat) (rel : Bool) (scope : Nat) : LogEntry :=
  { thread := s.cur, region := s.recordRegion s.cur, ctx := (s.agent s.cur).ctx, entry := BitVec.ofNat 512 e, rel := rel
    scope := if rel then scope else 0 }

/-- Scopes as FENCE numbers them (R152). -/
def scopeDevice : Nat := 4
def scopeFabric : Nat := 5

/-- The scope of an order of AMO and RED (R63). -/
def atomicScope (e : Nat) : Nat := if 3 ≤ laySpace e then scopeFabric else scopeDevice

/-- The bank of a response that adds to no delay accumulator: it is no response to an access or a network request. -/
def noBank : Nat := 64

/-! ### Loads (R145, R147) -/

/-- The value of a load from the control range: an aligned 8-byte read (R359); another size reads zero. An access to DDATA waits
for the lock of the tile it names (R349). -/
def State.loadCtl (s : State) (d : BitVec 6) (pa n : Nat) : State :=
  let m := threadModule s.cur
  match s.ctlLock m pa with
  | some x => s.park (.retry (.lock x.1 x.2))
  | none =>
    if n = 8 then
      let r := s.ctlRead m pa
      r.1.park (.response noBank (.scalar d r.2))
    else s.park (.response noBank (.scalar d 0))

/-- A store to the control range: an aligned 8-byte write (R359); another size is ignored. The write to RGNSTART is a release by the writer
at device scope: it is made once R144 holds (R161). -/
def State.storeCtl (s : State) (pa : Nat) (bs : List Byte) : State :=
  let m := threadModule s.cur
  match s.ctlLock m pa with
  | some x => s.park (.retry (.lock x.1 x.2))
  | none =>
    s.afterRelease (decide (pa = ctlBase + 0x100 ∧ bs.length = 8)) true fun s =>
      let s := if bs.length = 8 then s.ctlWrite m pa .supervisor (BitVec.ofNat 64 (leNat bs)) else s
      s.park (.response noBank .none)

/-- LD and LDS of n bytes: checks, access, and the value written when the response arrives (R141, R145). -/
def loadScalar (d : BitVec 6) (l : BitVec 8) (c : BitVec 6) (n : Nat) (sx acq : Bool) (s : State) : Out :=
  match s.elementAccess s.cur l.toNat c.toNat 1 n n with
  | .error x => .next (s.trapWith x)
  | .ok (e, va) =>
    let vas := span va n
    match s.meet s.cur { entry := e, need := permR, vas := [va], bytes := vas } with
    | (s, .here xs) =>
      if inCtl (locPa (xlatLoc xs va)) then .next (s.loadCtl d (locPa (xlatLoc xs va)) n)
      else .next (s.park (.response (bankOfAccess xs vas) (.scalar d (loadValue (s.readBytes s.cur e xs vas) sx))))
    | (s, .peer xs) => .next (s.farRead xs false vas acq (.load d (vas.map fun v => locPa (xlatLoc xs v)) sx))
    | (s, .moraine) => .next (s.farRead [] true vas acq (.load d vas sx))
    | (s, .trap x) => .next (s.trapWith x)
    | (s, .wait r) => .next (s.park (.retry r))
    | (s, .log _) => .next s
    | (s, .remote) => .next s.abortRemote
    | (s, .gone) => .next s

def execLd (d : BitVec 6) (l : BitVec 8) (c : BitVec 6) (w : BitVec 2) (r : BitVec 1) (_sc : BitVec 2) (s : State) : Out :=
  loadScalar d l c (2 ^ w.toNat) false (decide (r = 1)) s

def execLds (d : BitVec 6) (l : BitVec 8) (c : BitVec 6) (w : BitVec 2) (r : BitVec 1) (_sc : BitVec 2) (s : State) : Out :=
  loadScalar d l c (2 ^ w.toNat) true (decide (r = 1)) s

/-- The lanes that a mask enables. -/
def activeLanes (m : BitVec 32) : List Nat := (List.range 32).filter fun i => m.getLsbD i

/-- The addresses of lane i of a vector access (R147). -/
def laneAddrs (e : Nat) (xs : List Nat) (i : Nat) : List Nat := (List.range 4).map fun b => elementByte e xs (4 * i + b)

/-- The checks of a vector access: the first four bytes, then every active lane in turn, its bounds before its addresses (R141, R147,
R148). -/
def State.vectorAccess (s : State) (t l c need : Nat) (mask : BitVec 32) : Except Trap (Nat × Nat × List Nat) :=
  match s.elementAccess t l c need 4 4 with
  | .error x => .error x
  | .ok (e, va) =>
    let xs := (s.thr t).coords e c
    let x0 := xs.getD 0 0
    let past (i : Nat) : Bool :=
      if layKind e = 1 then decide (layExtent e < x0 + 4 * i + 4)
      else decide (layDim e 0 * layEsize e < x0 * layEsize e + 4 * i + 4)
    match (activeLanes mask).findSome? fun i =>
      if past i then some (causeLAYOUT, BitVec.ofNat 64 l)
      else ((laneAddrs e xs i).find? fun a => decide (a / 2 ^ 57 ≠ 0)).map fun a => (causePAGE, BitVec.ofNat 64 a) with
    | some x => .error x
    | none => .ok (e, va, xs)

/-- The register whose lanes are the numbers of 4-byte groups. -/
def vecOfLanes (ls : List (Nat × List Byte)) : Vec :=
  ofLanes fun i => match ls.find? fun x => decide (x.1 = i) with
    | some x => BitVec.ofNat 32 (leNat x.2)
    | none => 0

def execVld (d : BitVec 6) (l : BitVec 8) (c : BitVec 6) (p : BitVec 3) (s : State) : Out :=
  let mask := s.mask p
  match s.vectorAccess s.cur l.toNat c.toNat 1 mask with
  | .error x => .next (s.trapWith x)
  | .ok (e, va, xs) =>
    let lanes := (activeLanes mask).map fun i => (i, laneAddrs e xs i)
    let vas := lanes.flatMap (·.2)
    match s.meet s.cur { entry := e, need := permR, vas := va :: vas, bytes := vas } with
    | (s, .here ps) =>
      let v := vecOfLanes (lanes.map fun x => (x.1, s.readBytes s.cur e ps x.2))
      .next (s.park (.response (bankOfAccess ps (va :: vas)) (.vector d mask v)))
    | (s, .peer ps) =>
      if vas = [] then .next (s.farProbe ps 0 va)
      else .next (s.farRead ps false vas false (.vload d mask (lanes.map fun x => (x.1, x.2.map fun v => locPa (xlatLoc ps v)))))
    | (s, .moraine) =>
      if vas = [] then .next (s.park (.response (farBank [] true va) .none))
      else .next (s.farRead [] true vas false (.vload d mask lanes))
    | (s, .trap x) => .next (s.trapWith x)
    | (s, .wait r) => .next (s.park (.retry r))
    | (s, .log _) => .next s
    | (s, .remote) => .next s.abortRemote
    | (s, .gone) => .next s

/-! ### Stores (R146, R147) -/

/-- The addresses a store translates: its first byte and the first byte of each other page that it touches (R147). The page of the first byte
is translated whether or not an active lane lies in it, as for a store without an active lane (R148; DESIGN CHOICE, log 72). -/
def storePages (va : Nat) (cells : List (Nat × Byte)) : List Nat :=
  let vas := cells.map (·.1)
  va :: ((pagesOf vas).filter fun p => p ≠ va / 65536).map fun p => firstIn p vas

/-- A store of cells through an entry, after its checks (R141, R142, R146). -/
def storeCells (e va : Nat) (cells : List (Nat × Byte)) (rel : Bool) (scope : Nat) (s : State) : Out :=
  let vas := cells.map (·.1)
  .next (s.afterRelease rel true fun s =>
    match s.meet s.cur { entry := e, kind := reqWrite, hit := kindWrite, need := permW, logs := true, vas := va :: vas, bytes := vas } with
    | (s, .here xs) =>
      if inCtl (locPa (xlatLoc xs va)) then s.storeCtl (locPa (xlatLoc xs va)) (cells.map (·.2))
      else (s.writeBytes s.cur e xs cells).park (.response (bankOfAccess xs (va :: vas)) .none)
    | (s, .peer xs) => s.farWrite xs false va cells rel
    | (s, .moraine) => s.farWrite [] true va cells rel
    | (s, .trap x) => s.trapWith x
    | (s, .wait r) => s.park (.retry r)
    | (s, .log f) => s.logStore { s.logEntryOf e rel scope with cells := cells, vas := storePages va cells } f
    | (s, .remote) => s.abortRemote
    | (s, .gone) => s)

def execSt (d : BitVec 6) (l : BitVec 8) (c : BitVec 6) (w : BitVec 2) (r : BitVec 1) (sc : BitVec 2) (s : State) : Out :=
  let n := 2 ^ w.toNat
  match s.elementAccess s.cur l.toNat c.toNat 2 n n with
  | .error x => .next (s.trapWith x)
  | .ok (e, va) => storeCells e va (cellsAt va (lowBytes (s.sr d) n)) (decide (r = 1)) (sc.toNat + 2) s

def execVst (d : BitVec 6) (l : BitVec 8) (c : BitVec 6) (p : BitVec 3) (s : State) : Out :=
  let mask := s.mask p
  match s.vectorAccess s.cur l.toNat c.toNat 2 mask with
  | .error x => .next (s.trapWith x)
  | .ok (e, va, xs) =>
    readable s [(d.toNat, mask)] (
      let cells := (activeLanes mask).flatMap fun i => (laneAddrs e xs i).zip (leBytes 4 (lane (s.v d) i).toNat)
      storeCells e va cells false 0 s)

/-! ### Atomics and reductions (R149 to R151) -/

/-- Trap value of an ALIGN that concerns no address (R370). -/
def alignIndex (l : Nat) : Trap := (causeALIGN, BitVec.ofNat 64 (2 ^ 63 + l))

/-- The value an AMO writes, or none where CAS writes nothing; `y` is the CAS new value (R149). -/
def amoValue (op w old x y : Nat) : Option Nat :=
  let n := 8 * w
  match op with
  | 0 => some ((old + x) % 2 ^ n)
  | 1 => some (old &&& x)
  | 2 => some (old ||| x)
  | 3 => some (old ^^^ x)
  | 4 => some (if signed x n < signed old n then x else old)
  | 5 => some (if signed old n < signed x n then x else old)
  | 6 => some x
  | _ => if old = x then some y else none

/-- The value a RED writes (R150). -/
def redValue (op w old x : Nat) : Nat :=
  let n := 8 * w
  match op with
  | 0 => (old + x) % 2 ^ n
  | 1 => if signed x n < signed old n then x else old
  | 2 => if signed old n < signed x n then x else old
  | 3 => (add32 (BitVec.ofNat 32 old) (BitVec.ofNat 32 x)).toNat
  | 4 => (min32 (BitVec.ofNat 32 old) (BitVec.ofNat 32 x)).toNat
  | 5 => (max32 (BitVec.ofNat 32 old) (BitVec.ofNat 32 x)).toNat
  | 6 => add16 old x
  | _ => old ||| x

/-- Element widths that a RED allows (R150). With the label COMM they are the same outside a run as inside one (R151; DESIGN CHOICE, log 83). -/
def redWidthOk (op : Nat) (comm : Bool) (w : Nat) : Bool :=
  if op = 6 then decide (w = 2)
  else if op = 3 ∨ op = 4 ∨ op = 5 ∨ comm then decide (w = 4)
  else decide (w = 4 ∨ w = 8)

/-- Steps 1 to 5 of R141 for AMO and RED: COH must be 0, the element size must be allowed (R123, R149, R150). -/
def State.atomicAccess (s : State) (t l c need : Nat) (widthOk : Nat → Bool) : Except Trap (Nat × Nat × Nat) :=
  let e := s.layoutEntry t l
  match layoutChecks e l c need with
  | .error x => .error x
  | .ok _ =>
    let w := layEsize e
    if layDirected e then .error (causeLAYOUT, BitVec.ofNat 64 l)
    else if !widthOk w then .error (alignIndex l)
    else
      match elementAddress e l ((s.thr t).coords e c) w w with
      | .error x => .error x
      | .ok va => .ok (e, va, w)

/-- The request of an AMO of w bytes (R149). -/
def amoReq (e va w : Nat) : Req :=
  { entry := e, kind := reqWrite, hit := kindAmo, need := permR ||| permW ||| permA, vas := [va], bytes := span va w }

/-- Whether an AMO is known to write its element: a CAS looks at the old value first, and sets no D bit where it fails (R131, R149). One
that waits has not looked yet, and one whose home is another module learns it from the reply (R131; DEDUCED, log 53). -/
def State.amoStores (s : State) (e va w op x : Nat) : Bool :=
  match s.meet s.cur { amoReq e va w with stores := false } with
  | (u, .here xs) => decide (op ≠ 7 ∨ leNat (u.readBytes u.cur e xs (span va w)) = x)
  | _ => decide (op ≠ 7)

def execAmo (d : BitVec 6) (l : BitVec 8) (c : BitVec 6) (k : BitVec 3) (r : BitVec 2) (s : State) : Out :=
  match s.atomicAccess s.cur l.toNat c.toNat 7 (fun w => decide (w = 4 ∨ w = 8)) with
  | .error x => .next (s.trapWith x)
  | .ok (e, va, w) =>
    let x := (s.sr d).toNat % 2 ^ (8 * w)
    let y := (s.srN (d.toNat + 1)).toNat % 2 ^ (8 * w)
    let vas := span va w
    let data := leBytes 8 x ++ (if k = 7 then leBytes 8 y else [])
    .next (s.afterRelease (decide (r = 2 ∨ r = 3)) true fun s =>
      match s.meet s.cur { amoReq e va w with stores := s.amoStores e va w k.toNat x } with
      | (s, .here xs) =>
        let old := leNat (s.readBytes s.cur e xs vas)
        let s := match amoValue k.toNat w old x y with
          | some v => s.writeBytes s.cur e xs (cellsAt va (leBytes w v))
          | none => if s.me.run.active then s else s.coverWatches (some s.cur) (vas.map (xlatLoc xs))
        s.park (.response (bankOfAccess xs vas) (.scalar d (BitVec.ofNat 64 old)))
      | (s, .peer xs) => s.farReduce xs false va 2 k.toNat w r.toNat data (.amo d w)
      | (s, .moraine) => s.farReduce [] true va 2 k.toNat w r.toNat data (.amo d w)
      | (s, .trap x) => s.trapWith x
      | (s, .wait r) => s.park (.retry r)
      | (s, .log _) => s
      | (s, .remote) => s.abortRemote
      | (s, .gone) => s)

/-- A COMM reduction inside a run is held in its log, and applied at commit (R151, R266). -/
def State.holdComm (s : State) (x : CommEntry) : State :=
  s.setMe { s.me with run := { s.me.run with log := s.me.run.log ++ [x] } }

def execRed (d : BitVec 6) (l : BitVec 8) (c : BitVec 6) (k : BitVec 3) (r : BitVec 1) (m : BitVec 1) (s : State) : Out :=
  match s.atomicAccess s.cur l.toNat c.toNat 2 (redWidthOk k.toNat (decide (m = 1))) with
  | .error x => .next (s.trapWith x)
  | .ok (e, va, w) =>
    let x := (s.sr d).toNat % 2 ^ (8 * w)
    let vas := span va w
    let comm := decide (m = 1) && s.me.run.active
    let rel := decide (r = 1)
    .next (s.afterRelease rel true fun s =>
      match s.meet s.cur { entry := e, kind := if comm then reqComm else reqWrite, hit := kindWrite, need := permW, logs := true
                           vas := [va], bytes := vas } with
      | (s, .here xs) =>
        let s :=
          if comm then s.holdComm { loc := xlatLoc xs va, op := k.toNat, w := w, value := x, key := xlatKey xs va, scope := atomicScope e }
          else
            let old := leNat (s.readBytes s.cur e xs vas)
            s.writeBytes s.cur e xs (cellsAt va (leBytes w (redValue k.toNat w old x)))
        s.park (.response (bankOfAccess xs vas) .none)
      | (s, .peer xs) => s.farReduce xs false va 3 k.toNat w (if rel then 2 else 0) (leBytes 8 x) .store
      | (s, .moraine) => s.farReduce [] true va 3 k.toNat w (if rel then 2 else 0) (leBytes 8 x) .store
      | (s, .trap x) => s.trapWith x
      | (s, .wait r) => s.park (.retry r)
      | (s, .log f) =>
        s.logStore { s.logEntryOf e rel (atomicScope e) with cells := cellsAt va (leBytes w x), vas := [va], red := some (k.toNat, w) } f
      | (s, .remote) => s.abortRemote
      | (s, .gone) => s)

/-! ### Fences and prefetch (R152, R153) -/

/-- FENCE: kind ACQ waits for nothing; REL, AR and SC wait for R144, at thread scope without its condition 2 (R139, R152). -/
def execFence (k : BitVec 2) (sc : BitVec 3) (s : State) : Out :=
  .next (s.afterRelease (decide (k ≠ 0)) (decide (sc ≠ 0)) fun s => s.park (.response noBank .none))

/-- Whether the page that a PREF would reach is in cache mode 1: PREF does nothing there (R153). -/
def State.prefUncached (s : State) (a : Agent) (e va : Nat) : Bool :=
  !a.inWindow (laySpace e) va && (match s.walkContext a.module a.ctx va with
    | some (_, leaf, _) => bit leaf 8
    | none => false)

/-- Whether a PREF finds its walk held at a directory, by a line in X or a run, or an uncorrectable byte at its address (R153, R285). -/
def State.prefHeld (s : State) (a : Agent) (e va : Nat) : Bool :=
  let sp := laySpace e
  let pages := [va / 65536]
  decide (s.tableWaits a sp (layModule e) permR false pages ≠ [])
  || ((s.walkRequests a sp (layModule e) permR false pages).any fun r => r.2.any fun tile => decide (s.conflicting a r.1 tile ≠ []))
  || (match (s.translate a sp (layModule e) permR false va).2 with
    | some x => s.isBad (layDirected e) a.die (x.loc + va % 65536)
    | none => false)

/-- PREF: makes the checks of R141; a walk that succeeds sets ACC as a read's does; every other check that fails ends it with
no effect, and so does a page in cache mode 1 (R131, R153). It waits for nothing: where its walk, its line or its frame is held at the home,
it does nothing further (DESIGN CHOICE, log 73). A line of a DIRECTED entry is fetched into the die's L2 (R140); the coherent caches that it fills
are no state of the model. -/
def execPref (l : BitVec 8) (c : BitVec 6) (_v : BitVec 2) (s : State) : Out :=
  match s.elementAccess s.cur l.toNat c.toNat 1 1 1 with
  | .error _ => .next s.retire
  | .ok (e, va) =>
    let a := s.agent s.cur
    if 3 ≤ laySpace e || s.prefUncached a e va || s.prefHeld a e va then .next s.retire
    else
      match s.translate a (laySpace e) (layModule e) permR false va with
      | (s, none) => .next s.retire
      | (s, some x) =>
        let loc := x.loc + va % 65536
        let zeroing := (s.frameRequests a.ctx [loc]).any fun r => r.2.any fun tile => decide (s.conflicting a r.1 tile ≠ [])
        if layDirected e && decide (s.heldLines a e [(va / 65536, x)] [va] = []) && !zeroing then
          .next (((s.touchFrame x.key loc a.ctx).fetchLine a.die x.key loc).retire)
        else .next s.retire

/-! ### Watches (R154 to R156) -/

/-- The watch entries of a thread, in every cluster. -/
def State.watchesOf (s : State) (t : Nat) : List WatchEntry :=
  s.clusters.flatMap fun e => e.2.watches.filter fun w => decide (w.thread = t)

/-- Arms a word for a thread in the table of the word's cluster, where it can be armed (R154). -/
def State.arm (s : State) (t loc va ctx : Nat) : State × Bool :=
  let cl := csmCluster (locModule loc) (locPa loc)
  let c := s.cluster cl
  let x : WatchEntry := { word := loc / 4, thread := t, va := va, ctx := ctx }
  if c.watches.any fun w => decide (w.thread = t ∧ w.word = loc / 4) then
    (s.setCluster cl { c with watches := c.watches.map fun w => if w.thread = t ∧ w.word = loc / 4 then x else w }, true)
  else if 256 ≤ c.watches.length ∨ 8 ≤ (s.watchesOf t).length then (s, false)
  else (s.setCluster cl { c with watches := c.watches ++ [x] }, true)

/-- WATCH: steps 1 to 5 of R141 come before the check of the space: R154 gives them no order (DESIGN CHOICE, log 74). -/
def execWatch (d : BitVec 6) (l : BitVec 8) (c : BitVec 6) (s : State) : Out :=
  match s.elementAccess s.cur l.toNat c.toNat 1 4 4 with
  | .error x => .next (s.trapWith x)
  | .ok (e, va) =>
    if laySpace e ≠ 1 then .next (s.trap causeLAYOUT (l.setWidth 64))
    else
      let vas := span va 4
      match s.meet s.cur { entry := e, need := permR, vas := [va], bytes := vas } with
      | (s, .here xs) =>
        let v := leNat (s.readBytes s.cur e xs vas)
        let r := s.arm s.cur (xlatLoc xs va) va (s.agent s.cur).ctx
        .next (r.1.park (.response (bankOfAccess xs vas) (.scalar d (BitVec.ofNat 64 (v + (if r.2 then 0 else 2 ^ 63))))))
      | (s, .trap x) => .next (s.trapWith x)
      | (s, .wait r) => .next (s.park (.retry r))
      | (s, _) => .next s

/-- UNWATCH: steps 1 to 5 of R141, then the check of the space (DESIGN CHOICE, log 74), then the thread's watch that records the address
and the context is disarmed (R156). -/
def execUnwatch (l : BitVec 8) (c : BitVec 6) (s : State) : Out :=
  match s.elementAccess s.cur l.toNat c.toNat 1 4 4 with
  | .error x => .next (s.trapWith x)
  | .ok (e, va) =>
    if laySpace e ≠ 1 then .next (s.trap causeLAYOUT (l.setWidth 64))
    else
      let ctx := (s.agent s.cur).ctx
      let keep (w : WatchEntry) : Bool := !decide (w.thread = s.cur ∧ w.va = va ∧ w.ctx = ctx)
      .next ({ s with clusters := s.clusters.map fun (x : Nat × Cluster) =>
        (x.1, { x.2 with watches := x.2.watches.filter keep }) }.retire)

/-- WAITW ends with 1: every fired watch of the thread is disarmed (R155). -/
def State.takeFirings (s : State) (t : Nat) : State :=
  { s with clusters := s.clusters.map fun (x : Nat × Cluster) =>
    (x.1, { x.2 with watches := x.2.watches.filter fun w => !(decide (w.thread = t) && w.fired) }) }

/-- How a WAITW stands now: the value it writes, if it ends (R155). -/
def State.waitwResult (s : State) (t : Nat) (deadline : Option Nat) : Option Nat :=
  let ws := s.watchesOf t
  if ws = [] then some 2
  else if ws.any (·.fired) then some 1
  else match deadline with
    | some k => if k ≤ s.ticks then some 0 else none
    | none => none

/-- WAITW ends with a value (R155). -/
def State.endWaitw (s : State) (t : Nat) (d : BitVec 6) (v : Nat) : State :=
  (if v = 1 then s.takeFirings t else s).complete t (.scalar d (BitVec.ofNat 64 v))

/-- WAITW: it ends at once where it has nothing to wait for or has fired. One whose timeout has run out ends when its core cycle does, with 1
where a watch fires in that cycle (R155). -/
def execWaitw (d a : BitVec 6) (s : State) : Out :=
  if s.me.run.active then .next (s.illegal (.waitw d a))
  else
    let x := s.sr a
    let deadline := if x = BitVec.allOnes 64 then none else some (s.ticks + x.toNat)
    match s.waitwResult s.cur deadline with
    | some 0 => .next (s.park (.waitw d deadline))
    | some v => .next (s.endWaitw s.cur d v)
    | none => .next (s.park (.waitw d deadline))

/-! ### Directed write-back and invalidate (R251 to R254) -/

/-- The checks of WBR and INVR for the first byte, with the byte count (R251): the entry, the address and the count. -/
def State.directedRange (s : State) (t l c : Nat) (count : Nat) : Except Trap (Nat × Nat) :=
  match s.elementAccess t l c 2 1 1 with
  | .error x => .error x
  | .ok (e, va) =>
    let x0 := layOffset e ((s.thr t).coords e c)
    if 2 ^ 32 < count ∨ (layKind e = 1 ∧ layExtent e < x0 + count) then .error (causeLAYOUT, BitVec.ofNat 64 l)
    else .ok (e, va)

/-- A write of a die's dirty bytes of a line to the home, as a coherent write of an agent: it waits for a line that an engine holds in X and
for a run that holds the tile, and the bytes are then clean (R167, R252, R260, R261). -/
def State.mergeLine (s : State) (a : Agent) (writer : Option Nat) (d key line lo hi : Nat) : State × Option Retry :=
  match SMap.get? (s.die d).directed line with
  | none => (s, none)
  | some l =>
    let cells := l.dirtyCells line lo hi
    if cells = [] then (s, none)
    else if s.xlines.contains line then (s, some (.lineX [line]))
    else match s.resolveConflicts a reqWrite [tileOf (line * 128)] with
      | (s, some tile) => (s.tick1, some (.conflict tile s.fresh reqWrite))
      | (s, none) =>
        let s := s.setBytes writer key cells
        let x := s.die d
        let clear := cells.foldl (fun m c => m &&& ~~~(BitVec.ofNat 128 (2 ^ (c.1 % 128)))) l.dirty
        (s.setDie d { x with directed := SMap.set x.directed line { l with dirty := clear } }, none)

/-- Writes the dirty bytes of a directed line that lie within a range to its home, and clears their dirty bits (R252). -/
def State.writeBack (s : State) (t d key line lo hi : Nat) : State × Option Retry := s.mergeLine (s.agent t) (some t) d key line lo hi

/-- Removes a directed line after its dirty bytes outside the range have been written back (R253). -/
def State.invalidate (s : State) (t d key line lo hi : Nat) : State × Option Retry :=
  match s.writeBack t d key line (line * 128) lo with
  | (s, some r) => (s, some r)
  | (s, none) =>
    match s.writeBack t d key line hi (line * 128 + 128) with
    | (s, some r) => (s, some r)
    | (s, none) =>
      let x := s.die d
      (s.setDie d { x with directed := SMap.erase x.directed line }, none)

/-- Acts on lines in turn, up to the first that must wait. -/
def State.overLines (s : State) (act : State → Nat → State × Option Retry) : List Nat → State × Option Retry
  | [] => (s, none)
  | l :: ls =>
    match act s l with
    | (s, none) => s.overLines act ls
    | r => r

/-- The directed lines that a die holds within a page part: first and last location of the part. -/
def Die.linesIn (x : Die) (lo hi : Nat) : List Nat :=
  x.directed.filterMap fun e => if e.1 * 128 < hi ∧ lo < e.1 * 128 + 128 then some e.1 else none

/-- How a WBR or INVR goes: to its end, up to a page that fails, by its first address, or up to a line that must wait. -/
inductive Ranged where
  | done
  | page (va : Nat)
  | wait (r : Retry)
  deriving DecidableEq, Repr

/-- Acts on the pages of a range in order (R251). Only pages of 64 KiB in which the die holds a directed line, and the first page of the
range, are looked at one by one. -/
def State.overPages (s : State) (t e va count : Nat) (act : State → Nat → Nat → Nat → Nat → State × Option Retry) : List Nat → State × Ranged
  | [] => (s, .done)
  | p :: ps =>
    let a := s.agent t
    match s.translate a (laySpace e) (layModule e) permW false (max va (p * 65536)) with
    | (s, none) => (s, .page (max va (p * 65536)))
    | (s, some x) =>
      let lo := x.loc + (max va (p * 65536) - p * 65536)
      let hi := x.loc + min 65536 (va + count - p * 65536)
      let lines := if layDirected e && !x.uncached && decide (count ≠ 0) then (s.die a.die).linesIn lo hi else []
      match s.overLines (fun s l => act s x.key l lo hi) lines with
      | (s, some r) => (s, .wait r)
      | (s, none) => s.overPages t e va count act ps

/-- WBR and INVR (R251): the range's pages are translated in order, and the directed lines of each are handled. Where a line must wait, the
instruction is performed on from it later: what it has done by then stands. -/
def directedOp (i : Instr) (d : BitVec 6) (l : BitVec 8) (c : BitVec 6)
    (act : Nat → Nat → State → Nat → Nat → Nat → Nat → State × Option Retry) (s : State) : Out :=
  if s.me.run.active then .next (s.illegal i)
  else
    let count := (s.sr d).toNat
    match s.directedRange s.cur l.toNat c.toNat count with
    | .error x => .next (s.trapWith x)
    | .ok (e, va) =>
      if laySpace e = 4 then .next (s.park (.response noBank .none))
      else
        let n := (va + max count 1 - 1) / 65536 + 1 - va / 65536
        let pages := (List.range n).map (va / 65536 + ·)
        let a := s.agent s.cur
        let live := (s.core (threadCore s.cur)).livePages a.ctx pages
        let tables := s.tableWaits a (laySpace e) (layModule e) permW false pages
        if live ≠ [] then .next (s.park (.retry (.pageLive live)))
        else if tables ≠ [] then .next (s.park (.retry (.lineX tables)))
        else match s.resolveAll a (s.walkRequests a (laySpace e) (layModule e) permW false pages) with
        | (s, some (k, _, tile)) => .next (s.tick1.park (.retry (.conflict tile s.fresh k)))
        | (s, none) =>
          match s.overPages s.cur e va count (act s.cur (threadDie s.cur)) pages with
          | (s, .page v) => .next (s.trap causePAGE (BitVec.ofNat 64 v))
          | (s, .wait r) => .next (s.park (.retry r))
          | (s, .done) => .next (s.park (.response noBank .none))

def execWbr (d : BitVec 6) (l : BitVec 8) (c : BitVec 6) (s : State) : Out :=
  directedOp (.wbr d l c) d l c (fun t die s key line lo hi => s.writeBack t die key line lo hi) s

def execInvr (d : BitVec 6) (l : BitVec 8) (c : BitVec 6) (s : State) : Out :=
  directedOp (.invr d l c) d l c (fun t die s key line lo hi => s.invalidate t die key line lo hi) s

end Sys2Proof.Machine
end

