-- ==== Sys2Proof/Machine/Home.lean ====
section
/-! DEFINITION. Requests at their home outside the requester's module: the peer range table, Moraine page maps, and the bytes
that a read, write, atomic or reduction acts on there (08_memory_spaces R135; 25_fabric R326, R332, R333; 09_memory_instructions
R149, R150). -/

namespace Sys2Proof.Machine

/-! ### The peer range table (R135) -/

/-- Permission bits of a range-table entry. -/
def rangeR : Nat := 1
def rangeW : Nat := 2
def rangeA : Nat := 4

/-- Whether an entry of the range table serves a request for n bytes. -/
def rangeServes (e need pa n : Nat) : Bool :=
  bit e 0 && decide (bits e 15 4 = 0 ∧ bits e 63 52 = 0 ∧ bits e 127 106 = 0 ∧ bits e 3 1 &&& need = need)
  && decide (bits e 51 16 * 65536 ≤ pa ∧ pa + n ≤ bits e 99 64 * 65536)

/-- The key index under which a peer request of a source module is served, none where it is refused (R135). -/
def State.peerKey (s : State) (src dst pa n need : Nat) : Option Nat :=
  let base := bits (s.module dst).peertab.toNat 51 20 * 2 ^ 20
  if base = 0 then none
  else (List.range 64).findSome? fun i =>
    let e := s.num (locOf dst (base + 16 * (64 * src + i))) 16
    if rangeServes e need pa n then some (bits e 105 100) else none

/-- What the home answers. -/
inductive Reply where
  /-- Performed; the bytes read. -/
  | done (bs : List Byte)
  /-- Refused with a cause. -/
  | error (cause : Nat)
  /-- The request waits at the home: its kind and the tiles on which it meets runs; none where it waits for something else. -/
  | wait (kind : Nat) (tiles : List Nat)
  deriving DecidableEq, Repr

/-! ### Moraine pages (R326, R332, R333) -/

/-- Whether a Moraine address keeps the field limits of R326. -/
def State.moraineOk (s : State) (addr : Nat) : Bool :=
  decide (addr / 2 ^ 45 = 0 ∧ bits addr 44 41 ≤ 12 ∧ bits addr 36 21 < 49152) && s.podPresent (bits addr 44 41)

/-- Key of a tenant's page in a page map. -/
def pageKey (ctx page : Nat) : Nat := ctx * 65536 + page

/-- A switch and a bank page of it. -/
abbrev Copy := Nat × Nat

/-- The live copies of a page as a module's hub sees them: the one that serves loads, and the other one; or the cause. A page that a
switch's failure has lost is LOST until that switch is replaced. While a switch has failed and the hub is not told, a request to it, or for a
page that it has lost, waits (R326, R332, R333). -/
def State.moraineCopies (s : State) (m ctx addr : Nat) : Except Reply (Copy × Option Copy) :=
  let sw := moraineSwitch addr
  let down (w : Nat) : Bool := (s.module m).failed.contains w
  if !s.moraineOk addr then .error (.error causePAGE)
  else if (s.switch sw).failed && !down sw then .error (.wait 0 [])
  else
    let key := pageKey ctx (bits addr 36 21)
    let here := if down sw then none else SMap.get? (s.switch sw).pages key
    let other := (List.range 16).findSome? fun i =>
      let w := sw / 16 * 16 + i
      if w = sw ∨ down w = true then none
      else match SMap.get? (s.switch w).pages key with
        | some x => if x.primary = sw then some (w, x.bank) else none
        | none => none
    match here, other with
    | some x, o => if x.primary = sw then .ok ((sw, x.bank), o) else .error (.error causePAGE)
    | none, some o => .ok (o, none)
    | none, none => match (SMap.get? (s.switch sw).lost key).bind (·.lostAt) with
      | some w => if down sw || down w then .error (.error causeLOST) else .error (.wait 0 [])
      | none => .error (.error causePAGE)

/-- The location of a byte of a bank page. -/
def copyLoc (c : Copy) (addr : Nat) : Nat := moraineLoc c.1 c.2 (addr % 2 ^ 21)

/-! ### Serving a request -/

/-- A request that waits at a directory: runs that must give way to it abort, and it takes its place among those that wait there (R261). -/
def State.waitsFor (s : State) (a : Agent) (kind : Nat) (tiles : List Nat) : State :=
  if tiles = [] then s else (s.resolveConflicts a kind tiles).1

/-- Whether a write of some locations in a context is of a part of a line whose other bytes are uncorrectable; a frame that it takes is zeroed
first (R285, R364). -/
def State.partialBad (s : State) (ctx : Nat) (locs : List Nat) : Bool :=
  s.badMem.any fun b => !s.foreign ctx b && (locs.any fun l => decide (lineOf l = lineOf b)) && !locs.contains b

/-- An access at a peer's home: conflicts with runs there (R261), lines in X (R167), uncorrectable data (R285), watch entries that
only note the hit (R352), and the frame's owner (R364). `kind` is the request kind of R260, `hit` the kind of a watch hit; the state
after the access is admitted, or the reply that ends it. -/
def State.clash (s : State) (a : Agent) (kind hit key : Nat) (locs : List Nat) : State × Option Reply :=
  if (locs.any fun l => s.xlines.contains (lineOf l)) || decide (s.frameLines a.ctx locs ≠ []) then (s, some (.wait kind []))
  else
    match s.resolveAll a ((kind, (locs.map tileOf).foldl insertNew []) :: s.frameRequests a.ctx locs) with
    | (_, some (k, tiles, _)) => (s, some (.wait k tiles))
    | (s, none) =>
      let bad := if kind = reqRead ∨ hit = kindAmo then locs.any fun l => s.badMem.contains l && !s.foreign a.ctx l
        else s.partialBad a.ctx locs
      if bad then (s, some (.error causeDATA))
      else
        let s := (s.watchHits a hit (locs.map fun l => (a.servedAt false l, l))).foldl (fun s h => s.performHit a hit h) s
        (locs.foldl (fun s l => s.touchFrame key l a.ctx) s, none)

/-- Whether an engine holds in X a line of the range table that a source module's request is checked against (R135, R167). -/
def State.peerTableHeld (s : State) (src dst : Nat) : Bool :=
  let base := bits (s.module dst).peertab.toNat 51 20 * 2 ^ 20
  s.xlines ≠ [] && decide (base ≠ 0)
    && (List.range 8).any fun i => s.xlines.contains (lineOf (locOf dst (base + 1024 * src + 128 * i)))

/-- A request for n bytes at a peer: it waits for a module that is absent and for the range table's lines, and is refused unless an entry
of its source holds all of its bytes and grants `need` (R135). A request without bytes is checked for the four bytes at its address (R148). -/
def State.atPeer (s : State) (a : Agent) (dest addr n need : Nat) (k : Nat → State × Reply) : State × Reply :=
  if !s.present.contains dest || s.peerTableHeld a.module dest then (s, .wait 0 [])
  else match s.peerKey a.module dest addr (if n = 0 then 4 else n) need with
    | none => (s, .error causeREMOTE)
    | some key => k key

/-- A read of n bytes from a peer (`dest` a module) or from Moraine memory (R135, R326). -/
def State.serveRead (s : State) (a : Agent) (dest addr n : Nat) : State × Reply :=
  if dest < 1024 then
    s.atPeer a dest addr n rangeR fun key =>
      let locs := (List.range n).map fun i => locOf dest (addr + i)
      match s.clash a reqRead kindRead key locs with
      | (s, some r) => (s, r)
      | (s, none) => (s, .done (locs.map fun l => s.byte key l))
  else
    match s.moraineCopies a.module a.ctx addr with
    | .error r => (s, r)
    | .ok (c, _) =>
      let locs := (List.range n).map fun i => copyLoc c (addr + i)
      if locs.any fun l => s.badMem.contains l then (s, .error causeDATA)
      else (s, .done (locs.map fun l => s.byte 0 l))

/-- Writes bytes at consecutive addresses of both copies of a Moraine page (R332). -/
def State.setMoraine (s : State) (cs : Copy × Option Copy) (addr : Nat) (bs : List Byte) : State :=
  let s := s.setBytes none 0 (cellsAt (copyLoc cs.1 addr) bs)
  match cs.2 with
  | some c => s.setBytes none 0 (cellsAt (copyLoc c addr) bs)
  | none => s

/-- Whether a write of n bytes of a Moraine page is, at one of its copies, of a part of a line whose other bytes are uncorrectable (R285,
R326). -/
def State.morainePartialBad (s : State) (cs : Copy × Option Copy) (addr n : Nat) : Bool :=
  let at_ (c : Copy) : List Nat := (List.range n).map fun i => copyLoc c (addr + i)
  s.partialBad 0 (at_ cs.1) || (match cs.2 with
    | some c => s.partialBad 0 (at_ c)
    | none => false)

/-- A write of bytes to a peer or to Moraine memory (R135, R326, R332). -/
def State.serveWrite (s : State) (a : Agent) (dest addr : Nat) (bs : List Byte) : State × Reply :=
  if dest < 1024 then
    s.atPeer a dest addr bs.length rangeW fun key =>
      let locs := (List.range bs.length).map fun i => locOf dest (addr + i)
      match s.clash a reqWrite kindWrite key locs with
      | (s, some r) => (s, r)
      | (s, none) => (s.setBytes none key (locs.zip bs), .done [])
  else
    match s.moraineCopies a.module a.ctx addr with
    | .error r => (s, r)
    | .ok cs =>
      if s.morainePartialBad cs addr bs.length then (s, .error causeDATA) else (s.setMoraine cs addr bs, .done [])

/-- An atomic at a peer or at a switch: the old value in 8 bytes (R149). A peer's range must permit reads, writes and atomics (R135; DESIGN
CHOICE, log 82). -/
def State.serveAmo (s : State) (a : Agent) (dest addr op w x y : Nat) : State × Reply :=
  if dest < 1024 then
    s.atPeer a dest addr w (rangeR + rangeW + rangeA) fun key =>
      let locs := (List.range w).map fun i => locOf dest (addr + i)
      match s.clash a reqWrite kindAmo key locs with
      | (s, some r) => (s, r)
      | (s, none) =>
        let old := leNat (locs.map fun l => s.byte key l)
        let s := match amoValue op w old x y with
          | some v => s.setBytes none key (locs.zip (leBytes w v))
          | none => s.coverWatches none locs
        (s, .done (leBytes 8 old))
  else
    match s.moraineCopies a.module a.ctx addr with
    | .error r => (s, r)
    | .ok cs =>
      if (List.range w).any fun i => s.badMem.contains (copyLoc cs.1 addr + i) then (s, .error causeDATA)
      else
        let old := s.num (copyLoc cs.1 addr) w
        let s := match amoValue op w old x y with
          | some v => s.setMoraine cs addr (leBytes w v)
          | none => s
        (s, .done (leBytes 8 old))

/-- A reduction at a peer or at a switch (R150). -/
def State.serveRed (s : State) (a : Agent) (dest addr op w x : Nat) : State × Reply :=
  if dest < 1024 then
    s.atPeer a dest addr w rangeW fun key =>
      let locs := (List.range w).map fun i => locOf dest (addr + i)
      match s.clash a reqWrite kindWrite key locs with
      | (s, some r) => (s, r)
      | (s, none) =>
        let old := leNat (locs.map fun l => s.byte key l)
        (s.setBytes none key (locs.zip (leBytes w (redValue op w old x))), .done [])
  else
    match s.moraineCopies a.module a.ctx addr with
    | .error r => (s, r)
    | .ok cs =>
      if s.morainePartialBad cs addr w then (s, .error causeDATA)
      else
        let old := s.num (copyLoc cs.1 addr) w
        (s.setMoraine cs addr (leBytes w (redValue op w old x)), .done [])

end Sys2Proof.Machine
end

