-- ==== Sys2Proof/Machine/Engine.lean ====
section
/-! DEFINITION. Accesses of engines (copy engines, access processors, near-bank units), and tiles as engines move them
(10_consistency R166, R167; 17_copies R239, R240, R242; 08_memory_spaces R127). -/

namespace Sys2Proof.Machine

/-! ### Accesses -/

/-- A request of an engine to bytes of its module comes to the home: none where it goes on, the runs that must give way aborted; else it
waits, for a line that is in X for another operation, or for a run's tile (R167, R261). `own` are the lines that the operation holds. -/
def State.engineAdmit (s : State) (a : Agent) (e : Nat) (xs : SMap Xlat) (kind : Nat) (own vas : List Nat) : State × Option Reply :=
  if (s.heldLines a e xs vas).any fun l => !own.contains l then (s, some (.wait kind []))
  else
    match s.resolveAll a (s.accessRequests a kind e xs vas) with
    | (_, some (k, tiles, _)) => (s, some (.wait k tiles))
    | (s, none) => (s, none)

/-- Reads of far bytes, run by run of consecutive addresses; the bytes in order (R169). -/
def State.farBytes (s : State) (a : Agent) : List (Nat × Nat × Nat) → State × Reply
  | [] => (s, .done [])
  | (dest, addr, n) :: rest =>
    match s.serveRead a dest addr n with
    | (s, .done bs) =>
      match s.farBytes a rest with
      | (s, .done cs) => (s, .done (bs ++ cs))
      | r => r
    | r => r

/-- Writes of far bytes, run by run of consecutive addresses; where one is not served none is written (R169, R242). -/
def State.farCells (s : State) (a : Agent) : List (Nat × Nat × List Byte) → State × Reply
  | [] => (s, .done [])
  | (dest, addr, bs) :: rest =>
    match s.serveWrite a dest addr bs with
    | (s', .done _) => match s'.farCells a rest with
      | (s', .done _) => (s', .done [])
      | (_, r) => (s, r)
    | (_, r) => (s, r)

/-- Where a far address goes and what it carries (R322, R326, R134). -/
def farOf (e : Nat) (xs : SMap Xlat) (va : Nat) : Nat × Nat := farTarget xs (decide (laySpace e = 4)) va

/-- The runs of a peer or Moraine access of an engine: target, address and length (R322, R323). -/
def farReads (e : Nat) (xs : SMap Xlat) (vas : List Nat) : List (Nat × Nat × Nat) :=
  (farSpans xs (decide (laySpace e = 4)) vas).map fun r => let d := farOf e xs r.1; (d.1, d.2, r.2)

/-- The same for a write, with the bytes. -/
def farWrites (e : Nat) (xs : SMap Xlat) (cells : List (Nat × Byte)) : List (Nat × Nat × List Byte) :=
  (farRuns xs (decide (laySpace e = 4)) cells).map fun r => let d := farOf e xs r.1; (d.1, d.2, r.2)

/-- What the range table or the page maps say of a far request, before it is made (R135, R326). -/
def State.farCheck (s : State) (a : Agent) (need : Nat) (r : Nat × Nat × Nat) : Reply :=
  if r.1 < 1024 then (s.atPeer a r.1 r.2.1 r.2.2 need fun _ => (s, .done [])).2
  else match s.moraineCopies a.module a.ctx r.2.1 with
    | .error x => x
    | .ok _ => .done []

/-- A byte as an agent outside any run finds it: in its die's directed copy or in memory (R140). -/
def State.byteAt (s : State) (a : Agent) (e : Nat) (xs : SMap Xlat) (va : Nat) : Byte :=
  if directedAt e xs va then s.directedByte a.die (xlatKey xs va) (xlatLoc xs va) else s.byte (xlatKey xs va) (xlatLoc xs va)

/-- An engine reads bytes through an entry and its translated pages (R140, R242, R285). -/
def State.engineReadAt (s : State) (a : Agent) (e : Nat) (xs : SMap Xlat) (own vas : List Nat) : State × Reply :=
  if 3 ≤ laySpace e then
    s.farBytes a (farReads e xs vas)
  else
    match s.engineAdmit a e xs reqRead own vas with
    | (s, some r) => (s, r)
    | (s, none) =>
      if (s.badFor a e xs true vas).isSome then (s, .error causeDATA)
      else
        let s := (s.watchHits a kindRead (vas.map (placeOf a e xs))).foldl (fun s h => s.performHit a kindRead h) s
        let s := s.touchBytes a e xs vas
        (s, .done (vas.map (s.byteAt a e xs)))

/-- The pages of some addresses translated for an engine; PAGE where one fails, and it waits where a walk is held (R167, R242). A Moraine
address is checked at its switch. -/
def State.engineXlat (s : State) (a : Agent) (e need : Nat) (dirty : Bool) (vas : List Nat) : State × Except Reply (SMap Xlat) :=
  if laySpace e = 4 then (s, .ok [])
  else if s.tableWaits a (laySpace e) (layModule e) need dirty (pagesOf vas) ≠ [] then (s, .error (.wait reqRead []))
  else match s.resolveAll a (s.walkRequests a (laySpace e) (layModule e) need dirty (pagesOf vas)) with
    | (_, some (k, tiles, _)) => (s, .error (.wait k tiles))
    | (s, none) =>
      match s.translateAll a (laySpace e) (layModule e) need dirty (pagesOf vas) with
      | (s, .error _) => (s, .error (.error causePAGE))
      | (s, .ok xs) => (s, .ok xs)

/-- An engine translates and reads bytes. -/
def State.engineRead (s : State) (a : Agent) (e : Nat) (own vas : List Nat) : State × Reply :=
  match s.engineXlat a e permR false vas with
  | (s, .error r) => (s, r)
  | (s, .ok xs) => s.engineReadAt a e xs own vas

/-- A write inside the module of an agent that is no thread's issue; `put` gives the bytes written from the bytes before, so that a
reduction is one access; `writer` is the thread whose own watches do not fire. A write of part of a line whose other bytes are
uncorrectable reports DATA_ERROR (R155, R242, R285). -/
def State.updateAt (s : State) (a : Agent) (writer : Option Nat) (e : Nat) (xs : SMap Xlat) (own vas : List Nat)
    (put : List Byte → List Byte) : State × Reply :=
  match s.engineAdmit a e xs reqWrite own vas with
  | (s, some r) => (s, r)
  | (s, none) =>
    if (s.badFor a e xs false vas).isSome then (s, .error causeDATA)
    else
      let s := (s.watchHits a kindWrite (vas.map (placeOf a e xs))).foldl (fun s h => s.performHit a kindWrite h) s
      let s := s.touchBytes a e xs vas
      ((vas.zip (put (vas.map (s.byteAt a e xs)))).foldl (fun s c =>
        if directedAt e xs c.1 then s.setDirectedByte a.die (xlatKey xs c.1) (xlatLoc xs c.1) c.2
        else s.setByte writer (xlatKey xs c.1) (xlatLoc xs c.1) c.2) s, .done [])

/-- An engine writes bytes inside its module (R242). -/
def State.engineUpdateAt (s : State) (a : Agent) (e : Nat) (xs : SMap Xlat) (own vas : List Nat) (put : List Byte → List Byte) :
    State × Reply := s.updateAt a none e xs own vas put

/-- An engine writes cells through an entry and its translated pages. -/
def State.engineWriteAt (s : State) (a : Agent) (e : Nat) (xs : SMap Xlat) (own : List Nat) (cells : List (Nat × Byte)) :
    State × Reply :=
  if 3 ≤ laySpace e then
    s.farCells a (farWrites e xs cells)
  else s.engineUpdateAt a e xs own (cells.map (·.1)) fun _ => cells.map (·.2)

/-- An engine translates and writes cells. -/
def State.engineWrite (s : State) (a : Agent) (e : Nat) (own : List Nat) (cells : List (Nat × Byte)) : State × Reply :=
  match s.engineXlat a e permW (decide (cells ≠ [])) (cells.map (·.1)) with
  | (s, .error r) => (s, r)
  | (s, .ok xs) => s.engineWriteAt a e xs own cells

/-- An engine translates an element of width w and applies a reduction to it (R150). -/
def State.engineRed (s : State) (a : Agent) (e : Nat) (own : List Nat) (va op w x : Nat) : State × Reply :=
  match s.engineXlat a e permW true (span va w) with
  | (s, .error r) => (s, r)
  | (s, .ok xs) =>
    if 3 ≤ laySpace e then let d := farOf e xs va; s.serveRed a d.1 d.2 op w x
    else s.engineUpdateAt a e xs own (span va w) fun old => leBytes w (redValue op w (leNat old) x)

/-- The lines that a COHERENT write through an entry takes into X; the reply where the engine must wait for one of them (R166, R242). -/
def State.engineTake (s : State) (a : Agent) (e : Nat) (xs : SMap Xlat) (own vas : List Nat) : State × Except Reply (List Nat) :=
  if 3 ≤ laySpace e then (s, .ok [])
  else match s.engineAdmit a e xs reqWrite own vas with
    | (s, some r) => (s, .error r)
    | (s, none) =>
      (s, .ok ((vas.filter fun v => !directedAt e xs v).foldl (fun ls v => insertNew ls (lineOf (xlatLoc xs v))) []))

/-- Takes lines into X. -/
def State.takeX (s : State) (ls : List Nat) : State := { s with xlines := ls.foldl insertNew s.xlines }

/-- Returns lines from X. -/
def State.returnX (s : State) (ls : List Nat) : State := { s with xlines := s.xlines.filter fun l => !ls.contains l }

/-! ### Tiles (R127, R239) -/

/-- Element size of a shaping entry: bytes for a linear one. -/
def shapeElem (e : Nat) : Nat := if layKind e = 1 then 1 else layEsize e

/-- Tile extents of a shaping entry, dimension 0 first: a linear tile is TILE1 + 1 rows of TILE0 + 1 bytes. -/
def tileDims (e : Nat) : List Nat := (List.range (if layKind e = 1 then 2 else layKind e)).map (layTile e)

/-- The number of elements of a tile. -/
def tileCount (e : Nat) : Nat := (tileDims e).foldl (· * ·) 1

/-- P: the bytes of the packed image. -/
def imageBytes (e : Nat) : Nat := tileCount e * shapeElem e

/-- The tile-local coordinates of the n-th element, dimension 0 fastest. -/
def localCoords : List Nat → Nat → List Nat
  | [], _ => []
  | d :: ds, n => n % d :: localCoords ds (n / d)

/-- The coordinates of element n of a shaping entry's tile in a tiled entry whose tile begins at packed coordinates. -/
def tilePlace (e shape at_ n : Nat) : List Nat :=
  let t := localCoords (tileDims shape) n
  (List.range (layKind e)).map fun i => (unpackCoords e at_).getD i 0 + t.getD i 0

/-- The virtual address of byte b of the packed image on one side of a transfer; none where its element is clipped (R239, R240). -/
def imageVa (e shape at_ b : Nat) : Option Nat :=
  if layKind e = 1 then some ((layBase e + at_ + b) % 2 ^ 64)
  else
    let xs := tilePlace e shape at_ (b / shapeElem shape)
    if layOutside e xs then none else some ((layVa e xs + b % shapeElem shape) % 2 ^ 64)

/-- Byte j of an entry's PAD element (R122). -/
def padByte (e j : Nat) : Byte := BitVec.ofNat 8 (layPad e / 2 ^ (8 * j))

/-- Dimensions in which some element that the tile covers is clipped, as a mask: the coordinates and the entries alone decide it (R127,
R240). -/
def clipMask (e shape at_ : Nat) : Nat :=
  if layKind e = 1 then 0
  else (List.range (layKind e)).foldl (fun m i =>
    if layDim e i < (unpackCoords e at_).getD i 0 + (tileDims shape).getD i 1 then m + 2 ^ i else m) 0

end Sys2Proof.Machine
end

