-- ==== Sys2Proof/Machine/Copy.lean ====
section
/-! DEFINITION. Copies and multicast: XCOPY, XMCAST, MSUB and MUNSUB, opcodes 0x58 to 0x5A, and the steps of the copy engine
(17_copies R238 to R250; 02_execution_model R40). -/

namespace Sys2Proof.Machine

/-! ### The descriptor and its checks (R238 to R241) -/

def CopyOp.agent (o : CopyOp) : Agent := { thread := o.thread, unit := 3, cluster := o.cluster, ctx := o.ctx, heap := o.heap }

/-- The shaping entry (R239). -/
def CopyOp.shape (o : CopyOp) : Nat :=
  if layKind o.src.toNat = 1 ∧ o.multicast = false ∧ 2 ≤ layKind o.dst.toNat then o.dst.toNat else o.src.toNat

/-- The source address of byte b of the image, none where it reads as PAD. -/
def CopyOp.srcVa (o : CopyOp) (b : Nat) : Option Nat := imageVa o.src.toNat o.shape o.srcAt.toNat b

/-- The destination address of byte b of the image, none where it is not written; an XMCAST writes nothing itself. -/
def CopyOp.dstVa (o : CopyOp) (b : Nat) : Option Nat :=
  if o.multicast then none else imageVa o.dst.toNat o.shape o.dstAt.toNat b

/-- The tiled pair rules of R239. -/
def pairOk (src dst : Nat) : Bool :=
  decide (layKind src < 2 ∨ layKind dst < 2)
  || (decide (layEsize src = layEsize dst)
    && (List.range (layKind src)).all fun i => decide (i < layKind dst) || decide (layTile src i = 1))

/-- Whether a linear side covers its bytes within its extent. -/
def linearFits (e at_ n : Nat) : Bool := decide (layKind e ≠ 1 ∨ at_ + n ≤ layExtent e)

/-- The must-be-zero bits of a copy's descriptor (R238, R249). -/
def copyWordsOk (w : List Nat) (mc : Bool) : Bool :=
  let w0 := w.getD 0 0
  let w3 := w.getD 3 0
  decide (w0 / 2 ^ 45 = 0 ∧ w3 / 2 ^ 48 = 0) && (if mc then decide (bits w0 15 8 = 0) else decide (bits w3 47 32 = 0))

/-- The checks of XCOPY and of XMCAST at issue, in order (R241, R249): the operation, with its clip mask (R240). A LINEAR side covers the
whole tile, whatever LIMIT moves (R127, R239). -/
def State.copyChecks (s : State) (t : Nat) (i : Instr) (w : List Nat) (mc : Bool) (scope : Nat) : Except Trap (CopyOp × Nat) :=
  let w0 := w.getD 0 0
  let w3 := w.getD 3 0
  let srcl := bits w0 7 0
  let dstl := bits w0 15 8
  let tag := bits w3 47 32
  let limit := bits w3 31 0
  let src := s.layoutEntry t srcl
  let dst := if mc then 0 else s.layoutEntry t dstl
  let bad (l : Nat) : Except Trap (CopyOp × Nat) := .error (causeLAYOUT, BitVec.ofNat 64 l)
  if copyWordsOk w mc = false then
    .error (causeILLEGAL, (encode i).setWidth 64)
  else if !layValid src || !layGrants src 1 then bad srcl
  else if !mc && (!layValid dst || !layGrants dst 2 || !pairOk src dst) then bad dstl
  else
    let a := s.agent t
    let o : CopyOp := {
      thread := t, region := s.recordRegion t, ctx := a.ctx, cluster := a.cluster, multicast := mc
      src := BitVec.ofNat 512 src, dst := BitVec.ofNat 512 dst
      srcAt := BitVec.ofNat 64 (w.getD 1 0), dstAt := BitVec.ofNat 64 (w.getD 2 0)
      tag := tag, scope := scope, cnt := bits w0 27 16, heap := a.heap }
    let p := imageBytes o.shape
    let n := if limit = 0xFFFFFFFF then p else min limit p
    if !linearFits src (w.getD 1 0) p then bad srcl
    else if !mc && !linearFits dst (w.getD 2 0) p then bad dstl
    else if limit ≠ 0xFFFFFFFF ∧ limit % shapeElem o.shape ≠ 0 then .error (alignIndex srcl)
    else
      let sel := bits w0 44 28
      let denied : Except Trap (CopyOp × Nat) := .error (causeREMOTE, BitVec.ofNat 64 sel)
      match selectCluster t sel with
      | none => denied
      | some cl =>
        if !s.signalOk t cl (bits w0 27 16) then denied
        else
          let sclip := clipMask src o.shape (w.getD 1 0)
          let dclip := if mc then 0 else clipMask dst o.shape (w.getD 2 0)
          let writes := mc || (List.range n).any fun b => (o.dstVa b).isSome
          .ok ({ o with sel := cl, limit := if writes then n else 0 },
            sclip + dclip * 16 + (if limit < p then 256 else 0))

/-- Appends a copy to the engine of its cluster. -/
def State.submitCopy (s : State) (o : CopyOp) : State :=
  let c := s.cluster o.cluster
  s.setCluster o.cluster { c with copies := c.copies ++ [o] }

/-- XCOPY and XMCAST: checks, XCLIP, and the operation handed to the engine, or held in a run (R241, R242, R246, R249). -/
def startCopy (i : Instr) (a : BitVec 6) (mc : Bool) (scope : Nat) (s : State) : Out :=
  match s.copyChecks s.cur i (s.group a 4) mc scope with
  | .error x => .next (s.trapWith x)
  | .ok (o, clip) =>
    let s := s.setMe { s.me with xclip := BitVec.ofNat 9 clip }
    if s.me.run.active then .next ((s.hold { instr := i, copy := some o }).retire)
    else .next ((s.submitCopy o).park .copy)

def execXcopy (a : BitVec 6) (sc : BitVec 3) (s : State) : Out := startCopy (.xcopy a sc) a false sc.toNat s

def execXmcast (a : BitVec 6) (sc : BitVec 3) (s : State) : Out := startCopy (.xmcast a sc) a true sc.toNat s

/-! ### Acceptance (R242, R245) -/

/-- The page of an address of an operation, with its size: as the translation gives it; 2 MiB of Moraine memory; a piece of 64 KiB of the
heap window, which has no pages (log 18). -/
def xlatPage (e : Nat) (xs : SMap Xlat) (va : Nat) : Nat × Nat :=
  let size := if laySpace e = 4 then 2 ^ 21 else (SMap.getD xs (va / 65536) {}).size
  (size, va / size)

/-- The parts of an operation's first n bytes, each as its first byte and its length (R242). -/
def CopyOp.parts (o : CopyOp) (n : Nat) : List (Nat × Nat) :=
  let clash (x y : Option (Nat × Nat)) : Bool := match x, y with
    | some p, some q => decide (p ≠ q)
    | _, _ => false
  let keep (x y : Option (Nat × Nat)) : Option (Nat × Nat) := match y with
    | some q => some q
    | none => x
  let r := (List.range n).foldl (fun (acc : List (Nat × Nat) × Option (Nat × Nat) × Option (Nat × Nat)) b =>
    let ps := (o.srcVa b).map (xlatPage o.src.toNat o.srcX)
    let pd := (o.dstVa b).map (xlatPage o.dst.toNat o.dstX)
    match acc with
    | ([], _, _) => ([(b, 1)], ps, pd)
    | ((b0, k) :: rest, sp, dp) =>
      if clash sp ps || clash dp pd then ((b, 1) :: (b0, k) :: rest, ps, pd)
      else ((b0, k + 1) :: rest, keep sp ps, keep dp pd)) ([], none, none)
  r.1.reverse

/-- The source addresses of a part. -/
def CopyOp.srcVas (o : CopyOp) (p : Nat × Nat) : List Nat := (List.range p.2).filterMap fun k => o.srcVa (p.1 + k)
def CopyOp.dstVas (o : CopyOp) (p : Nat × Nat) : List Nat := (List.range p.2).filterMap fun k => o.dstVa (p.1 + k)

/-- The pages of 64 KiB that an operation's bytes need, in image order, each once: true for a destination (R242). -/
def CopyOp.demands (o : CopyOp) (n : Nat) : List (Bool × Nat) :=
  let side (w : Bool) (e : Nat) (v : Option Nat) : List (Bool × Nat) :=
    if laySpace e = 4 then [] else (v.map fun x => (w, x / 65536)).toList
  ((List.range n).foldl (fun (acc : List (Bool × Nat)) b =>
    (side false o.src.toNat (o.srcVa b) ++ side true o.dst.toNat (o.dstVa b)).foldl
      (fun acc d => if acc.contains d then acc else d :: acc) acc) []).reverse

/-- Translates the pages of an operation in image order, up to the first that fails: then the cause is PAGE (R242, R245). -/
def State.acceptPages (s : State) (o : CopyOp) : List (Bool × Nat) → State × Except Reply CopyOp
  | [] => (s, .ok o)
  | (w, p) :: ds =>
    match s.engineXlat o.agent (if w then o.dst.toNat else o.src.toNat) (if w then permW else permR) w [p * 65536] with
    | (s, .error (.wait k ts)) => (s, .error (.wait k ts))
    | (s, .error _) => (s, .ok { o with cause := causePAGE })
    | (s, .ok xs) =>
      s.acceptPages (if w then { o with dstX := xs.foldl (fun m x => SMap.set m x.1 x.2) o.dstX }
        else { o with srcX := xs.foldl (fun m x => SMap.set m x.1 x.2) o.srcX }) ds

/-- Whether every page of a part is translated. -/
def CopyOp.partReady (o : CopyOp) (p : Nat × Nat) : Bool :=
  ((o.srcVas p).all fun v => decide (laySpace o.src.toNat = 4) || SMap.has o.srcX (v / 65536))
  && (o.dstVas p).all fun v => decide (laySpace o.dst.toNat = 4) || SMap.has o.dstX (v / 65536)

/-- The image bytes before the first part that failed (R242). -/
def CopyOp.ready (o : CopyOp) (n : Nat) : Nat := (((o.parts n).find? fun p => !o.partReady p).map (·.1)).getD n

/-- The translation of the first element's byte on one side, for a copy that moves no byte (R245). -/
def State.firstByte (s : State) (a : Agent) (e need at_ : Nat) : State × Except Reply Nat :=
  let va := if layKind e = 1 then (layBase e + at_) % 2 ^ 64 else layVa e (unpackCoords e at_)
  match s.engineXlat a e need false [va] with
  | (s, .ok _) => (s, .ok 0)
  | (s, .error (.wait k ts)) => (s, .error (.wait k ts))
  | (s, .error _) => (s, .ok causePAGE)

/-- Whether a posted store or reduction of a thread to Moraine memory has not been performed yet (R142, R166). -/
def State.postedAhead (s : State) (t : Nat) : Bool :=
  s.net.any fun p => p.posted && decide (p.thread = t ∧ p.srcu ≤ 1 ∧ (p.kind = 1 ∨ p.kind = 3))

/-- Whether an operation may not be accepted yet: a page of it has live side-log entries of the issuing core, or the thread's earlier
writes to Moraine memory, which the operation must see, are still on their way (R166). -/
def State.copyHeld (s : State) (o : CopyOp) : Bool :=
  let at_ (e : Nat) (v : Option Nat) : List Nat := if laySpace e = 4 then [] else v.toList
  let vas := (List.range o.limit).flatMap fun b => at_ o.src.toNat (o.srcVa b) ++ at_ o.dst.toNat (o.dstVa b)
  decide ((s.core (threadCore o.thread)).livePages o.ctx (pagesOf vas) ≠ [])
  || (decide (laySpace o.src.toNat = 4 ∨ laySpace o.dst.toNat = 4) && s.postedAhead o.thread)

/-- The first part of an operation that a peer or a switch refuses, as acceptance finds it: its first image byte and the cause; the reply where
that cannot be told yet (R135, R242, R326). -/
def State.refusedPart (s : State) (o : CopyOp) : List (Nat × Nat) → Except Reply (Option (Nat × Nat))
  | [] => .ok none
  | p :: ps =>
    let far (e need : Nat) (xs : SMap Xlat) (vas : List Nat) : List (Nat × Nat × Nat × Nat) :=
      if 3 ≤ laySpace e then (farReads e xs vas).map fun r => (need, r) else []
    let runs := far o.src.toNat rangeR o.srcX (o.srcVas p) ++ far o.dst.toNat rangeW o.dstX (o.dstVas p)
    match runs.findSome? fun r => match s.farCheck o.agent r.1 r.2 with
      | .done _ => none
      | x => some x with
    | none => s.refusedPart o ps
    | some (.error c) => .ok (some (p.1, c))
    | some r => .error r

/-- The lines that the copies of a thread in a cluster hold in X: an earlier one does not wait for a later one's (R244). -/
def State.threadLines (s : State) (cl t : Nat) : List Nat :=
  ((s.cluster cl).copies.filter fun o => decide (o.thread = t)).flatMap (·.lines)

/-- Acceptance of one operation: its pages are translated, and the COHERENT destination lines of the parts before the first that fails are
taken; the reply where it waits (R166, R242, R245). -/
def State.acceptCopy (s : State) (o : CopyOp) : State × Except Reply CopyOp :=
  let n := o.limit
  if s.copyHeld o then (s, .error (.wait reqRead []))
  else if n = 0 then
    match s.firstByte o.agent o.src.toNat permR o.srcAt.toNat with
    | (s, .error r) => (s, .error r)
    | (s, .ok c) =>
      if o.multicast then (s, .ok { o with cause := c })
      else match s.firstByte o.agent o.dst.toNat permW o.dstAt.toNat with
        | (s, .error r) => (s, .error r)
        | (s, .ok c') => (s, .ok { o with cause := if c ≠ 0 then c else c' })
  else match s.acceptPages o (o.demands n) with
    | (s, .error r) => (s, .error r)
    | (s, .ok o) =>
      let o := { o with moved := o.ready n }
      match s.refusedPart o (o.parts o.moved) with
      | .error r => (s, .error r)
      | .ok bad =>
      let o := match bad with
        | some (b, c) => { o with moved := b, cause := c }
        | none => o
      if o.multicast then (s, .ok o)
      else match s.engineTake o.agent o.dst.toNat o.dstX o.lines (o.dstVas (0, o.moved)) with
        | (s, .error r) => (s, .error r)
        | (s, .ok ls) => (s, .ok { o with lines := ls })

/-- What an engine's operation leaves where it waits: the runs that must give way have aborted, and it waits in its turn (R261). -/
def State.engineHolds (s : State) (a : Agent) : Reply → State
  | .wait k ts => s.waitsFor a k ts
  | _ => s

/-- The place of the first operation that waits for acceptance. -/
def firstWaiting : List CopyOp → Option Nat
  | [] => none
  | o :: os => if o.accepted then (firstWaiting os).map (· + 1) else some 0

/-- COPY_ACCEPT at a cluster: the oldest operation that waits is accepted when fewer than 64 are, and its thread wakes; where it
cannot be accepted yet the state is as before. -/
def State.copyAccept (s : State) (cl : Nat) : State :=
  let c := s.cluster cl
  match firstWaiting c.copies with
  | none => s
  | some i =>
    let o := c.copies.getD i {}
    if 64 ≤ (c.copies.filter (·.accepted)).length then s
    else match s.acceptCopy o with
      | (_, .error r) => s.engineHolds o.agent r
      | (s', .ok o') =>
        let s' := s'.takeX o'.lines
        let k := s'.cluster cl
        let s' := s'.setCluster cl { k with copies := k.copies.set i { o' with accepted := true } }
        if o.wake && decide ((s'.thr o.thread).wait = .copy) then s'.complete o.thread .none else s'

def execCopyAccept (cl : Nat) (s : State) : Out := .next (s.copyAccept cl)

/-! ### Performing and completing (R242 to R244, R249) -/

/-- The image bytes of a part, read from the source. -/
def CopyOp.fill (o : CopyOp) (p : Nat × Nat) (bs : List Byte) : List Byte :=
  ((List.range p.2).foldl (fun (acc : List Byte × List Byte) k =>
    let b := p.1 + k
    match o.srcVa b, acc.1 with
    | some _, x :: rest => (rest, x :: acc.2)
    | some _, [] => ([], 0 :: acc.2)
    | none, rest => (rest, padByte o.src.toNat (b % shapeElem o.shape) :: acc.2)) (bs, [])).2.reverse

/-- Performs parts in image order; the state, the image bytes read, and the cause of the part that stopped it; the reply where the engine
must wait (R242). Lines that a later copy of the thread has taken do not hold it (R244). -/
def State.performParts (s : State) (o : CopyOp) : List (Nat × Nat) → Except Reply (State × List Byte × Nat)
  | [] => .ok (s, [], 0)
  | p :: ps =>
    let own := o.lines ++ s.threadLines o.cluster o.thread
    match s.engineReadAt o.agent o.src.toNat o.srcX own (o.srcVas p) with
    | (_, .wait k ts) => .error (.wait k ts)
    | (s, .error c) => .ok (s, [], c)
    | (s, .done bs) =>
      let img := o.fill p bs
      let cells := ((List.range p.2).zip img).filterMap fun x => (o.dstVa (p.1 + x.1)).map fun v => (v, x.2)
      match (if cells = [] then (s, .done []) else s.engineWriteAt o.agent o.dst.toNat o.dstX own cells) with
      | (_, .wait k ts) => .error (.wait k ts)
      | (s, .error c) => .ok (s, [], c)
      | (s, .done _) =>
        match s.performParts o ps with
        | .error r => .error r
        | .ok (s, more, c) => .ok (s, img ++ more, c)

/-- Pieces of at most 1,016 bytes with their offsets; one empty piece where there is no byte (R249). -/
def mcPieces : Nat → Nat → List Byte → List (Nat × List Byte)
  | 0, _, _ => []
  | fuel + 1, off, bs =>
    if bs.length ≤ 1016 then [(off, bs)] else (off, bs.take 1016) :: mcPieces fuel (off + 1016) (bs.drop 1016)

/-- The packets of a multicast image or of a result (R249, R337): the last carries LAST and a status. -/
def mcPackets (p : Packet) (dst : Word) (bs : List Byte) (cause : Nat) : List Packet :=
  let ps := mcPieces (bs.length / 1016 + 1) 0 bs
  ps.map fun x =>
    let last := decide (x.1 + 1016 ≥ bs.length)
    { p with aux := x.1, payload := leBytes 8 dst.toNat ++ x.2, last := last, status := if last then cause else 0 }

/-- Removes the operation at a place of a cluster's engine. -/
def State.dropCopy (s : State) (cl i : Nat) : State :=
  let c := s.cluster cl
  s.setCluster cl { c with copies := c.copies.eraseIdx i }

/-- The switch of a module's pod that carries a tag (R248). -/
def tagSwitch (m tag : Nat) : Nat := m / 72 * 16 + tag % 16

/-- COPY_COMPLETE of the operation at a place: its parts are performed, its lines return, and its counter is decremented; an XMCAST
sends its packets, and completes when they are acknowledged. An operation that must wait returns its lines first (R261); one that is
not accepted, or that an earlier one of its thread precedes, leaves the state as it is. -/
def State.copyComplete (s : State) (cl i : Nat) : State :=
  let c := s.cluster cl
  match c.copies[i]? with
  | none => s
  | some o =>
    if !o.accepted || o.sent || (c.copies.take i).any (fun x => decide (x.thread = o.thread)) then s
    else match s.performParts o (o.parts o.moved) with
      | .error r =>
        let s := (s.returnX o.lines).engineHolds o.agent r
        let k := s.cluster cl
        s.setCluster cl { k with copies := k.copies.set i { o with lines := [] } }
      | .ok (s, img, bad) =>
        let cause := if bad ≠ 0 then bad else o.cause
        let s := s.returnX o.lines
        if o.multicast then
          let p : Packet := { kind := 19, thread := o.thread, srcu := 3, from_ := clusterModule cl, region := o.region, ctx := o.ctx
                              dest := 1024 + tagSwitch (clusterModule cl) o.tag, addr := o.tag }
          let k := s.cluster cl
          let s := s.setCluster cl { k with copies := k.copies.set i { o with sent := true, cause := cause, lines := [] } }
          s.emitAll (mcPackets p o.dstAt img cause)
        else (s.dropCopy cl i).completeCounter o.sel o.cnt cause

def execCopyComplete (cl i : Nat) (s : State) : Out := .next (s.copyComplete cl i)

/-! ### Subscriptions (R247, R248) -/

/-- The checks of MSUB at issue: must-be-zero bits, then LAY (R247). -/
def State.msubChecks (s : State) (t : Nat) (i : Instr) (v : Nat) : Except Trap Nat :=
  if v / 2 ^ 37 ≠ 0 then .error (causeILLEGAL, (encode i).setWidth 64)
  else
    let e := s.layoutEntry t (bits v 23 16)
    if !layValid e || !layGrants e 2 then .error (causeLAYOUT, BitVec.ofNat 64 (bits v 23 16)) else .ok e

/-- Whether a subscription finds the module's match table full (R247). -/
def State.subsFull (s : State) (cl tag : Nat) : Bool :=
  let subs := (s.module (clusterModule cl)).subs
  decide (4096 ≤ subs.length) && !(subs.any fun x => decide (x.cluster = cl ∧ x.tag = tag))

/-- Enters or replaces a subscription. -/
def State.subscribe (s : State) (x : Subscription) : State :=
  let m := clusterModule x.cluster
  let k := s.module m
  s.setModule m { k with subs := k.subs.filter (fun y => decide (y.cluster ≠ x.cluster ∨ y.tag ≠ x.tag)) ++ [x] }

/-- Removes a subscription. -/
def State.unsubscribe (s : State) (cl tag : Nat) : State :=
  let m := clusterModule cl
  let k := s.module m
  s.setModule m { k with subs := k.subs.filter fun y => decide (y.cluster ≠ cl ∨ y.tag ≠ tag) }

/-- The subscription that a word makes for a thread (R247). -/
def State.subscriptionOf (s : State) (t v e : Nat) : Subscription :=
  let a := s.agent t
  { cluster := a.cluster, tag := bits v 15 0, region := s.recordRegion t, ctx := a.ctx, lay := BitVec.ofNat 512 e
    cntv := bit v 36, cnt := bits v 35 24, heap := a.heap, layx := bits v 23 16 }

/-- A join or leave packet of a thread's cluster (R248). -/
def tagPacket (t kind tag : Nat) (held : Bool) : Packet :=
  { kind := kind, dest := 1024 + tagSwitch (threadModule t) tag, addr := tag, held := held }

def execMsub (a : BitVec 6) (s : State) : Out :=
  let v := (s.sr a).toNat
  match s.msubChecks s.cur (.msub a) v with
  | .error x => .next (s.trapWith x)
  | .ok e =>
    if s.me.run.active then .next ((s.hold { instr := .msub a, args := [v, e] }).retire)
    else if s.subsFull (threadCluster s.cur) (bits v 15 0) then .next (s.trap causeQUOTA 0)
    else
      let s := s.subscribe (s.subscriptionOf s.cur v e)
      .next (s.request [tagPacket s.cur 8 (bits v 15 0) false] fun s => s.park (.fabric 63 1 [] none .store))

def execMunsub (a : BitVec 6) (s : State) : Out :=
  let v := (s.sr a).toNat
  if v / 2 ^ 16 ≠ 0 then .next (s.illegal (.munsub a))
  else if s.me.run.active then .next ((s.hold { instr := .munsub a, args := [v] }).retire)
  else
    let s := s.unsubscribe (threadCluster s.cur) v
    .next (s.request [tagPacket s.cur 9 v false] fun s => s.park (.fabric 63 1 [] none .store))

end Sys2Proof.Machine
end

