-- ==== Sys2Proof/Machine/Transact.lean ====
section
/-! DEFINITION. Runs as instructions and events see them: SOPEN, SCLOSE, SDROP and SDEPTH, opcodes 0x1A and 0x1B, the commit of a run,
the irrevocable token, and aborts (19_transactions R262 to R274). -/

namespace Sys2Proof.Machine

/-! ### Commit (R265 to R267) -/

/-- Step 2 of R265: the run's bytes enter memory, or the directed copies of their dies. -/
def State.commitBytes (s : State) (w : Owner) (r : Run) : State :=
  r.buf.foldl (fun s c =>
    let loc := c.1 % 2 ^ 64
    let key := SMap.getD r.keys (lineOf loc) 0
    if 2 ^ 64 ≤ c.1 then s.setDirectedByte (c.1 / 2 ^ 64 - 1) key loc c.2
    else s.setByte (if w.here then some w.thread else none) key loc c.2) s

/-- Step 4: a reduction of the log is applied at its element (R266). -/
def State.commitComm (s : State) (w : Owner) (x : CommEntry) : State :=
  let old := leNat (s.bytesAt x.key x.loc x.w)
  s.setBytes (if w.here then some w.thread else none) x.key (cellsAt x.loc (leBytes x.w (redValue x.op x.w old x.value)))

/-- A packet of a request that was held in a run: nothing waits for it. -/
def State.sendHeldPacket (s : State) (w : Owner) (p : Packet) : State :=
  let m := clusterModule w.cluster
  s.emit { p with thread := w.thread, from_ := m, ctx := (s.region m w.region).space.ctx, region := w.region, held := true }

/-- Whether a held request is a release, as it is when it is sent at issue (R108, R109, R113). -/
def HeldReq.releases (h : HeldReq) : Bool :=
  h.copy.isNone && match h.instr with
  | .tspawn _ _ _ => true
  | .tsignal _ _ _ => true
  | .send _ _ _ => true
  | _ => false

/-- Step 5: one held request is sent; a refusal is reported under kind 5 (R111, R246, R247, R267). -/
def State.sendHeld (s : State) (w : Owner) (h : HeldReq) : State :=
  let m := clusterModule w.cluster
  let arg (n : Nat) : Nat := h.args.getD n 0
  let reach (r : Nat) : Bool := s.descends m 256 r w.region
  match h.copy with
  | some o => s.submitCopy { o with wake := false }
  | none =>
    match h.instr with
    | .tspawn _ _ _ =>
      match s.enterDescriptor (arg 1) (dieClusters (arg 1)) (BitVec.ofNat 512 (arg 0)) reach none (if w.here then threadSlot w.thread else 0) with
      | (s, .at _ _) => s
      | (s, .refused) => s.report w.cluster w.region causeILLEGAL ((encode h.instr).setWidth 64)
      | (s, .full) => s.report w.cluster w.region causeQUOTA 0
    | .tsignal _ _ _ =>
      let ok := match (s.counter (arg 0) (arg 1)).bound with
        | none => true
        | some slot => reach (dRegion (s.task (arg 0) slot).desc)
      if ok then s.signal (arg 0) (arg 1) (BitVec.ofNat 64 (arg 2)).toInt (if w.here then threadSlot w.thread else 0)
      else s.report w.cluster w.region causeREMOTE (BitVec.ofNat 64 (arg 3))
    | .send _ _ _ =>
      s.sendHeldPacket w { kind := 4, dest := arg 0 / 1024, addr := arg 0, aux := arg 1, payload := leBytes 8 (arg 2) }
    | .msub _ =>
      let v := arg 0
      if s.subsFull w.cluster (bits v 15 0) then s.report w.cluster w.region causeQUOTA 0
      else
        let sp := (s.region m w.region).space
        let s := s.subscribe { cluster := w.cluster, tag := bits v 15 0, region := w.region, ctx := sp.ctx, heap := sp.heap
                               lay := BitVec.ofNat 512 (arg 1), cntv := bit v 36, cnt := bits v 35 24, layx := bits v 23 16 }
        s.sendHeldPacket w { kind := 8, dest := 1024 + tagSwitch m (bits v 15 0), addr := bits v 15 0 }
    | .munsub _ =>
      let s := s.unsubscribe w.cluster (arg 0)
      s.sendHeldPacket w { kind := 9, dest := 1024 + tagSwitch m (arg 0), addr := arg 0 }
    | _ => s

/-- The commit of a run: steps 1 to 4 of R265, and the next number of the package's commit sequence. -/
def State.commitRun (s : State) (w : Owner) (r : Run) : State :=
  let m := clusterModule w.cluster
  let s := s.setModule m { s.module m with commitSeq := (s.module m).commitSeq + 1 }
  let s := s.commitBytes w r
  r.log.foldl (fun s x => s.commitComm w x) s

/-- Whether steps 5 and 6 of R265 have anything to do for a run. -/
def Run.sends (r : Run) : Bool := decide (r.held ≠ []) || r.rel

/-- Steps 5 to 7 of a run's commit are still to come (R265). -/
def State.commitLater (s : State) (w : Owner) (r : Run) : State :=
  let c := s.cluster w.cluster
  s.setCluster w.cluster { c with commits := c.commits ++ [{ owner := w, held := r.held, rel := r.rel, relLog := r.relLog }] }

/-- SCLOSE of an outermost transaction: steps 1 to 4 of the commit, then step 7, or the thread waits for steps 5 to 7: its sets, and what
RUNST shows of it, stay until then (R265, R269). -/
def State.commitExplicit (s : State) (t : Nat) : State :=
  let th := s.thr t
  let w : Owner := { thread := t, cluster := threadCluster t, region := th.region }
  let s := s.commitRun w th.run
  if th.run.sends then
    let s := s.commitLater w th.run
    s.setThr t { s.thr t with
      wait := .commit, run := { reads := th.run.reads, writes := th.run.writes, comms := th.run.comms } }
  else
    let s := s.closeRun t
    s.setThr t { s.thr t with wait := .response noBank .none }

/-- The release that a commit makes at step 5 or 6: its thread's, where that is still there; a thread of a task that ended has no posted
access and no entry of the side log from within the run (R143, R144). -/
def State.commitRelease (s : State) (w : Owner) (log : Bool) : ReleaseStatus :=
  if w.here then s.releaseStatus w.thread log else .go

/-- A commit is over: step 7 is made, and the thread of SCLOSE wakes, or raises the error that a release of the run met (R144, R265, R269). -/
def State.endCommit (s : State) (w : Owner) (err : Option Trap) : State :=
  if w.here && decide ((s.thr w.thread).wait = .commit) then
    let s := s.closeRun w.thread
    match err with
    | some x => s.takeTrap w.thread x.1 x.2 (s.thr w.thread).pc
    | none => s.complete w.thread .none
  else s

/-- The next move of a cluster's i-th commit: its first held request is sent, once the release that it is has taken effect, and a copy is
accepted before the request after it; then the releases of the run, and the end. The error of a posted access is raised at the SCLOSE;
the request that raised it, being a release, is not made (R144, R265 steps 5 to 7, R267). None while the commit waits. -/
def State.commitStep (s : State) (cl i : Nat) : Option State :=
  let c := s.cluster cl
  match c.commits[i]? with
  | none => none
  | some k =>
    let w := k.owner
    let put (s : State) (k' : Option Commit) : State :=
      let c := s.cluster cl
      s.setCluster cl { c with commits := match k' with
        | some k' => c.commits.set i k'
        | none => c.commits.eraseIdx i }
    let clear : State := s.setThr w.thread { s.thr w.thread with postedErr := none }
    match k.held with
    | h :: rest =>
      if h.copy.isSome then
        if k.submitted then
          if (c.copies.any fun o => decide (o.thread = w.thread) && !o.wake && !o.accepted) then none
          else some (put s (some { k with held := rest, submitted := false }))
        else some (put (s.sendHeld w h) (some { k with submitted := true }))
      else
        match (if h.releases then s.commitRelease w true else .go) with
        | .wait => none
        | .err x => some (put clear (some { k with held := rest, err := k.err.or (some x) }))
        | .go => some (put (s.sendHeld w h) (some { k with held := rest }))
    | [] =>
      if !k.rel then some ((put s none).endCommit w k.err)
      else match s.commitRelease w k.relLog with
        | .wait => none
        | .err x => some ((put clear none).endCommit w (k.err.or (some x)))
        | .go => some ((put s none).endCommit w k.err)

/-! ### Opcodes 0x1A and 0x1B (R268 to R271) -/

/-- Whether another thread of a thread's die has an explicit transaction open (R264). -/
def State.otherExplicit (s : State) (t : Nat) : Bool :=
  s.threads.any fun e => decide (e.1 ≠ t ∧ threadDie e.1 = threadDie t) && e.2.live && e.2.explicitOpen

/-- What the outermost SOPEN saves (R262). -/
def Thread.checkpoint (th : Thread) : Checkpoint :=
  { sreg := th.sreg, preg := th.preg, fmt := th.fmt, fflags := th.fflags, xclip := th.xclip, gens := th.gens }

/-- The AGE of an outermost SOPEN: the tick of its issue, also where it waited for another's token; after a CONFLICT the old one
(R258, R268). -/
def State.sopenAge (s : State) (th : Thread) : Nat :=
  if th.confl = 0 ∧ th.wait ≠ .retry .tokenBusy then s.ticks else th.age

/-- The outermost SOPEN opens the run (R268). -/
def State.openRun (s : State) (target : Word) (irrev : Bool) : State :=
  let th := s.me
  (s.setMe { th with
    irrev := irrev, age := s.sopenAge th, fallback := target, depth := 1
    run := { active := true, ckpt := th.checkpoint } }).retire

def execSopen (i : BitVec 13) (s : State) : Out :=
  onCore (.sopen i) s (
    let t := s.cur
    let th := s.me
    let d := s.die (threadDie t)
    if 0 < th.depth ∨ th.run.active = true then
      if 16 ≤ th.depth then .next (s.abortHolder (.thread t) abortCAPACITY 5)
      else .next ((s.setMe { th with depth := th.depth + 1 }).retire)
    else if 3 ≤ th.confl then
      if d.token = some t then
        if s.otherExplicit t then .next (s.park (.retry .tokenDrain)) else .next (s.openRun (relTarget th.pc i) true)
      else
        let s := s.setDie (threadDie t) { d with tokenQueue := if d.tokenQueue.contains t then d.tokenQueue else d.tokenQueue ++ [t] }
        .next (s.park (.retry .token))
    else if d.token.isSome then .next ((s.setMe { th with age := s.sopenAge th }).park (.retry .tokenBusy))
    else .next (s.openRun (relTarget th.pc i) false))

def execSclose (s : State) : Out :=
  onCore .sclose s (
    let th := s.me
    let ord := th.run.active && th.run.ordered
    if th.depth = 0 then .next (s.illegal .sclose)
    else if 1 < th.depth ∨ ord = true then .next ((s.setMe { th with depth := th.depth - 1 }).retire)
    else .next (s.commitExplicit s.cur))

def execSdrop (a : BitVec 6) (s : State) : Out :=
  onCore (.sdrop a) s (
    if 0 < s.me.depth ∨ s.me.run.active = true then
      .next (s.abortHolder (.thread s.cur) abortEXPLICIT ((s.sr a).toNat % 256))
    else .next s.retire)

def execSdepth (d : BitVec 6) (s : State) : Out :=
  onCore (.sdepth d) s (
    let th := s.me
    let v := th.depth + (if th.irrev then 256 else 0) + (if th.run.active && th.run.ordered then 65536 else 0)
    writeScalar d (BitVec.ofNat 64 v) s)

/-! ### Events -/

/-- TOKEN_GRANT: the thread that asked first receives a die's free token, and its IRREV is set (R264, R268, R271). -/
def State.tokenGrant (s : State) (d : Nat) : State :=
  let x := s.die d
  match x.token, x.tokenQueue with
  | none, t :: rest => (s.setDie d { x with token := some t, tokenQueue := rest }).setThr t { s.thr t with irrev := true }
  | _, _ => s

def execTokenGrant (d : Nat) (s : State) : Out := .next (s.tokenGrant d)

/-- RUN_ABORT: the explicit transaction of a thread aborts with a cause and a code (R262, R268). -/
def execRunAbort (t cause code : Nat) (s : State) : Out :=
  let th := s.thr t
  .next (if th.live && th.run.active && !th.run.ordered then s.abortExplicit t cause code else s)

/-- ORDERED_ABORT: the ordered run of a task aborts; a FAULT abort is reported under kind 4 (R273, R278). -/
def State.orderedAbort (s : State) (cl slot cause code : Nat) : State :=
  let x := s.task cl slot
  if SMap.has (s.cluster cl).tasks slot && dOrd x.desc && decide (x.state = .dispatched ∨ x.state = .finishedSpeculative) then
    let s := s.abortOrdered cl slot cause
    if cause = abortFAULT then
      s.addRecord { handle := mkHandle 4 (cl * 8) 0 slot 0 0, cause := code, region := dRegion x.desc }
    else s
  else s

def execOrderedAbort (cl slot cause code : Nat) (s : State) : Out := .next (s.orderedAbort cl slot cause code)

end Sys2Proof.Machine
end

