-- ==== Sys2Proof/Machine/Vector.lean ====
section
/-! DEFINITION. The meanings of the vector, lane-store and permute instructions, opcodes 0x30 to 0x42 (14_vector R195 to R218). -/

namespace Sys2Proof.Machine

/-! ### Shared forms -/

/-- Every lane. -/
def allLanes : BitVec 32 := BitVec.allOnes 32

/-- Fixed latency: window register d is written under a mask, and the instruction is complete (R195, R196). -/
def writeVec (d : BitVec 6) (m : BitVec 32) (v : Vec) (s : State) : Out := .next ((s.setVec d.toNat m v).retire)

/-- A lane-wise operation on v[a] and v[b] under predicate p. -/
def vec2 (d a b : BitVec 6) (p : BitVec 3) (f : W32 → W32 → W32) (s : State) : Out :=
  readable s [(a.toNat, s.mask p), (b.toNat, s.mask p)]
    (writeVec d (s.mask p) (ofLanes fun i => f (lane (s.v a) i) (lane (s.v b) i)) s)

/-- A lane-wise operation on v[a] under predicate p. -/
def vec1 (d a : BitVec 6) (p : BitVec 3) (f : W32 → W32) (s : State) : Out :=
  readable s [(a.toNat, s.mask p)] (writeVec d (s.mask p) (ofLanes fun i => f (lane (s.v a) i)) s)

/-- A lane-wise operation on v[a], v[b] and the old v[d] under predicate p. -/
def vec3 (d a b : BitVec 6) (p : BitVec 3) (f : W32 → W32 → W32 → W32) (s : State) : Out :=
  readable s [(a.toNat, s.mask p), (b.toNat, s.mask p), (d.toNat, s.mask p)]
    (writeVec d (s.mask p) (ofLanes fun i => f (lane (s.v a) i) (lane (s.v b) i) (lane (s.v d) i)) s)

/-! ### Integer arithmetic (R198) -/

/-- The clamp of VADDS and VSUBS. -/
def clamp32 (z : Int) : W32 := BitVec.ofInt 32 (min (2 ^ 31 - 1) (max (-2 ^ 31) z))

def execVadd (d a b : BitVec 6) (p : BitVec 3) (s : State) : Out := vec2 d a b p (· + ·) s
def execVsub (d a b : BitVec 6) (p : BitVec 3) (s : State) : Out := vec2 d a b p (· - ·) s
def execVmul (d a b : BitVec 6) (p : BitVec 3) (s : State) : Out := vec2 d a b p (· * ·) s
def execVmin (d a b : BitVec 6) (p : BitVec 3) (s : State) : Out := vec2 d a b p (fun x y => if y.slt x then y else x) s
def execVmax (d a b : BitVec 6) (p : BitVec 3) (s : State) : Out := vec2 d a b p (fun x y => if x.slt y then y else x) s
def execVminu (d a b : BitVec 6) (p : BitVec 3) (s : State) : Out := vec2 d a b p (fun x y => if y.ult x then y else x) s
def execVmaxu (d a b : BitVec 6) (p : BitVec 3) (s : State) : Out := vec2 d a b p (fun x y => if x.ult y then y else x) s
def execVand (d a b : BitVec 6) (p : BitVec 3) (s : State) : Out := vec2 d a b p (· &&& ·) s
def execVor (d a b : BitVec 6) (p : BitVec 3) (s : State) : Out := vec2 d a b p (· ||| ·) s
def execVxor (d a b : BitVec 6) (p : BitVec 3) (s : State) : Out := vec2 d a b p (· ^^^ ·) s
def execVsll (d a b : BitVec 6) (p : BitVec 3) (s : State) : Out := vec2 d a b p (fun x y => x <<< (y.toNat % 32)) s
def execVsrl (d a b : BitVec 6) (p : BitVec 3) (s : State) : Out := vec2 d a b p (fun x y => x >>> (y.toNat % 32)) s
def execVsra (d a b : BitVec 6) (p : BitVec 3) (s : State) : Out := vec2 d a b p (fun x y => x.sshiftRight (y.toNat % 32)) s
def execVadds (d a b : BitVec 6) (p : BitVec 3) (s : State) : Out := vec2 d a b p (fun x y => clamp32 (x.toInt + y.toInt)) s
def execVsubs (d a b : BitVec 6) (p : BitVec 3) (s : State) : Out := vec2 d a b p (fun x y => clamp32 (x.toInt - y.toInt)) s

/-! ### Floating-point arithmetic (R199 to R201) -/

def execVfadd (d a b : BitVec 6) (p : BitVec 3) (s : State) : Out := vec2 d a b p add32 s
def execVfsub (d a b : BitVec 6) (p : BitVec 3) (s : State) : Out := vec2 d a b p sub32 s
def execVfmul (d a b : BitVec 6) (p : BitVec 3) (s : State) : Out := vec2 d a b p mul32 s
def execVfmin (d a b : BitVec 6) (p : BitVec 3) (s : State) : Out := vec2 d a b p min32 s
def execVfmax (d a b : BitVec 6) (p : BitVec 3) (s : State) : Out := vec2 d a b p max32 s
def execVfabs (d a : BitVec 6) (p : BitVec 3) (s : State) : Out := vec1 d a p (· &&& 0x7FFFFFFF) s
def execVfneg (d a : BitVec 6) (p : BitVec 3) (s : State) : Out := vec1 d a p neg32 s
def execVfma (d a b : BitVec 6) (p : BitVec 3) (s : State) : Out := vec3 d a b p fma32 s

/-- c - x * y rounded once. -/
def fms32 (x y c : W32) : W32 := rne32 ((num32 c).add ((num32 x).mul (num32 y)).neg)

def execVfms (d a b : BitVec 6) (p : BitVec 3) (s : State) : Out := vec3 d a b p fms32 s

/-- The word of two BF16 halves. -/
def halves (lo hi : Nat) : W32 := BitVec.ofNat 32 (lo % 65536 + hi % 65536 * 65536)

/-- The halves of a word. -/
def lowHalf (x : W32) : Nat := x.toNat % 65536
def highHalf (x : W32) : Nat := x.toNat / 65536

def execVbadd (d a b : BitVec 6) (p : BitVec 3) (s : State) : Out :=
  vec2 d a b p (fun x y => halves (add16 (lowHalf x) (lowHalf y)) (add16 (highHalf x) (highHalf y))) s
def execVbmul (d a b : BitVec 6) (p : BitVec 3) (s : State) : Out :=
  vec2 d a b p (fun x y => halves (mul16 (lowHalf x) (lowHalf y)) (mul16 (highHalf x) (highHalf y))) s
def execVbfma (d a b : BitVec 6) (p : BitVec 3) (s : State) : Out :=
  vec3 d a b p (fun x y c =>
    halves (fma16 (lowHalf x) (lowHalf y) (lowHalf c)) (fma16 (highHalf x) (highHalf y) (highHalf c))) s

/-- VFDIV and VFSQRT park, and all lanes are written 24 cycles after issue (R196, R201). -/
def startVector (d : BitVec 6) (m : BitVec 32) (v : Vec) (s : State) : Out :=
  .next (s.park (.result .vector (s.cycleOf s.cur + 24) (.vector d m v)))

def execVfdiv (d a b : BitVec 6) (p : BitVec 3) (s : State) : Out :=
  readable s [(a.toNat, s.mask p), (b.toNat, s.mask p)]
    (startVector d (s.mask p) (ofLanes fun i => div32 (lane (s.v a) i) (lane (s.v b) i)) s)

def execVfsqrt (d a : BitVec 6) (p : BitVec 3) (s : State) : Out :=
  readable s [(a.toNat, s.mask p)] (startVector d (s.mask p) (ofLanes fun i => sqrt32 (lane (s.v a) i)) s)

/-! ### Compares and predicate logic (R202, R203) -/

/-- The 32-bit mask with bit i given by f. -/
def maskOf (f : Nat → Bool) : BitVec 32 :=
  BitVec.ofNat 32 ((List.range 32).foldl (fun m i => if f i then m + 2 ^ i else m) 0)

/-- Writes predicate d of the thread that issues. -/
def writePred (d : BitVec 6) (v : BitVec 32) (s : State) : Out := .next ((s.setMe (s.me.setP d.toNat v)).retire)

/-- A compare: inactive lanes give 0. -/
def vecCmp (d a b : BitVec 6) (p : BitVec 3) (f : W32 → W32 → Bool) (s : State) : Out :=
  readable s [(a.toNat, s.mask p), (b.toNat, s.mask p)]
    (writePred d (s.mask p &&& maskOf fun i => f (lane (s.v a) i) (lane (s.v b) i)) s)

def execVceq (d a b : BitVec 6) (p : BitVec 3) (s : State) : Out := vecCmp d a b p (fun x y => decide (x = y)) s
def execVcne (d a b : BitVec 6) (p : BitVec 3) (s : State) : Out := vecCmp d a b p (fun x y => decide (x ≠ y)) s
def execVclt (d a b : BitVec 6) (p : BitVec 3) (s : State) : Out := vecCmp d a b p (fun x y => x.slt y) s
def execVcle (d a b : BitVec 6) (p : BitVec 3) (s : State) : Out := vecCmp d a b p (fun x y => x.sle y) s
def execVcltu (d a b : BitVec 6) (p : BitVec 3) (s : State) : Out := vecCmp d a b p (fun x y => x.ult y) s
def execVcleu (d a b : BitVec 6) (p : BitVec 3) (s : State) : Out := vecCmp d a b p (fun x y => x.ule y) s
def execVfceq (d a b : BitVec 6) (p : BitVec 3) (s : State) : Out := vecCmp d a b p (fun x y => (num32 x).eq (num32 y)) s
def execVfclt (d a b : BitVec 6) (p : BitVec 3) (s : State) : Out := vecCmp d a b p (fun x y => (num32 x).lt (num32 y)) s
def execVfcle (d a b : BitVec 6) (p : BitVec 3) (s : State) : Out :=
  vecCmp d a b p (fun x y => (num32 x).lt (num32 y) || (num32 x).eq (num32 y)) s
def execVfcun (d a b : BitVec 6) (p : BitVec 3) (s : State) : Out := vecCmp d a b p (fun x y => isNan x || isNan y) s

def execVsel (d a b : BitVec 6) (p : BitVec 3) (s : State) : Out :=
  readable s [(a.toNat, s.mask p), (b.toNat, ~~~(s.mask p))] (writeVec d allLanes (merge (s.mask p) (s.v a) (s.v b)) s)

def execPand (d a b : BitVec 6) (s : State) : Out := writePred d (s.pr a.toNat &&& s.pr b.toNat) s
def execPor (d a b : BitVec 6) (s : State) : Out := writePred d (s.pr a.toNat ||| s.pr b.toNat) s
def execPxor (d a b : BitVec 6) (s : State) : Out := writePred d (s.pr a.toNat ^^^ s.pr b.toNat) s
def execPnot (d a : BitVec 6) (s : State) : Out := writePred d (~~~(s.pr a.toNat)) s

/-! ### Conversions (R204 to R207) -/

/-- FP32 to a signed 32-bit integer, toward zero (R204). -/
def toInt32 (x : W32) : W32 := BitVec.ofNat 32 (encodeInt 32 .rtz (num32 x))

def execVcvtif (d a : BitVec 6) (p : BitVec 3) (s : State) : Out := vec1 d a p (fun x => rne32 (ofInt x.toInt 0 false)) s
def execVcvtfi (d a : BitVec 6) (p : BitVec 3) (s : State) : Out := vec1 d a p toInt32 s

/-- FP32 registers of a format's group (R205). -/
def wideRegs (t : Nat) : Nat :=
  match t with
  | 1 => 2
  | 2 => 2
  | 5 => 16
  | 6 => 16
  | 7 => 8
  | 9 => 8
  | _ => 4

/-- Packed registers of a format's group (R205). -/
def packedRegs (t : Nat) : Nat := if t = 5 ∨ t = 6 then 3 else 1

/-- The bits of n registers from r on, as one number. -/
def State.groupBits (s : State) (r n : Nat) : Nat :=
  (List.range n).foldr (fun k acc => (s.vec (r + k)).toNat + acc * 2 ^ 1024) 0

/-- Registers from r on, with every lane. -/
def wholeRegs (r n : Nat) : List (Nat × BitVec 32) := (List.range n).map fun k => (r + k, allLanes)

/-- Writes n registers from r on from a number's bits. -/
def State.setGroup (s : State) (r n v : Nat) : State :=
  (List.range n).foldl (fun s k => s.setVec (r + k) allLanes (BitVec.ofNat 1024 (v / 2 ^ (1024 * k)))) s

/-- The number whose digits of w bits are f 0, ..., f (n - 1). -/
def packBits (w : Nat) (f : Nat → Nat) (n : Nat) : Nat := (List.range n).foldr (fun k acc => f k % 2 ^ w + acc * 2 ^ w) 0

/-- A narrowing with a fixed rounding (R206). -/
def narrowGroup (d a : BitVec 6) (t : Nat) (md : Rounding) (s : State) : Out :=
  readable s (wholeRegs a.toNat (wideRegs t)) (
    let v := packBits (elemBits t) (fun e => narrow t md (lane (s.vec (a.toNat + e / 32)) (e % 32))) (32 * wideRegs t)
    .next ((s.setGroup d.toNat (packedRegs t) v).retire))

def execVcvtn (d a : BitVec 6) (t : BitVec 4) (s : State) : Out := narrowGroup d a t.toNat .rne s
def execVcvtz (d a : BitVec 6) (t : BitVec 4) (s : State) : Out := narrowGroup d a t.toNat .rtz s

/-- n advances of a generator. -/
def advances : Nat → W32 → W32
  | 0, x => x
  | n + 1, x => advances n (advance x)

/-- VCVTS: element e of lane j uses generator j after e / 32 + 1 advances, and each generator has advanced once for each register of
the FP32 group (R192, R206). -/
def execVcvts (d a : BitVec 6) (t : BitVec 4) (s : State) : Out :=
  let k := t.toNat
  readable s (wholeRegs a.toNat (wideRegs k)) (
    let th := s.me
    let v := packBits (elemBits k) (fun e =>
      narrow k (.sr (advances (e / 32 + 1) (th.gen (e % 32)))) (lane (s.vec (a.toNat + e / 32)) (e % 32))) (32 * wideRegs k)
    let gens := (List.range 32).foldl (fun m j => SMap.set m j (advances (wideRegs k) (th.gen j))) th.gens
    .next (((s.setMe { th with gens := gens }).setGroup d.toNat (packedRegs k) v).retire))

def execVcvtw (d a : BitVec 6) (t : BitVec 4) (s : State) : Out :=
  let k := t.toNat
  readable s (wholeRegs a.toNat (packedRegs k)) (
    let x := s.groupBits a.toNat (packedRegs k)
    let w := elemBits k
    let v := packBits 32 (fun e => (widen k (x / 2 ^ (w * e) % 2 ^ w)).toNat) (32 * wideRegs k)
    .next ((s.setGroup d.toNat (wideRegs k) v).retire))

/-! ### Approximations (R208) -/

def execVrcp (d a : BitVec 6) (p : BitVec 3) (s : State) : Out := vec1 d a p rcp32 s
def execVrsqrt (d a : BitVec 6) (p : BitVec 3) (s : State) : Out := vec1 d a p rsqrt32 s
def execVexp2 (d a : BitVec 6) (p : BitVec 3) (s : State) : Out := vec1 d a p vexp32 s
def execVlog2 (d a : BitVec 6) (p : BitVec 3) (s : State) : Out := vec1 d a p log2Approx s

/-! ### Reductions and scans (R209 to R211) -/

/-- The active lanes of a register, lowest first. -/
def activeWords (m : BitVec 32) (v : Vec) : List W32 := (activeLanes m).map (lane v)

/-- A reduction of the active lanes of v[a] to s[d]. -/
def vecRed (d a : BitVec 6) (p : BitVec 3) (f : List W32 → Word) (s : State) : Out :=
  readable s [(a.toNat, s.mask p)] (writeScalar d (f (activeWords (s.mask p) (s.v a))) s)

/-- Left fold of a nonempty list, or `z` for an empty one. -/
def fold1 (f : W32 → W32 → W32) (z : W32) : List W32 → W32
  | [] => z
  | x :: xs => xs.foldl f x

def execVredadd (d a : BitVec 6) (p : BitVec 3) (s : State) : Out :=
  vecRed d a p (fun xs => (xs.foldl (· + ·) (0 : W32)).signExtend 64) s
def execVredmax (d a : BitVec 6) (p : BitVec 3) (s : State) : Out :=
  vecRed d a p (fun xs => (xs.foldl (fun x y => if x.slt y then y else x) (0x80000000 : W32)).signExtend 64) s
def execVredmin (d a : BitVec 6) (p : BitVec 3) (s : State) : Out :=
  vecRed d a p (fun xs => (xs.foldl (fun x y => if y.slt x then y else x) (0x7FFFFFFF : W32)).signExtend 64) s
def execVredfmax (d a : BitVec 6) (p : BitVec 3) (s : State) : Out :=
  vecRed d a p (fun xs => (if xs.all isNan && decide (xs ≠ []) then nan32 else fold1 max32 0xFF800000 xs).setWidth 64) s
def execVredfmin (d a : BitVec 6) (p : BitVec 3) (s : State) : Out :=
  vecRed d a p (fun xs => (if xs.all isNan && decide (xs ≠ []) then nan32 else fold1 min32 0x7F800000 xs).setWidth 64) s

/-- One level of the tree of R210. -/
def treeLevel : List (Option W32) → List (Option W32)
  | x :: y :: rest =>
    (match x, y with
      | some u, some v => some (add32 u v)
      | some u, none => some u
      | none, v => v) :: treeLevel rest
  | xs => xs

/-- The tree sum of R210. -/
def treeSum (m : BitVec 32) (v : Vec) : W32 :=
  let slots := (List.range 32).map fun i => if m.getLsbD i then some (lane v i) else none
  ((treeLevel (treeLevel (treeLevel (treeLevel (treeLevel slots))))).headD none).getD 0

def execVredfadd (d a : BitVec 6) (p : BitVec 3) (s : State) : Out :=
  readable s [(a.toNat, s.mask p)] (writeScalar d ((treeSum (s.mask p) (s.v a)).setWidth 64) s)

/-- Running values of the active lanes, each with its lane. -/
def scanLanes (f : W32 → W32 → W32) (v : Vec) : List Nat → Option W32 → List (Nat × W32)
  | [], _ => []
  | i :: is, r =>
    let x := match r with
      | some y => f y (lane v i)
      | none => lane v i
    (i, x) :: scanLanes f v is (some x)

/-- A scan into v[d]. -/
def vecScan (d a : BitVec 6) (p : BitVec 3) (f : W32 → W32 → W32) (s : State) : Out :=
  readable s [(a.toNat, s.mask p)] (
    let xs := scanLanes f (s.v a) (activeLanes (s.mask p)) none
    writeVec d (s.mask p) (ofLanes fun i => ((xs.find? fun x => decide (x.1 = i)).map (·.2)).getD 0) s)

def execVscanadd (d a : BitVec 6) (p : BitVec 3) (s : State) : Out := vecScan d a p (· + ·) s
def execVscanfadd (d a : BitVec 6) (p : BitVec 3) (s : State) : Out := vecScan d a p add32 s

/-! ### Permute and broadcast (R212, R213) -/

/-- The mask of one lane. -/
def oneLane (i : Nat) : BitVec 32 := 1#32 <<< (i % 32)

def execVperm (d a b : BitVec 6) (s : State) : Out :=
  readable s [(b.toNat, allLanes), (a.toNat, maskOf fun i => (List.range 32).any fun k => decide ((lane (s.v b) k).toNat % 32 = i))]
    (writeVec d allLanes (ofLanes fun i => lane (s.v a) ((lane (s.v b) i).toNat % 32)) s)

def execVbcast (d a : BitVec 6) (p : BitVec 3) (s : State) : Out :=
  writeVec d (s.mask p) (ofLanes fun _ => (s.sr a).setWidth 32) s

def execVrot (d a b : BitVec 6) (s : State) : Out :=
  readable s [(a.toNat, allLanes)]
    (writeVec d allLanes (ofLanes fun i => lane (s.v a) ((i + (s.sr b).toNat % 32) % 32)) s)

def execVextr (d a b : BitVec 6) (s : State) : Out :=
  let k := (s.sr b).toNat % 32
  readable s [(a.toNat, oneLane k)] (writeScalar d ((lane (s.v a) k).setWidth 64) s)

def execVinsr (d a b : BitVec 6) (s : State) : Out :=
  writeVec d (oneLane ((s.sr b).toNat % 32)) (ofLanes fun _ => (s.sr a).setWidth 32) s

def execViota (d : BitVec 6) (s : State) : Out := writeVec d allLanes (ofLanes fun i => BitVec.ofNat 32 i) s

def execVpopc (d a : BitVec 6) (s : State) : Out := writeScalar d (BitVec.ofNat 64 (activeLanes (s.pr a.toNat)).length) s

/-! ### Indirect access to the register store (R214, R215) -/

def execVmovi (d a : BitVec 6) (s : State) : Out :=
  let r := (s.sr a).toNat
  if s.w ≤ r then .next (s.trapWith (badIndex r))
  else readable s [(r, allLanes)] (writeVec d allLanes (s.vec r) s)

def execVstoi (d a : BitVec 6) (s : State) : Out :=
  let r := (s.sr a).toNat
  if s.w ≤ r then .next (s.trapWith (badIndex r))
  else readable s [(d.toNat, allLanes)] (.next ((s.setVec r allLanes (s.v d)).retire))

/-- Checks the register index of each active lane, then goes on; the trap value names that of the lowest lane that fails (R215; DESIGN CHOICE,
log 35). -/
def checkedLanes (s : State) (p : BitVec 3) (index : Nat → Nat) (k : Out) : Out :=
  match (activeLanes (s.mask p)).find? fun i => decide (s.w ≤ index i) with
  | some i => .next (s.trapWith (badIndex (index i)))
  | none => k

def execVgath (d a b : BitVec 6) (p : BitVec 3) (s : State) : Out :=
  readable s [(a.toNat, s.mask p)] (
    let w (i : Nat) : Nat := (lane (s.v a) i).toNat
    let r (i : Nat) : Nat := (s.sr b).toNat + w i / 32
    checkedLanes s p r (
      readable s ((activeLanes (s.mask p)).map fun i => (r i, oneLane (w i)))
        (writeVec d (s.mask p) (ofLanes fun i => if (s.mask p).getLsbD i then lane (s.vec (r i)) (w i % 32) else 0) s)))

def execVldx (d a b : BitVec 6) (p : BitVec 3) (s : State) : Out :=
  readable s [(a.toNat, s.mask p)] (
    let r (i : Nat) : Nat := (s.sr b).toNat + (lane (s.v a) i).toNat
    checkedLanes s p r (
      readable s ((activeLanes (s.mask p)).map fun i => (r i, oneLane i))
        (writeVec d (s.mask p) (ofLanes fun i => if (s.mask p).getLsbD i then lane (s.vec (r i)) i else 0) s)))

def execVstx (d a b : BitVec 6) (p : BitVec 3) (s : State) : Out :=
  readable s [(a.toNat, s.mask p), (d.toNat, s.mask p)] (
    let r (i : Nat) : Nat := (s.sr b).toNat + (lane (s.v a) i).toNat
    let v := s.v d
    checkedLanes s p r
      (.next (((activeLanes (s.mask p)).map fun i => (i, r i)).foldl (fun s x => s.setVec x.2 (oneLane x.1) v) s).retire))

/-! ### Compaction (R216 to R218) -/

def curVreg (c : Nat) : Nat := bits c 11 0
def curOreg (c : Nat) : Nat := bits c 23 12
def curNent (c : Nat) : Nat := bits c 39 24
def curGap (c : Nat) : Nat := bits c 47 40
def curStart (c : Nat) : Nat := bits c 62 57

/-- A cursor with its rewritten fields (R216). -/
def cursor (c ovf start done gap nent : Nat) : Word :=
  BitVec.ofNat 64 (bits c 23 0 + nent * 2 ^ 24 + gap * 2 ^ 40 + done * 2 ^ 51 + start * 2 ^ 57 + ovf * 2 ^ 63)

/-- Where a pass of VCOMPRESS stands: gap, entries, those stored in this pass with their values and offsets, and the lane it stopped
at. -/
structure Pack where
  gap : Nat := 0
  nent : Nat := 0
  stored : List (Nat × W32 × Nat) := []
  stop : Option Nat := none
  deriving DecidableEq, Repr

/-- One lane of VCOMPRESS (R217). -/
def Pack.lane (q : Pack) (i : Nat) (x : W32) : Pack :=
  if q.stop.isSome then q
  else if x = 0 then (if q.gap = 255 then { q with stop := some i } else { q with gap := q.gap + 1 })
  else if q.nent = 65535 then { q with stop := some i }
  else { q with stored := q.stored ++ [(q.nent, x, q.gap)], nent := q.nent + 1, gap := 0 }

/-- Registers that entry n lies in (R216). -/
def entryRegs (c n : Nat) : Nat × Nat := (curVreg c + n / 32, curOreg c + n / 128)

/-- Stores entry n with a value and an offset (R216). -/
def State.storeEntry (s : State) (c n : Nat) (x : W32) (off : Nat) : State :=
  let r := entryRegs c n
  let s := s.setVec r.1 (oneLane (n % 32)) (ofLanes fun _ => x)
  let k := n % 128 / 4
  let old := lane (s.vec r.2) k
  let b := 8 * (n % 4)
  let new := (old &&& ~~~(255#32 <<< b)) ||| (BitVec.ofNat 32 off <<< b)
  s.setVec r.2 (oneLane k) (ofLanes fun _ => new)

/-- Lanes from START on. -/
def lanesFrom (start : Nat) : List Nat := (List.range 32).filter fun i => decide (start ≤ i)

/-- VCOMPRESS: the cursor's checks, then the registers of the entries that it stores: the trap value names the first entry's that fails, its value
register before its offset register (R217; DESIGN CHOICE, log 35). -/
def execVcompress (d a b : BitVec 6) (p : BitVec 3) (s : State) : Out :=
  let c := (s.sr b).toNat
  if 32 < curStart c ∨ bits c 50 48 ≠ 0 then .next (s.illegal (.vcompress d a b p))
  else
    readable s [(a.toNat, s.mask p &&& maskOf fun i => decide (curStart c ≤ i))] (
      let q := (lanesFrom (curStart c)).foldl (fun (q : Pack) i =>
        q.lane i (if (s.mask p).getLsbD i then Machine.lane (s.v a) i else 0)) { gap := curGap c, nent := curNent c }
      let regs := q.stored.flatMap fun x => [(entryRegs c x.1).1, (entryRegs c x.1).2]
      match regs.find? fun r => decide (s.w ≤ r) with
      | some r => .next (s.trapWith (badIndex r))
      | none =>
        let s := q.stored.foldl (fun s x => s.storeEntry c x.1 x.2.1 x.2.2) s
        .next ((s.setSr d (cursor c (if q.stop.isSome then 1 else 0) (q.stop.getD 0) q.stored.length q.gap q.nent)).retire))

/-- Where a pass of VEXPAND stands: gap, entries, those consumed, the lanes' values, and the registers read with their lanes. -/
structure Unpack where
  gap : Nat := 0
  nent : Nat := 0
  used : Nat := 0
  lanes : List (Nat × W32) := []
  reads : List (Nat × BitVec 32) := []
  deriving DecidableEq, Repr

/-- One lane of VEXPAND for a stream of n entries (R218). -/
def State.expandLane (s : State) (c n : Nat) (q : Unpack) (i : Nat) : Unpack :=
  if n ≤ q.nent then { q with lanes := q.lanes ++ [(i, 0)] }
  else
    let r := entryRegs c q.nent
    let k := q.nent % 128 / 4
    let off := (Machine.lane (s.vec r.2) k).toNat / 2 ^ (8 * (q.nent % 4)) % 256
    let q := { q with reads := q.reads ++ [(r.2, oneLane k)] }
    if q.gap < off then { q with lanes := q.lanes ++ [(i, 0)], gap := q.gap + 1 }
    else
      { gap := 0, nent := q.nent + 1, used := q.used + 1
        lanes := q.lanes ++ [(i, Machine.lane (s.vec r.1) (q.nent % 32))], reads := q.reads ++ [(r.1, oneLane (q.nent % 32))] }

/-- VEXPAND: the cursor's checks, then the registers of the entries that it reads: the trap value names the first that it needs, an entry's offset
register before its value register (R218; DESIGN CHOICE, log 35). -/
def execVexpand (d a b : BitVec 6) (p : BitVec 3) (s : State) : Out :=
  let c := (s.sr a).toNat
  if 32 < curStart c ∨ bits c 50 48 ≠ 0 then .next (s.illegal (.vexpand d a b p))
  else
    let n := (s.sr b).toNat % 65536
    let q := (lanesFrom (curStart c)).foldl (s.expandLane c n) { gap := curGap c, nent := curNent c }
    match q.reads.find? fun r => decide (s.w ≤ r.1) with
    | some r => .next (s.trapWith (badIndex r.1))
    | none =>
      readable s q.reads (
        let m := s.mask p &&& maskOf fun i => decide (curStart c ≤ i)
        let v := ofLanes fun i => ((q.lanes.find? fun x => decide (x.1 = i)).map (·.2)).getD 0
        .next (((s.setVec d.toNat m v).setSr a (cursor c 0 0 q.used q.gap q.nent)).retire))

end Sys2Proof.Machine
end

