-- ==== Sys2Proof/Machine/Matrix.lean ====
section
/-! DEFINITION. The term array and the near-bank units, opcodes 0x50 to 0x54: MMA, the accumulator moves, the format registers, NBMV
and the term counters (15_matrix R219 to R237; 13_number_formats R177 to R188). -/

namespace Sys2Proof.Machine

/-! ### Format words and operands (R173, R179 to R181, R221) -/

def fmtA (f : Nat) : Nat := bits f 3 0
def fmtB (f : Nat) : Nat := bits f 7 4
def fmtAcct (f : Nat) : Bool := bit f 8
def fmtScale (f : Nat) : Nat := bits f 10 9
def fmtGroup (f : Nat) : Nat := 32 * 2 ^ bits f 12 11
def fmtSubn (f : Nat) : Bool := bit f 13
def fmtSat (f : Nat) : Bool := bit f 14
def fmtAscl (f : Nat) : Nat := bits f 27 16
def fmtBscl (f : Nat) : Nat := bits f 39 28

/-- 0 floating-point, 1 symmetric integer, 2 asymmetric (R179). -/
def fmtClass (code : Nat) : Nat := if code ≤ 7 then 0 else if code ≤ 9 then 1 else 2

/-- The rules of R179. -/
def fmtOk (f : Nat) : Bool :=
  decide (fmtA f ≤ 11 ∧ fmtB f ≤ 11 ∧ elemBits (fmtA f) = elemBits (fmtB f) ∧ fmtClass (fmtA f) = fmtClass (fmtB f))
  && (!fmtAcct f || decide (fmtClass (fmtA f) = 1))
  && (if fmtClass (fmtA f) = 2 then decide (fmtScale f = 2 ∧ bits f 12 11 ≤ 2)
      else decide (fmtScale f = 0)
        || decide (fmtScale f = 1 ∧ 3 ≤ fmtA f ∧ fmtA f ≤ 7 ∧ 3 ≤ fmtB f ∧ fmtB f ≤ 7))

/-- K: the elements of a row of 384 bytes (R221). -/
def rowElems (code : Nat) : Nat := 3072 / elemBits code

/-- Element k of a row's bits (R173). -/
def rowElem (code row k : Nat) : Nat := row / 2 ^ (elemBits code * k) % 2 ^ elemBits code

/-- The elements of a row. -/
def rowElemsOf (code row : Nat) : List Nat := (List.range (rowElems code)).map (rowElem code row)

/-- A BLOCK9 exponent of row i at block j in an area (R180). -/
def blockScale (area i j : Nat) : Nat := area / 2 ^ (8 * (64 * i + 2 * j)) % 512

/-- A GROUP entry of row i at group j (R180). -/
def groupScale (area i j : Nat) : Nat := area / 2 ^ (8 * (128 * i + 4 * j)) % 2 ^ 32

/-- The FP16 scale of a GROUP entry. -/
def scaleOf (w : Nat) : Num := (floatFmt 2).value (w % 65536)

/-- The zero point of a GROUP entry for a format code: AINT4 uses four bits. -/
def zeroOf (code w : Nat) : Nat := if code = 11 then bits w 19 16 else bits w 23 16

/-! ### Terms (R177, R220) -/

/-- TermsOf: positions and digits of the non-adjacent form; `fuel` exceeds the bits of v. -/
def termsOf : Nat → Nat → Int → List (Nat × Int)
  | 0, _, _ => []
  | fuel + 1, i, v =>
    if v = 0 then []
    else if v % 2 = 0 then termsOf fuel (i + 1) (v / 2)
    else
      let d := 2 - v % 4
      (i, d) :: termsOf fuel (i + 1) ((v - d) / 2)

/-- The terms that an element contributes, with the zero point of its group (R177, R220). -/
def elemTerms (code x z : Nat) : Nat :=
  if fmtClass code = 0 then
    match (floatFmt code).value x with
    | .fin _ m _ => (termsOf 64 0 m).length
    | _ => 0
  else if fmtClass code = 1 then (termsOf 64 0 (signed x (elemBits code))).length
  else (termsOf 64 0 ((x : Int) - z)).length

/-- Whether an element is a zero under R220. -/
def elemZero (code x z : Nat) : Bool :=
  if fmtClass code = 0 then ((floatFmt code).value x).isZero else if fmtClass code = 1 then decide (x = 0) else decide (x = z)

/-- T(n, j) for each block of a column, and the column's zeros (R220). -/
def columnTerms (code : Nat) (xs : List Nat) (zero : Nat → Nat) : List Nat × Nat :=
  let ys := (List.range xs.length).zip xs
  ((List.range (xs.length / 32)).map fun j =>
      ((ys.drop (32 * j)).take 32).foldl (fun n y => n + elemTerms code y.2 (zero y.1)) 0,
   (ys.filter fun y => elemZero code y.2 (zero y.1)).length)

/-- Group times of R223 from T(n, j). -/
def groupTimes (ts : List (List Nat)) (blocks : Nat) : List Nat :=
  (List.range 4).map fun g => (List.range blocks).foldl (fun sum j =>
    sum + ((List.range 4).foldl (fun m c => max m (((ts.getD (4 * g + c) []).getD j 0 + 31) / 32)) 0)) 0

/-- The issue interval I (R223). -/
def interval (times : List Nat) : Nat := times.foldl max 1

/-! ### One element of the product (R182 to R187) -/

/-- What an element has become, whether a subnormal was flushed, and whether it needs the assist. -/
structure Elem where
  acc : W32 := 0
  uf : Bool := false
  opened : Bool := false
  deriving DecidableEq, Repr

/-- RoundFP32 under saturation (R183, R185). -/
def roundSat (sat : Bool) : Num → W32
  | .fin neg m e =>
    let g := ((floatFmt 0).grid .rne m e).1
    BitVec.ofNat 32 ((floatFmt 0).signed neg (if g ≤ (floatFmt 0).top then g else if sat then (floatFmt 0).top else 0x7F800000))
  | x => rne32 x

/-- AccAdd of R183, with R184: a subnormal result is flushed, or kept for the assist. -/
def Elem.add (x : Elem) (y : W32) (sat subn : Bool) : Elem :=
  let r := roundSat sat ((num32 x.acc).add (num32 y))
  let tiny := decide (r.toNat % 2 ^ 31 ≠ 0 ∧ r.toNat % 2 ^ 31 < 0x00800000)
  if !tiny then { x with acc := r }
  else if subn then { x with acc := r, opened := true }
  else { x with acc := r &&& 0x80000000, uf := true }

/-- The largest of some exponents. -/
def maxExp : List Int → Int
  | [] => 0
  | x :: xs => xs.foldl max x

/-- A block's sum of products in the window of R183, as an integer and the exponent of its unit; none where there is no product. -/
def blockSum (ps : List (Num × Num)) : Option (Int × Int) :=
  let ms := ps.filterMap fun p => match p.1.mul p.2 with
    | .fin s m e => if m = 0 then none else some (s, m, e)
    | _ => none
  if ms = [] then none
  else
    let q := maxExp (ms.map fun x => x.2.2 + bitLen x.2.1 - 1) - 89
    let term (x : Bool × Nat × Int) : Int :=
      let v : Nat := if q ≤ x.2.2 then x.2.1 * 2 ^ (x.2.2 - q).toNat else x.2.1 / 2 ^ (q - x.2.2).toNat
      if x.1 then -(v : Int) else v
    some (ms.foldl (fun z x => z + term x) 0, q)

/-- Pairs of the block j of two rows of values. -/
def blockOf {α : Type} (j : Nat) (ps : List α) : List α := (ps.drop (32 * j)).take 32

/-- Infinite products and products of an infinity and a zero: the signs of the first, and whether there is one of the second (R182). -/
def screenPairs (ps : List (Num × Num)) : List Bool × Bool :=
  (ps.filterMap fun p => if p.1.isInf || p.2.isInf then some (p.1.isNeg != p.2.isNeg) else none,
   ps.any fun p => p.1.isInf && p.2.isZero || p.1.isZero && p.2.isInf)

/-- Steps 1 to 4 of R182: `bad` is step 1's and step 2's verdict on the operands, `signs` those of the infinite products. -/
def screen (c : W32) (bad : Bool) (signs : List Bool) : Option W32 :=
  let ss := if (num32 c).isInf then (num32 c).isNeg :: signs else signs
  if bad || isNan c then some nan32
  else if ss.contains true && ss.contains false then some nan32
  else match ss with
    | [] => none
    | x :: _ => some (rne32 (.inf x))

/-- The integer sum of a group of an asymmetric pair (R187). -/
def groupSum (ps : List (Nat × Nat)) (za zb : Nat) : Int :=
  ps.foldl (fun z p => z + ((p.1 : Int) - za) * ((p.2 : Int) - zb)) 0

/-- The exact integer sum of a block of a symmetric pair (R183, R186). -/
def intSum (code : Nat) (ps : List (Nat × Nat)) : Int :=
  ps.foldl (fun z p => z + signed p.1 (elemBits code) * signed p.2 (elemBits code)) 0

/-- ACCT = 1: blocks are added in ascending order, wrapping or clamped (R186). -/
def intElem (c : W32) (sums : List Int) (sat : Bool) : Elem :=
  { acc := sums.foldl (fun a z => if sat then clamp32 (a.toInt + z) else BitVec.ofInt 32 (a.toInt + z)) c }

/-- Result of R182 to R187 for an accumulator word, a row, a column, their scale areas and numbers, a format word and the saturate
option. Where a group's sum is not zero and a scale is, the sign of the zero product is the exclusive or of the three signs (R187; DESIGN
CHOICE, log 84). -/
def termElem (f : Nat) (sat : Bool) (c : W32) (as bs : List Nat) (i n sa sb : Nat) : Elem :=
  let ca := fmtA f
  let cb := fmtB f
  let subn := fmtSubn f
  let blocks := as.length / 32
  if fmtClass ca = 1 then
    let ps := as.zip bs
    let block (j : Nat) : List (Nat × Nat) := blockOf j ps
    if fmtAcct f then intElem c ((List.range blocks).map fun j => intSum ca (block j)) sat
    else (List.range blocks).foldl (fun x j =>
        if (block j).all fun p => decide (p.1 = 0 ∨ p.2 = 0) then x
        else x.add (roundSat sat (ofInt (intSum ca (block j)) 0 false)) sat subn) { acc := c }
  else if fmtClass ca = 0 then
    let ps := (as.map (elemValue ca)).zip (bs.map (elemValue cb))
    let block9 := decide (fmtScale f = 1)
    let nans := (ps.any fun p => decide (p.1 = .nan) || decide (p.2 = .nan))
      || block9 && (List.range blocks).any fun j => decide (blockScale sa i j = 511 ∨ blockScale sb n j = 511)
    let sc := screenPairs ps
    match screen c (nans || sc.2) sc.1 with
    | some x => { acc := x }
    | none => (List.range blocks).foldl (fun x j =>
        match blockSum (blockOf j ps) with
        | none => x
        | some (z, q) =>
          let e := if block9 then q + blockScale sa i j + blockScale sb n j - 510 else q
          x.add (roundSat sat (ofInt z e false)) sat subn) { acc := c }
  else
    let g := fmtGroup f
    let ps := as.zip bs
    let groups := (List.range (as.length / g)).map fun j =>
      let wa := groupScale sa i j
      let wb := groupScale sb n j
      (groupSum ((ps.drop (g * j)).take g) (zeroOf ca wa) (zeroOf cb wb), scaleOf wa, scaleOf wb)
    let bad := groups.any fun x => decide (x.2.1 = .nan ∨ x.2.2 = .nan) || decide (x.2.1.mul x.2.2 = .nan)
      || decide (x.1 = 0) && (x.2.1.mul x.2.2).isInf
    let signs := groups.filterMap fun x =>
      if (x.2.1.mul x.2.2).isInf then some (decide (x.1 < 0) != (x.2.1.mul x.2.2).isNeg) else none
    match screen c bad signs with
    | some x => { acc := x }
    | none => groups.foldl (fun x y =>
        if y.1 = 0 then x else x.add (roundSat sat ((ofInt y.1 0 false).mul (y.2.1.mul y.2.2))) sat subn) { acc := c }

/-! ### MMA (R222 to R228) -/

/-- A register index relative to the window from a scale field of a format word (R225 step 3). -/
def State.scaleStart (s : State) (x : Nat) : Nat := (x + 4096 - winStart s.cur s.me % 4096) % 4096

/-- Registers of a scale area (R180). -/
def scaleRegs (f : Nat) : Nat := if fmtScale f = 1 then 8 else 16

/-- Steps 1 to 3 of R225. -/
def State.mmaChecks (s : State) (i : Instr) (f ba bb : Nat) : Except Trap Unit :=
  let ra := s.scaleStart (fmtAscl f)
  let rb := s.scaleStart (fmtBscl f)
  if fmtOk f = false then .error (causeILLEGAL, (encode i).setWidth 64)
  else if s.w < ba + 48 then .error (badIndex ba)
  else if s.w < bb + 48 then .error (badIndex bb)
  else if fmtScale f ≠ 0 ∧ s.w < ra + scaleRegs f then .error (badIndex ra)
  else if fmtScale f ≠ 0 ∧ s.w < rb + scaleRegs f then .error (badIndex rb)
  else .ok ()

/-- Bits of the row i of the tile at window register b (R221). -/
def State.tileRow (s : State) (b i : Nat) : Nat := s.groupBits (b + 3 * i) 3

/-- The zero point of element k of column n (R180, R187). -/
def columnZero (f sb n k : Nat) : Nat := if fmtClass (fmtB f) = 2 then zeroOf (fmtB f) (groupScale sb n (k / fmtGroup f)) else 0

/-- The operands of an MMA as it captures them at issue: the format word, saturation, the start values, the rows, the columns and
the scale areas (R226). -/
structure Product where
  f : Nat := 0
  sat : Bool := false
  start : Tile := 0
  rows : List Nat := []
  cols : List Nat := []
  sa : Nat := 0
  sb : Nat := 0
  deriving DecidableEq, Repr

/-- The elements of a product, element 16 i + n in that place. -/
def Product.elems (p : Product) : List Elem :=
  let bs := p.cols.map (rowElemsOf (fmtB p.f))
  ((List.range 16).zip p.rows).flatMap fun r =>
    let as := rowElemsOf (fmtA p.f) r.2
    ((List.range 16).zip bs).map fun c => termElem p.f p.sat (elemOf p.start (16 * r.1 + c.1)) as c.2 r.1 c.1 p.sa p.sb

/-- TERMS, ZSKIP, I, GSTALL and the B format of a product (R223, R236). -/
def Product.counts (p : Product) : List Nat :=
  let cols := ((List.range 16).zip p.cols).map fun c =>
    columnTerms (fmtB p.f) (rowElemsOf (fmtB p.f) c.2) (columnZero p.f p.sb c.1)
  let times := groupTimes (cols.map (·.1)) (rowElems (fmtB p.f) / 32)
  let i := interval times
  [cols.foldl (fun n c => n + c.1.foldl (· + ·) 0) 0, cols.foldl (fun n c => n + c.2) 0, i,
   times.foldl (fun n t => n + (i - t)) 0, fmtB p.f]

/-- The tile that an MMA writes: an element that needs the assist keeps the word that the tile holds. -/
def tileResult (old : Tile) (es : List Elem) : Tile :=
  ofElems fun x => let e := es.getD x {}; if e.opened then elemOf old x else e.acc

/-- The elements that need the assist, as a mask. -/
def openMask (es : List Elem) : BitVec 256 :=
  BitVec.ofNat 256 ((List.range 256).foldl (fun m x => if (es.getD x {}).opened then m + 2 ^ x else m) 0)

/-- Goes on where tile k is not locked; a locked tile gives a retry (R224). -/
def withLock (s : State) (k : Nat) (go : Out) : Out :=
  if (s.core (threadCore s.cur)).locks.contains k then .next (s.park (.retry (.lock (threadCore s.cur) k))) else go

/-- Locks tile k and queues an MMA with its result (R223, R224). -/
def State.startMma (s : State) (i : Instr) (k : Nat) (p : Product) : State :=
  let g := threadCore s.cur
  let es := p.elems
  let c := s.core g
  let s := s.setCore g { c with locks := insertNew c.locks k, arrayQueue := c.arrayQueue ++ [s.cur] }
  s.park (.mma false (s.cycleOf s.cur + 1) k (tileResult (s.tileAt g k) es) (es.any (·.uf)) (openMask es) p.counts (encode i))

def execMma (e : BitVec 5) (a b : BitVec 6) (f : BitVec 2) (z u : BitVec 1) (s : State) : Out :=
  let i : Instr := .mma e a b f z u
  withTile i e s (onCore i s (
    let w := (SMap.getD s.me.fmt f.toNat 0).toNat
    let ba := (s.sr a).toNat
    let bb := (s.sr b).toNat
    match s.mmaChecks i w ba bb with
    | .error x => .next (s.trapWith x)
    | .ok _ =>
      let k := s.me.tile e.toNat
      withLock s k (
        let ra := s.scaleStart (fmtAscl w)
        let rb := s.scaleStart (fmtBscl w)
        let n := if fmtScale w = 0 then 0 else scaleRegs w
        readable s (wholeRegs ba 48 ++ wholeRegs bb 48 ++ wholeRegs ra n ++ wholeRegs rb n) (
          let go : Out := .next (s.startMma i k {
            f := w, sat := decide (u = 1) || fmtSat w
            start := if z = 1 then 0 else s.tileAt (threadCore s.cur) k
            rows := (List.range 16).map (s.tileRow ba), cols := (List.range 16).map (s.tileRow bb)
            sa := s.groupBits ra n, sb := s.groupBits rb n })
          if z = 1 then go else readableTile s k go))))

/-- MMA_ARRAY_START: the MMA at the head of the array's queue starts once the array is free (R223). -/
def State.mmaArrayStart (s : State) (t : Nat) : State :=
  let g := threadCore t
  let c := s.core g
  match (s.thr t).wait, c.arrayQueue with
  | .mma false due tile res uf opens counts word, x :: rest =>
    let t0 := max due c.arrayFree
    if x = t ∧ t0 ≤ s.cycleOf t then
      let i := counts.getD 2 0
      let s := s.setCore g { c with arrayQueue := rest, arrayFree := t0 + i }
      s.setThr t { s.thr t with wait := .mma true (t0 + i + 4) tile res uf opens counts word }
    else s
  | _, _ => s

def execMmaArrayStart (t : Nat) (s : State) : Out := .next (s.mmaArrayStart t)

/-- The elements that an assist is open on are named in the thread's record (R286). -/
def State.openAssist (s : State) (t tile : Nat) (opens : BitVec 256) : State :=
  { s with records := s.records.map fun r =>
    if r.handle = threadHandle t ∧ r.cause = causeASSIST then { r with opens := opens, tile := tile } else r }

/-- MMA_COMPLETE: at its cycle the MMA writes its tile and counts; it unlocks the tile and its thread wakes, or the lock stays and
ASSIST is raised, with RESUME at PC + 4 (R223, R224, R226, R236). An abort or a squash that reached the thread meanwhile takes effect
now, in place of the wake or of the assist, and frees the lock (R228). -/
def State.mmaComplete (s : State) (t : Nat) : State :=
  match (s.thr t).wait with
  | .mma true due tile res uf opens counts word =>
    if due ≤ s.cycleOf t then
      let g := threadCore t
      let s := s.setTileAt t tile res
      let c := s.core g
      let s := s.setCore g (c.count (s.cycleOf t) counts)
      let th := s.thr t
      let s := s.setThr t { th with wait := .ready, fflags := if uf then th.fflags ||| flagUF else th.fflags }
      if th.doomed.isSome then (s.unlock g tile).meetDoom t
      else if opens = 0 then (s.unlock g tile).wakeAt t
      else (s.takeTrap t causeASSIST (word.setWidth 64) (th.pc + 4)).openAssist t tile opens
    else s
  | _ => s

def execMmaComplete (t : Nat) (s : State) : Out := .next (s.mmaComplete t)

/-! ### Accumulator moves (R229, R230) -/

/-- The checks that the four forms share: the accumulator's name, the unit, and eight registers from s[a] where `regs` is 8. -/
def moveChecks (i : Instr) (e : BitVec 5) (x regs : Nat) (s : State) (go : Out) : Out :=
  withTile i e s (onCore i s (
    if s.w < x + regs then .next (s.trapWith (badIndex x)) else withLock s (s.me.tile e.toNat) go))

def execAcczero (e : BitVec 5) (s : State) : Out :=
  moveChecks (.acczero e) e 0 0 s (.next ((s.setTileAt s.cur (s.me.tile e.toNat) 0).retire))

def execAccld (e : BitVec 5) (a : BitVec 6) (s : State) : Out :=
  let x := (s.sr a).toNat
  moveChecks (.accld e a) e x 8 s (readable s (wholeRegs x 8)
    (.next ((s.setTileAt s.cur (s.me.tile e.toNat) (BitVec.ofNat 8192 (s.groupBits x 8))).retire)))

def execAccst (e : BitVec 5) (a : BitVec 6) (s : State) : Out :=
  let x := (s.sr a).toNat
  let k := s.me.tile e.toNat
  moveChecks (.accst e a) e x 8 s (readableTile s k
    (.next ((s.setGroup x 8 (s.tileAt (threadCore s.cur) k).toNat).retire)))

/-- Registers that ACCCVT writes for ACCT and AFMT, none where the pair is ILLEGAL (R230). -/
def cvtRegs (acct : Bool) (t : Nat) : Option Nat :=
  if acct then (if t = 0 then some 8 else if t = 8 then some 2 else if t = 9 then some 1 else none)
  else if t = 0 then some 8
  else if t = 1 ∨ t = 2 then some 4
  else if t = 3 ∨ t = 4 ∨ t = 8 ∨ t = 5 ∨ t = 6 then some 2
  else if t = 7 ∨ t = 9 then some 1
  else none

/-- A signed 32-bit word clamped to n bits. -/
def clampBits (n : Nat) (x : W32) : Nat := trunc (min (2 ^ (n - 1) - 1) (max (-2 ^ (n - 1)) x.toInt)) n

/-- One element of ACCCVT (R230). -/
def cvtElem (acct : Bool) (t : Nat) (x : W32) : Nat :=
  if acct then (if t = 0 then (rne32 (ofInt x.toInt 0 false)).toNat else clampBits (elemBits t) x)
  else if t = 0 then x.toNat else narrow t .rne x

def execAcccvt (e : BitVec 5) (a : BitVec 6) (f : BitVec 2) (s : State) : Out :=
  let i : Instr := .acccvt e a f
  let w := (SMap.getD s.me.fmt f.toNat 0).toNat
  let x := (s.sr a).toNat
  withTile i e s (onCore i s (
    match cvtRegs (fmtAcct w) (fmtA w) with
    | none => .next (s.illegal i)
    | some n =>
      moveChecks i e x n s (
        let k := s.me.tile e.toNat
        readableTile s k (
          let v := s.tileAt (threadCore s.cur) k
          let r := packBits (elemBits (fmtA w)) (fun y => cvtElem (fmtAcct w) (fmtA w) (elemOf v y)) 256
          if elemBits (fmtA w) = 6 then
            .next (((s.setGroup x 1 r).setVec (x + 1) 0x0000FFFF (BitVec.ofNat 1024 (r / 2 ^ 1024))).retire)
          else .next ((s.setGroup x n r).retire)))))

/-! ### Format registers (R231) -/

def execFmtw (d a : BitVec 6) (s : State) : Out :=
  onCore (.fmtw d a) s (.next ((s.setMe (s.me.fmtWrite (winStart s.cur s.me) d.toNat (s.sr a))).retire))

def execFmtr (d a : BitVec 6) (s : State) : Out :=
  onCore (.fmtr d a) s (writeScalar d (s.me.fmtRead (winStart s.cur s.me) a.toNat) s)

/-! ### NBMV (R232 to R235) -/

/-- The addresses of the bytes of matrix row n (R125, R234). -/
def NearOp.rowVas (o : NearOp) (n : Nat) : List Nat := (List.range 384).map fun b => layVa o.mat.toNat [o.x0 + b, o.x1 + n]

/-- Result n from the bytes of its matrix row (R234). -/
def NearOp.result (o : NearOp) (bs : List Byte) : W32 :=
  let f := o.fmt
  (termElem f (fmtSat f) 0 (rowElemsOf (fmtA f) o.row.toNat) (rowElemsOf (fmtB f) (leNat bs)) 0 0 0 0).acc

/-- The address of result n in OUT. -/
def NearOp.outVa (o : NearOp) (n : Nat) : Nat := (layBase o.out.toNat + o.off + 4 * n) % 2 ^ 64

/-- Steps 1 to 3 of R233: the cause of the first that fails. -/
def State.nbmvFormChecks (s : State) (t : Nat) (i : Instr) (w : List Nat) (l2 : Bool) (f : Nat) : Except Trap Unit :=
  let w0 := w.getD 0 0
  let w1 := w.getD 1 0
  let w3 := w.getD 3 0
  let ill : Except Trap Unit := .error (causeILLEGAL, (encode i).setWidth 64)
  let n := bits w0 24 12
  let vec := bits w0 11 0
  let mustBeZero := if l2 then decide (w1 / 2 ^ 8 = 0 ∧ w3 / 2 ^ 32 = 0 ∧ bits w3 31 29 ≤ 5)
    else decide (w1 / 2 ^ 12 = 0 ∧ w.getD 2 0 = 0 ∧ w3 = 0)
  if w0 / 2 ^ 25 ≠ 0 ∨ 4096 < n ∨ mustBeZero = false then ill
  else if fmtOk f = false ∨ fmtScale f ≠ 0 then ill
  else if winSize t (s.thr t) < vec + 3 then .error (badIndex vec)
  else if l2 = false ∧ winSize t (s.thr t) < w1 + (n + 31) / 32 then .error (badIndex w1)
  else .ok ()

/-- Steps 1 to 6 of R233: the operation, with DST for a result in the window. -/
def State.nbmvChecks (s : State) (t : Nat) (i : Instr) (w : List Nat) (l c : Nat) (l2 : Bool) (f : Nat) : Except Trap NearOp :=
  let w0 := w.getD 0 0
  let w1 := w.getD 1 0
  let w2 := w.getD 2 0
  let w3 := w.getD 3 0
  let bad (l : Nat) : Except Trap NearOp := .error (causeLAYOUT, BitVec.ofNat 64 l)
  let n := bits w0 24 12
  let vec := bits w0 11 0
  let th := s.thr t
  match s.nbmvFormChecks t i w l2 f with
  | .error x => .error x
  | .ok _ =>
    let e := s.layoutEntry t l
    let x0 := (th.s c).toNat
    let x1 := (th.s (c + 1)).toNat
    if 63 < c + 1 ∨ layValid e = false ∨ layKind e ≠ 2 ∨ laySpace e ≠ 0 ∨ layDirected e = true ∨ layEsize e ≠ 1
        ∨ layGrants e 1 = false ∨ layDim e 0 < x0 + 384 ∨ layDim e 1 < x1 + n then bad l
    else
      let a := s.agent t
      let o : NearOp := { thread := t, region := s.recordRegion t, ctx := a.ctx, heap := a.heap
                          row := BitVec.ofNat 3072 (s.groupBits vec 3), fmt := f, mat := BitVec.ofNat 512 e, x0 := x0, x1 := x1, n := n
                          dst := if l2 then 0 else w1 }
      if !l2 then .ok o
      else
        let out := s.layoutEntry t w1
        if layValid out = false ∨ layKind out ≠ 1 ∨ laySpace out ≠ 0 ∨ layDirected out = true ∨ layGrants out 2 = false then bad w1
        else if w2 % 4 ≠ 0 then .error (alignIndex w1)
        else if layExtent out < w2 + 4 * n then bad w1
        else
          let sel := bits w3 28 12
          match selectCluster t sel with
          | none => .error (causeREMOTE, BitVec.ofNat 64 sel)
          | some cl =>
            if s.signalOk t cl (bits w3 11 0) then
              .ok { o with out := BitVec.ofNat 512 out, off := w2, scope := bits w3 31 29, sel := cl, cnt := bits w3 11 0 }
            else .error (causeREMOTE, BitVec.ofNat 64 sel)

/-- The NBMV that issues passed its checks and is performed later, as it is (R124, R233). -/
def State.parkLater (s : State) (o : NearOp) (r : Retry) : State := (s.setMe { s.me with near := some o }).park (.retry r)

/-- The thread that issues parks for a near-bank access that waits: for lines in X, or for a run at a directory (R167, R261). -/
def State.parkNear (s : State) (o : NearOp) (lines : List Nat) : Reply → State
  | .wait k ts =>
    if lines ≠ [] then s.parkLater o (.lineX lines)
    else match s.resolveConflicts o.agent k ts with
      | (s, some tile) => s.tick1.parkLater o (.conflict tile s.fresh k)
      | (s, none) => s.parkLater o (.lineX [])
  | _ => s

/-- The registers of the results, the last with the lanes that N leaves (R234). -/
def resultRegs (rs : List W32) : List (BitVec 32 × Vec) :=
  (List.range ((rs.length + 31) / 32)).map fun k =>
    (maskOf fun i => decide (32 * k + i < rs.length), ofLanes fun i => rs.getD (32 * k + i) 0)

/-- Groups of 384 bytes. -/
def rowsOf : Nat → List Byte → List (List Byte)
  | 0, _ => []
  | n + 1, bs => bs.take 384 :: rowsOf n (bs.drop 384)

/-- NBMV.L2 after its checks: the destination lines of the results that translate are taken into X, and the operation is the near-bank
units'; the request waits while a page has live side-log entries or a line must be waited for (R166, R235): then the lines in X that it
waits for, and the reply. -/
def State.nearLines (s : State) (o : NearOp) : List Nat → List Nat → State × Except (List Nat × Reply) (List Nat)
  | [], ls => (s, .ok ls)
  | n :: ns, ls =>
    let vas := span (o.outVa n) 4
    let e := o.out.toNat
    match s.engineXlat o.agent e permW true vas with
    | (s, .error (.wait k ts)) =>
      (s, .error (s.tableWaits o.agent (laySpace e) (layModule e) permW true (pagesOf vas), .wait k ts))
    | (s, .error _) => s.nearLines o ns ls
    | (s, .ok xs) =>
      match s.engineTake o.agent e xs ls vas with
      | (s, .error r) => (s, .error ((s.heldLines o.agent e xs vas).filter fun l => !ls.contains l, r))
      | (s, .ok more) => s.nearLines o ns (more.foldl insertNew ls)

/-- One NBMV counted in NBMVN (R236). -/
def State.countNbmv (s : State) : State :=
  let g := threadCore s.cur
  let c := s.core g
  s.setCore g { c with terms := SMap.set c.terms 17 (SMap.getD c.terms 17 0 + 1) }

/-- NBMV.REG after its checks: the matrix is read and the results are written when the thread wakes (R235). -/
def State.nearToWindow (s : State) (o : NearOp) : State :=
  let vas := (List.range o.n).flatMap o.rowVas
  let live := (s.core (threadCore s.cur)).livePages o.ctx (pagesOf vas)
  if live ≠ [] then s.parkLater o (.pageLive live)
  else
    let tables := s.tableWaits o.agent 0 0 permR false (pagesOf vas)
    if tables ≠ [] then s.parkLater o (.lineX tables)
    else match s.resolveAll o.agent (s.walkRequests o.agent 0 0 permR false (pagesOf vas)) with
    | (s, some (k, ts, _)) => s.parkNear o [] (.wait k ts)
    | (s, none) =>
    match s.translateAll o.agent 0 0 permR false (pagesOf vas) with
    | (s, .error p) => s.trap causePAGE (BitVec.ofNat 64 (firstIn p vas))
    | (s, .ok xs) =>
      match s.engineAdmit o.agent o.mat.toNat xs reqRead [] vas with
      | (s, some r) => s.parkNear o (s.heldLines o.agent o.mat.toNat xs vas) r
      | (s, none) =>
        match s.badFor o.agent o.mat.toNat xs true vas with
        | some v => s.trap causeDATA (BitVec.ofNat 64 v)
        | none =>
          match s.engineReadAt o.agent o.mat.toNat xs [] vas with
          | (s, .done bs) => s.park (.response (bankOfAccess xs vas) (.window o.dst (resultRegs ((rowsOf o.n bs).map o.result))))
          | (s, _) => s

/-- NBMV.L2 after its checks: the near-bank units accept it, with its destination lines in X. -/
def State.nearToMemory (s : State) (o : NearOp) : State :=
  let vas := (List.range o.n).flatMap fun n => o.outVa n :: o.rowVas n
  let live := (s.core (threadCore s.cur)).livePages o.ctx (pagesOf vas)
  if live ≠ [] then s.parkLater o (.pageLive live)
  else match s.nearLines o (List.range o.n) [] with
    | (_, .error (lines, r)) => s.parkNear o lines r
    | (s, .ok ls) =>
      let s := s.takeX ls
      let k := s.cluster (threadCluster s.cur)
      (s.setCluster (threadCluster s.cur) { k with nears := k.nears ++ [{ o with lines := ls }] }).park (.response noBank .none)

/-- An NBMV whose checks are passed is performed (R234, R235). -/
def State.performNbmv (s : State) (l2 : Bool) (o : NearOp) : State :=
  if l2 then s.nearToMemory o
  else if o.n = 0 then s.park (.response noBank .none)
  else s.nearToWindow o

/-- NBMV: its checks are made and it counts when it issues; where it must wait, the operation that passed them is performed later (R124,
R233, R236). -/
def execNbmv (d : BitVec 6) (l : BitVec 8) (c : BitVec 6) (t f : BitVec 2) (s : State) : Out :=
  let i : Instr := .nbmv d l c t f
  onCore i s (
    match s.me.near with
    | some o => .next (s.performNbmv (decide (t = 1)) o)
    | none =>
      let w := s.group d 4
      match s.nbmvChecks s.cur i w l.toNat c.toNat (decide (t = 1)) (SMap.getD s.me.fmt f.toNat 0).toNat with
      | .error x => .next (s.trapWith x)
      | .ok o =>
        if s.me.run.active then .next (s.illegal i)
        else readable s (wholeRegs (bits (w.getD 0 0) 11 0) 3) (.next (s.countNbmv.performNbmv (decide (t = 1)) o)))

/-- One row of NBMV.L2: it is read, and its result is written; the cause of the step that failed. The reply where a unit must wait. -/
def State.nearRow (s : State) (o : NearOp) (n : Nat) : Except Reply (State × Nat) :=
  match s.engineRead o.agent o.mat.toNat o.lines (o.rowVas n) with
  | (_, .wait k ts) => .error (.wait k ts)
  | (s, .error c) => .ok (s, c)
  | (s, .done bs) =>
    match s.engineWrite o.agent o.out.toNat o.lines (cellsAt (o.outVa n) (leBytes 4 (o.result bs).toNat)) with
    | (_, .wait k ts) => .error (.wait k ts)
    | (s, .error c) => .ok (s, c)
    | (s, .done _) => .ok (s, 0)

/-- The rows of NBMV.L2 in order, with the first cause. -/
def State.nearRows (s : State) (o : NearOp) : List Nat → Nat → Except Reply (State × Nat)
  | [], cause => .ok (s, cause)
  | n :: ns, cause =>
    match s.nearRow o n with
    | .error r => .error r
    | .ok (s, c) => s.nearRows o ns (if cause = 0 then c else cause)

/-- NBMV_COMPLETE of the operation at a place of a cluster: its rows are read, the results are written, its lines return, and its
counter is decremented with the first cause (R235). An operation that must wait returns its lines first (R261). -/
def State.nbmvComplete (s : State) (cl i : Nat) : State :=
  let k := s.cluster cl
  match k.nears[i]? with
  | none => s
  | some o =>
    match s.nearRows o (List.range o.n) 0 with
    | .error r =>
      let s := (s.returnX o.lines).engineHolds o.agent r
      let k := s.cluster cl
      s.setCluster cl { k with nears := k.nears.set i { o with lines := [] } }
    | .ok (s, cause) =>
      let s := s.returnX o.lines
      let k := s.cluster cl
      (s.setCluster cl { k with nears := k.nears.eraseIdx i }).completeCounter o.sel o.cnt cause

def execNbmvComplete (cl i : Nat) (s : State) : Out := .next (s.nbmvComplete cl i)

/-! ### Term counters (R236, R237) -/

def execTermrd (d a : BitVec 6) (s : State) : Out :=
  onCore (.termrd d a) s (
    let k := (s.sr a).toNat
    if 17 < k then .next (s.illegal (.termrd d a))
    else
      let c := s.core (threadCore s.cur)
      writeScalar d (SMap.getD c.terms k 0 - c.termsNow (s.cycleOf s.cur) k) s)

def execTermclr (a : BitVec 6) (s : State) : Out :=
  onCore (.termclr a) s (
    let k := (s.sr a).toNat
    let g := threadCore s.cur
    let c := s.core g
    let now (j : Nat) : Word := c.termsNow (s.cycleOf s.cur) j
    if k = 63 then
      .next ((s.setCore g { c with terms := (List.range 18).filterMap fun j => if now j = 0 then none else some (j, now j) }).retire)
    else if 17 < k then .next (s.illegal (.termclr a))
    else .next ((s.setCore g { c with terms := SMap.set c.terms k (now k) }).retire))

end Sys2Proof.Machine
end

