-- ==== Sys2Proof/Machine/Ap.lean ====
section
/-! DEFINITION. The access processor, opcodes 0x60 and 0x61, and the steps of its streams (23_access_processor R300 to R320). -/

namespace Sys2Proof.Machine

def Stream.agent (o : Stream) : Agent := { thread := o.thread, unit := 2, cluster := o.cluster, ctx := o.ctx, heap := o.heap }

/-! ### Checks at issue (R303 to R306, R314) -/

/-- An entry that a stream names: valid, LINEAR, COHERENT, of an allowed space, with the permissions (R306 step 2). -/
def State.streamEntry (s : State) (t l need : Nat) (cluster : Bool) : Except Trap Nat :=
  let e := s.layoutEntry t l
  if layValid e && decide (layKind e = 1) && !layDirected e && layGrants e need
      && decide (if cluster = true then laySpace e = 1 else laySpace e ≤ 2) then .ok e
  else .error (causeLAYOUT, BitVec.ofNat 64 l)

/-- Steps 3 and 4 of R306 for offsets and ends, each with its layout index and entry. -/
def offsetChecks (offs : List (Nat × Nat)) (ends : List (Nat × Nat × Nat)) : Except Trap Unit :=
  match offs.find? fun x => decide (x.2 % 4 ≠ 0) with
  | some x => .error (alignIndex x.1)
  | none =>
    match ends.find? fun x => decide (layExtent x.2.1 < x.2.2) with
    | some x => .error (causeLAYOUT, BitVec.ofNat 64 x.1)
    | none => .ok ()

/-- Step 5 of R306: the counter that the completion word names (R241). -/
def State.counterCheck (s : State) (t w3 : Nat) : Except Trap Nat :=
  let sel := bits w3 28 12
  if !bit w3 32 then .ok 0
  else match selectCluster t sel with
    | none => .error (causeREMOTE, BitVec.ofNat 64 sel)
    | some cl => if s.signalOk t cl (bits w3 11 0) then .ok cl else .error (causeREMOTE, BitVec.ofNat 64 sel)

/-- The completion word's own rules (R305). -/
def completionOk (w3 : Nat) : Bool := decide (w3 / 2 ^ 33 = 0 ∧ bits w3 31 29 ≤ 5)

/-- What every stream of a thread records of it and of its completion word. -/
def State.streamOf (s : State) (t w3 cl : Nat) : Stream :=
  let a := s.agent t
  { thread := t, cluster := a.cluster, region := s.recordRegion t, ctx := a.ctx, heap := a.heap, owner := s.streamOwner t
    cntv := bit w3 32, scope := bits w3 31 29, sel := cl, cnt := bits w3 11 0 }

/-- Runs a check before the rest. -/
def afterCheck {α β : Type} (x : Except Trap α) (k : α → Except Trap β) : Except Trap β :=
  match x with
  | .error e => .error e
  | .ok a => k a

/-- Step 1 of R306: the must-be-zero bits, OP, ESZ, SCOPE and N. -/
def streamWordsOk (w : List Nat) (kind : StreamKind) : Bool :=
  let w0 := w.getD 0 0
  let op := bits w0 34 33
  let fields := if bit w0 32 then decide (kind ≠ .gather ∧ bits w0 28 24 = 0) else decide (bits w0 23 16 = 0 ∧ bits (w.getD 2 0) 63 32 = 0)
  let opOk := if kind = .scatterAdd then decide (op ≤ 1) else decide (op = 0)
  decide (w0 / 2 ^ 35 = 0 ∧ bits w0 31 29 ≤ 5 ∧ bits (w.getD 1 0) 63 32 ≤ 65536) && opOk && fields && completionOk (w.getD 3 0)

/-- The checks of APGATHER, APSCATTER and APSCATTERADD: the stream and the queue that it binds (R303 to R306, R309). -/
def State.streamChecks (s : State) (t : Nat) (i : Instr) (w : List Nat) (kind : StreamKind) :
    Except Trap (Stream × Option Nat) :=
  let w0 := w.getD 0 0
  let w1 := w.getD 1 0
  let w2 := w.getD 2 0
  let w3 := w.getD 3 0
  let op := bits w0 34 33
  let vsrc := bit w0 32
  let esz := bits w0 31 29
  let q := bits w0 28 24
  let n := bits w1 63 32
  let ioff := bits w1 31 0
  let soff := bits w2 63 32
  let doff := bits w2 31 0
  let e := 4 * 2 ^ esz
  if streamWordsOk w kind = false then
    .error (causeILLEGAL, (encode i).setWidth 64)
  else
    let ilx := bits w0 7 0
    let dlx := bits w0 15 8
    let slx := bits w0 23 16
    afterCheck (s.streamEntry t ilx 1 false) fun il =>
    afterCheck (s.streamEntry t dlx (if kind = .gather then 1 else 2) false) fun dl =>
    afterCheck (if vsrc then s.streamEntry t slx 1 false else .ok 0) fun sl =>
    afterCheck (offsetChecks ([(ilx, ioff), (dlx, doff)] ++ (if vsrc then [(slx, soff)] else []))
      ([(ilx, il, ioff + 4 * n)] ++ (if vsrc then [(slx, sl, soff + n * e)] else []))) fun _ =>
    afterCheck (s.counterCheck t w3) fun cl =>
    let x : Stream := { s.streamOf t w3 cl with
      kind := kind, il := BitVec.ofNat 512 il, dl := BitVec.ofNat 512 dl, sl := BitVec.ofNat 512 sl, ilx := ilx, dlx := dlx, slx := slx
      n := n, e := e, ioff := ioff, doff := doff, soff := soff, vsrc := vsrc, op := if op = 0 then 3 else 0 }
    .ok (x, if vsrc || decide (n = 0) then none else some q)

/-- Fields of a parameter register (R314). -/
def parDims (v : Vec) : Nat := (lane v 9).toNat
def parCells (v : Vec) (k : Nat) : Nat := if k < parDims v then (lane v (6 + k)).toNat else 1
def parCount (v : Vec) : Nat := (lane v 10).toNat
def parStride (v : Vec) : Nat := (lane v 11).toNat
/-- C: the number of cells. -/
def parAll (v : Vec) : Nat := parCells v 0 * parCells v 1 * parCells v 2

/-- The rules of R314 on the parameter register. -/
def parOk (v : Vec) : Bool :=
  decide (1 ≤ parDims v ∧ parDims v ≤ 3 ∧ 1 ≤ parCells v 0 ∧ 1 ≤ parCells v 1 ∧ 1 ≤ parCells v 2 ∧ parAll v ≤ 16777215
    ∧ parCount v ≤ 65536 ∧ parStride v % 4 = 0 ∧ 4 * parDims v ≤ parStride v)

/-- The lanes of the parameter register that APBIN reads: those of the dimensions below D, and lanes 9 to 12 (R314). -/
def parLanes (v : Vec) : BitVec 32 := maskOf fun i => decide (9 ≤ i ∧ i ≤ 12) || decide (i < 9 ∧ i % 3 < parDims v)

/-- The must-be-zero bits of APBIN's descriptor and of its completion word (R314). -/
def binWordsOk (w : List Nat) : Bool := decide (w.getD 0 0 / 2 ^ 36 = 0) && completionOk (w.getD 3 0)

/-- The fields of the parameter register, and OL and OOFF by the mode (R314). -/
def binFieldsOk (w : List Nat) (place : Bool) (v : Vec) : Bool :=
  parOk v && (place || decide (bits (w.getD 0 0) 23 16 = 0 ∧ bits (w.getD 2 0) 63 32 = 0))

/-- The checks of APBIN (R314); `place` is its mode. The parameter register is `v`. -/
def State.binChecks (s : State) (t : Nat) (i : Instr) (w : List Nat) (place : Bool) (v : Vec) : Except Trap (Stream × Option Nat) :=
  let w0 := w.getD 0 0
  let poff := w.getD 1 0
  let w2 := w.getD 2 0
  let w3 := w.getD 3 0
  let ooff := bits w2 63 32
  let hoff := bits w2 31 0
  let plx := bits w0 7 0
  let hlx := bits w0 15 8
  let olx := bits w0 23 16
  let n := parCount v
  let ill : Except Trap (Stream × Option Nat) := .error (causeILLEGAL, (encode i).setWidth 64)
  if binWordsOk w = false then ill
  else if winSize t (s.thr t) ≤ bits w0 35 24 then .error (badIndex (bits w0 35 24))
  else if binFieldsOk w place v = false then ill
  else
    afterCheck (s.streamEntry t plx 1 false) fun pl =>
    afterCheck (s.streamEntry t hlx 3 true) fun hl =>
    afterCheck (if place then s.streamEntry t olx 2 false else .ok 0) fun ol =>
    afterCheck (offsetChecks ([(plx, poff), (hlx, hoff)] ++ (if place then [(olx, ooff)] else []))
      [(plx, pl, poff + n * parStride v + 4 * parDims v - parStride v), (hlx, hl, hoff + 4 * (parAll v + 1))]) fun _ =>
    afterCheck (s.counterCheck t w3) fun cl =>
    let x : Stream := { s.streamOf t w3 cl with
      kind := if place then .binPlace else .binCount
      il := BitVec.ofNat 512 pl, dl := BitVec.ofNat 512 hl, sl := BitVec.ofNat 512 ol, ilx := plx, dlx := hlx, slx := olx
      n := n, ioff := poff, doff := hoff, soff := ooff, param := v }
    .ok (x, none)

/-- A stream start: its thread parks until the access processor accepts the stream or refuses it (R302). -/
def startStream (d : BitVec 6) (r : Except Trap (Stream × Option Nat)) (s : State) : Out :=
  match r with
  | .error x => .next (s.trapWith x)
  | .ok (x, q) =>
    let cl := threadCluster s.cur
    let c := s.cluster cl
    .next ((s.setCluster cl { c with starts := c.starts ++ [{ thread := s.cur, d := d, queue := q, stream := { x with queue := q } }] }).park .apstart)

def execApgather (d a : BitVec 6) (s : State) : Out :=
  startStream d (s.streamChecks s.cur (.apgather d a) (s.group a 4) .gather) s

def execApscatter (d a : BitVec 6) (s : State) : Out :=
  startStream d (s.streamChecks s.cur (.apscatter d a) (s.group a 4) .scatter) s

def execApscatteradd (d a : BitVec 6) (s : State) : Out :=
  startStream d (s.streamChecks s.cur (.apscatteradd d a) (s.group a 4) .scatterAdd) s

def execApbin (d a : BitVec 6) (m : BitVec 1) (s : State) : Out :=
  let w := s.group a 4
  let preg := bits (w.getD 0 0) 35 24
  let go := startStream d (s.binChecks s.cur (.apbin d a m) w (decide (m = 1)) (s.vec preg)) s
  if binWordsOk w && decide (preg < s.w) then readable s [(preg, parLanes (s.vec preg))] go else go

/-! ### One word of a stream (R304) -/

/-- What an access of a stream meets. -/
inductive Word4 where
  | ok (bs : List Byte)
  | fail (x : Trap)
  /-- It waits, with the engine's reply. -/
  | wait (r : Reply)
  deriving DecidableEq, Repr

/-- The reply of a request that waits for something that no run holds. -/
def waitReply : Reply := .wait reqRead []

/-- The address of a word at an offset of a LINEAR entry (R304). -/
def wordVa (e l off : Nat) : Except Trap Nat := elementAddress e l [off] 4 4

/-- Whether a page of an address has live side-log entries of the issuing core (R166). -/
def State.streamHeld (s : State) (o : Stream) (va : Nat) : Bool :=
  decide ((s.core (threadCore o.thread)).livePages o.ctx [va / 65536] ≠ [])

/-- Reads the word at an offset of an entry. -/
def State.streamWord (s : State) (o : Stream) (own : List Nat) (e l off : Nat) : State × Word4 :=
  match wordVa e l off with
  | .error x => (s, .fail x)
  | .ok va =>
    if s.streamHeld o va then (s, .wait waitReply)
    else match s.engineRead o.agent e own (span va 4) with
      | (s, .done bs) => (s, .ok bs)
      | (s, .error c) => (s, .fail (c, BitVec.ofNat 64 va))
      | (s, .wait k ts) => (s, .wait (.wait k ts))

/-- Reads consecutive words. -/
def State.streamWords (s : State) (o : Stream) (own : List Nat) (e l : Nat) : List Nat → State × Word4
  | [] => (s, .ok [])
  | off :: offs =>
    match s.streamWord o own e l off with
    | (s, .ok bs) =>
      match s.streamWords o own e l offs with
      | (s, .ok cs) => (s, .ok (bs ++ cs))
      | r => r
    | r => r

/-- Offsets of the words of an element. -/
def wordOffs (off e : Nat) : List Nat := (List.range (e / 4)).map fun w => off + 4 * w

/-- Element i of a gather: its index, then its bytes (R304, R307). -/
def State.gatherElement (s : State) (o : Stream) (i : Nat) : State × Word4 :=
  match s.streamWord o [] o.il.toNat o.ilx (o.ioff + 4 * i) with
  | (s, .ok bs) => s.streamWords o [] o.dl.toNat o.dlx (wordOffs (o.doff + leNat bs * o.e) o.e)
  | r => r

/-- The cached translations of an engine for the page of an address are dropped: the next access walks (R132, R309). -/
def State.forget (s : State) (cl ctx va : Nat) : State :=
  let c := s.cluster cl
  s.setCluster cl { c with tlb := c.tlb.filter fun e => !decide (e.ctx = ctx ∧ e.va = va / e.size * e.size) }

/-- The words at some offsets of an entry are walked afresh. -/
def State.afresh (s : State) (o : Stream) (e l : Nat) (offs : List Nat) : State :=
  offs.foldl (fun s off => match wordVa e l off with
    | .ok va => s.forget o.cluster o.ctx va
    | .error _ => s) s

/-- Element i of a gather, each of its words with a fresh walk (R309). -/
def State.gatherAfresh (s : State) (o : Stream) (i : Nat) : State × Word4 :=
  match (s.afresh o o.il.toNat o.ilx [o.ioff + 4 * i]).streamWord o [] o.il.toNat o.ilx (o.ioff + 4 * i) with
  | (s, .ok bs) =>
    let offs := wordOffs (o.doff + leNat bs * o.e) o.e
    (s.afresh o o.dl.toNat o.dlx offs).streamWords o [] o.dl.toNat o.dlx offs
  | r => r

/-! ### Acceptance (R302, R307, R310, R316) -/

/-- Where a destination word stands at acceptance. -/
inductive Dest where
  /-- Translated: the line to take. -/
  | line (l : List Nat)
  /-- PAGE: the element is written through the side log. -/
  | page (va : Nat)
  /-- Another cause stops the stream. -/
  | stop (cause : Nat)
  | wait (r : Reply)
  deriving DecidableEq, Repr

/-- A destination word that raises PAGE: it goes through the side log of the thread's core; a CCC has none, and the stream of a CCC thread
stops there (R14, R312; DESIGN CHOICE, log 75). -/
def Stream.pageAt (o : Stream) (va : Nat) : Dest := if isCcc o.thread then .stop causePAGE else .page va

/-- Translates a destination word and takes its line (R310). -/
def State.destWord (s : State) (o : Stream) (own : List Nat) (e l off need : Nat) : State × Dest :=
  match wordVa e l off with
  | .error x => (s, if x.1 = causePAGE then o.pageAt x.2.toNat else .stop x.1)
  | .ok va =>
    if s.streamHeld o va then (s, .wait waitReply)
    else match s.engineXlat o.agent e need true (span va 4) with
      | (s, .error (.wait k ts)) => (s, .wait (.wait k ts))
      | (s, .error _) => (s, o.pageAt va)
      | (s, .ok xs) =>
        match s.engineTake o.agent e xs own (span va 4) with
        | (s, .error r) => (s, .wait r)
        | (s, .ok ls) => (s, .line ls)

/-- What an element's destination comes to: the lines to take, the pages that raised PAGE, and the cause that stops the stream, or 0. -/
structure Reach where
  lines : List Nat := []
  pages : List Nat := []
  cause : Nat := 0
  deriving DecidableEq, Repr

/-- The destination words of an element: the lines where every word translated, the pages that raised PAGE, or the cause. -/
def State.destWords (s : State) (o : Stream) (own : List Nat) (e l : Nat) : List Nat → State × Except Reply Reach
  | [] => (s, .ok {})
  | off :: offs =>
    match s.destWord o own e l off permW with
    | (s, .wait r) => (s, .error r)
    | (s, .stop c) => (s, .ok { cause := c })
    | (s, .page va) =>
      match s.destWords o own e l offs with
      | (s, .ok x) => (s, .ok { x with lines := [], pages := insertNew x.pages (va / 65536) })
      | r => r
    | (s, .line ls) =>
      match s.destWords o own e l offs with
      | (s, .ok x) => (s, .ok { x with lines := if x.pages = [] then ls.foldl insertNew x.lines else [] })
      | r => r

/-- Adds an accepted element to a stream. -/
def Stream.accept (o : Stream) (snap : Nat) (values : List Byte) (lines faults : List Nat) : Stream :=
  { o with accepted := o.accepted + 1, snap := o.snap ++ [snap], values := o.values ++ values, lines := o.lines ++ [lines]
           faults := faults.foldl insertNew o.faults }

/-- The destination of a particle in cell h: its histogram word, and in PLACE mode its output slot, by the cursors that earlier particles
have moved on (R316). -/
def State.binDest (s : State) (o : Stream) (own : List Nat) (h : Nat) (cur : SMap Nat) : State × Except Reply (Reach × SMap Nat) :=
  match s.destWord o own o.dl.toNat o.dlx (o.doff + 4 * h) (permR ||| permW) with
  | (s, .wait r) => (s, .error r)
  | (s, .stop c) => (s, .ok ({ cause := c }, cur))
  | (s, .page _) => (s, .ok ({ cause := causePAGE }, cur))
  | (s, .line ls) =>
    if o.kind = .binCount then (s, .ok ({ lines := ls }, cur))
    else
      match (match SMap.get? cur h with
        | some c => (s, Word4.ok (leBytes 4 c))
        | none => s.streamWord o (ls ++ own) o.dl.toNat o.dlx (o.doff + 4 * h)) with
      | (s, .wait r) => (s, .error r)
      | (s, .fail x) => (s, .ok ({ cause := x.1 }, cur))
      | (s, .ok cs) =>
        let c := leNat cs
        let cur := SMap.set cur h ((c + 1) % 2 ^ 32)
        match s.destWord o (ls ++ own) o.sl.toNat o.slx (o.soff + 4 * c) permW with
        | (s, .wait r) => (s, .error r)
        | (s, .stop k) => (s, .ok ({ cause := k }, cur))
        | (s, .page va) => (s, .ok ({ lines := ls, pages := [va / 65536] }, cur))
        | (s, .line ms) => (s, .ok ({ lines := ms.foldl insertNew ls }, cur))

/-- The destination of an element by its snapshot: the index of a scatter, the cell of a particle (R310, R316). -/
def State.elementDest (s : State) (o : Stream) (own : List Nat) (k : Nat) (cur : SMap Nat) : State × Except Reply (Reach × SMap Nat) :=
  if o.kind = .scatter ∨ o.kind = .scatterAdd then
    match s.destWords o own o.dl.toNat o.dlx (wordOffs (o.doff + k * o.e) o.e) with
    | (s, .error r) => (s, .error r)
    | (s, .ok x) => (s, .ok (x, cur))
  else s.binDest o own k cur

/-- Acceptance of scatter elements in order, up to the first that fails (R310); the reply where the stream must wait. -/
def State.acceptScatter (s : State) (o : Stream) : List Nat → State × Except Reply Stream
  | [] => (s, .ok o)
  | i :: is =>
    match s.streamWord o [] o.il.toNat o.ilx (o.ioff + 4 * i) with
    | (s, .wait r) => (s, .error r)
    | (s, .fail x) => (s, .ok { o with stop := x.1 })
    | (s, .ok bs) =>
      let k := leNat bs
      match (if o.vsrc then s.streamWords o [] o.sl.toNat o.slx (wordOffs (o.soff + i * o.e) o.e) else (s, .ok [])) with
      | (s, .wait r) => (s, .error r)
      | (s, .fail x) => (s, .ok { o with stop := x.1 })
      | (s, .ok vs) =>
        match s.elementDest o o.lines.flatten k [] with
        | (s, .error r) => (s, .error r)
        | (s, .ok (x, _)) =>
          if x.cause ≠ 0 then (s, .ok { o with stop := x.cause }) else s.acceptScatter (o.accept k vs x.lines x.pages) is

/-- One dimension of a cell, none in the overflow bin (R315). -/
def cellIndex (x o v : W32) (n : Nat) : Option Nat :=
  let u := mul32 (sub32 x o) v
  match num32 u with
  | .fin neg m e =>
    if neg && decide (m ≠ 0) then none
    else
      let c := (truncInt false m e).1.toNat
      if c < n then some c else none
  | _ => none

/-- Bin(i) of R315 from the bytes of a particle's coordinates. -/
def binCell (v : Vec) (bs : List Byte) : Nat :=
  let cs := (List.range (parDims v)).map fun k =>
    cellIndex (BitVec.ofNat 32 (leNat ((bs.drop (4 * k)).take 4))) (lane v k) (lane v (3 + k)) (parCells v k)
  if cs.any Option.isNone then parAll v
  else
    let c (k : Nat) : Nat := (cs.getD k none).getD 0
    c 0 + parCells v 0 * (c 1 + parCells v 1 * c 2)

/-- Acceptance of particles in order (R316). `cur` holds the cursors that PLACE has read and moved on. -/
def State.acceptBin (s : State) (o : Stream) : List Nat → SMap Nat → State × Except Reply Stream
  | [], _ => (s, .ok o)
  | i :: is, cur =>
    match s.streamWords o [] o.il.toNat o.ilx (wordOffs (o.ioff + i * parStride o.param) (4 * parDims o.param)) with
    | (s, .wait r) => (s, .error r)
    | (s, .fail x) => (s, .ok { o with stop := x.1 })
    | (s, .ok bs) =>
      let h := binCell o.param bs
      match s.elementDest o o.lines.flatten h cur with
      | (s, .error r) => (s, .error r)
      | (s, .ok (x, cur)) =>
        if x.cause ≠ 0 then (s, .ok { o with stop := x.cause }) else s.acceptBin (o.accept h [] x.lines x.pages) is cur

/-- What a stream does at acceptance; the reply where it must wait. -/
def State.acceptStream (s : State) (o : Stream) : State × Except Reply Stream :=
  match o.kind with
  | .gather => (s, .ok { o with accepted := o.n })
  | .scatter => s.acceptScatter o (List.range o.n)
  | .scatterAdd => s.acceptScatter o (List.range o.n)
  | .binCount => s.acceptBin o (List.range o.n) []
  | .binPlace => s.acceptBin o (List.range o.n) []

/-- A start that is over writes its result where its thread still waits for it (R302, R320). -/
def State.endStart (s : State) (x : ApStart) (v : Word) : State :=
  if x.wake && decide ((s.thr x.thread).wait = .apstart) then s.complete x.thread (.scalar x.d v) else s

/-- STREAM_ACCEPT: the start that parked first is refused where its queue is bound, or accepted into the lowest free slot; while no
slot is free, or the engine must wait, it waits (R302). A stream whose task has ended meanwhile is cancelled where it moves data through a
queue (R317, R320). -/
def State.streamAccept (s : State) (cl : Nat) : State :=
  let c := s.cluster cl
  match c.starts, SMap.free c.streams 8 0 with
  | x :: rest, some n =>
    let bound := match x.queue with
      | some q => SMap.has c.queues q
      | none => false
    if bound then (s.setCluster cl { c with starts := rest }).endStart x (BitVec.allOnes 64)
    else match s.acceptStream x.stream with
      | (_, .error r) => s.engineHolds x.stream.agent r
      | (s', .ok o) =>
        let s' := s'.takeX o.lines.flatten
        let k := s'.cluster cl
        let x := k.starts.headD x
        let o := { o with orphan := x.stream.orphan, cancel := x.stream.orphan && x.queue.isSome }
        let queues := match x.queue with
          | none => k.queues
          | some q => SMap.set k.queues q
            { stream := n, inbound := decide (o.kind ≠ .gather), region := o.region, thread := o.thread, owner := o.owner, total := o.n * o.e }
        (s'.setCluster cl { k with starts := k.starts.drop 1, streams := SMap.set k.streams n o, queues := queues }).endStart
          x (BitVec.ofNat 64 n)
  | _, _ => s

def execStreamAccept (cl : Nat) (s : State) : Out := .next (s.streamAccept cl)

/-! ### Gather (R307 to R309) -/

def State.stream (s : State) (cl n : Nat) : Stream := SMap.getD (s.cluster cl).streams n {}
def State.setStream (s : State) (cl n : Nat) (o : Stream) : State :=
  let c := s.cluster cl
  s.setCluster cl { c with streams := SMap.set c.streams n o }

/-- A deferred failure of a stream that is still there (R308). -/
def State.stallStream (s : State) (cl n : Nat) (x : Trap) : State :=
  if SMap.has (s.cluster cl).streams n then s.setStream cl n { s.stream cl n with stall := some x } else s

/-- Changes the data of a queue that is still bound. -/
def mapQueue (queues : SMap ApQueue) (q : Option Nat) (f : List Byte → List Byte) : SMap ApQueue :=
  match q with
  | none => queues
  | some q => match SMap.get? queues q with
    | some k => SMap.set queues q { k with data := f k.data }
    | none => queues

/-- Appends an element that was read to the stream's queue; a stream that its own access has ended takes nothing more (R317). -/
def State.appendElement (s : State) (cl n : Nat) (bs : List Byte) : State :=
  let c := s.cluster cl
  match SMap.get? c.streams n with
  | none => s
  | some o =>
    s.setCluster cl { c with
      queues := mapQueue c.queues o.queue (· ++ bs), streams := SMap.set c.streams n { o with pos := o.pos + 1, stall := none } }

/-- GATHER_RUNAHEAD: the next element is read into the queue while there is room; a failure is deferred (R307, R308). -/
def State.gatherRunahead (s : State) (cl n : Nat) : State :=
  let c := s.cluster cl
  match SMap.get? c.streams n with
  | none => s
  | some o =>
    let room := match o.queue with
      | some q => decide ((SMap.getD c.queues q {}).data.length + o.e ≤ 16384)
      | none => false
    if o.kind ≠ .gather ∨ o.ended = true ∨ o.cancel = true ∨ o.stall.isSome = true ∨ o.n ≤ o.pos ∨ room = false then s
    else match s.gatherElement o o.pos with
      | (_, .wait r) => s.engineHolds o.agent r
      | (s, .ok bs) => s.appendElement cl n bs
      | (s, .fail x) =>
        let k := s.cluster cl
        (s.setCluster cl { k with drops := k.drops + 1 }).stallStream cl n x

def execGatherRunahead (cl slot : Nat) (s : State) : Out := .next (s.gatherRunahead cl slot)

/-- The queue that s[a] names for a pop or a push, with the checks of R300 and R309. -/
def State.boundQueue (s : State) (t x : Nat) (inbound : Bool) : Option ApQueue :=
  if 32 ≤ x then none
  else match SMap.get? (s.cluster (threadCluster t)).queues x with
    | none => none
    | some k => if k.inbound = inbound ∧ k.region = s.recordRegion t ∧ (inbound = false ∨ k.units < k.allUnits) then some k else none

/-- The place in the order of parking that a thread already has for a queue (R309). -/
def Thread.parkedSeq (th : Thread) (q : Nat) : Option Nat :=
  match th.wait with
  | .apqpop q' seq => if q' = q then some seq else none
  | .apqpush q' seq => if q' = q then some seq else none
  | _ => none

/-- Whether another thread of the cluster parked before on a queue. -/
def State.queueBusy (s : State) (t q : Nat) : Bool :=
  s.threads.any fun e => e.2.live && decide (e.1 ≠ t ∧ threadCluster e.1 = threadCluster t)
    && (match e.2.parkedSeq q, (s.thr t).parkedSeq q with
      | some k, some mine => decide (k < mine)
      | some _, none => true
      | none, _ => false)

/-- Bytes of the next unit of an outbound queue (R301). -/
def ApQueue.nextBytes (k : ApQueue) : Nat := min 128 (k.total - 128 * k.units)

/-- Whether the next unit is complete. -/
def ApQueue.unitReady (k : ApQueue) : Bool := decide (k.nextBytes ≤ k.data.length)

/-- Whether the next unit holds a byte of the element at which the bound gather is stalled (R309). -/
def State.unitStalled (s : State) (cl : Nat) (k : ApQueue) : Bool :=
  let o := s.stream cl k.stream
  k.attached && o.stall.isSome && decide (o.pos * o.e < 128 * k.units + k.nextBytes)

/-- The register that a unit's bytes make (R301). -/
def unitVec (bs : List Byte) : Vec := BitVec.ofNat 1024 (leNat bs)

/-- A pop takes the next unit; the pop of the last unit releases the queue (R309). -/
def State.takeUnit (s : State) (cl q : Nat) (d : BitVec 6) : State :=
  let c := s.cluster cl
  let k := SMap.getD c.queues q {}
  let queues := if k.units + 1 = k.allUnits then SMap.erase c.queues q
    else SMap.set c.queues q { k with data := k.data.drop k.nextBytes, units := k.units + 1 }
  ((s.setCluster cl { c with queues := queues }).setVec d.toNat (BitVec.allOnes 32) (unitVec (k.data.take k.nextBytes))).retire

/-- The thread parks on a queue, and keeps its place where it had one. -/
def State.parkOn (s : State) (q : Nat) (w : Nat → Nat → Wait) : State :=
  match s.me.parkedSeq q with
  | some seq => s.park (w q seq)
  | none => s.tick1.park (w q s.fresh)

/-- Whether a thread's own run has ended between two states: an engine's access aborted it, and with it the instruction that issued (R261,
R320). -/
def State.cutOff (s u : State) (t : Nat) : Bool :=
  ((s.thr t).live && !(u.thr t).live) || ((s.thr t).run.active && !(u.thr t).run.active)

def execApqpop (d a : BitVec 6) (s : State) : Out :=
  let q := (s.sr a).toNat
  let cl := threadCluster s.cur
  match s.boundQueue s.cur q false with
  | none => .next (s.illegal (.apqpop d a))
  | some k =>
    if s.queueBusy s.cur q then .next (s.parkOn q .apqpop)
    else if k.unitReady then .next (s.takeUnit cl q d)
    else if s.unitStalled cl k then
      let o := s.stream cl k.stream
      match s.gatherAfresh o o.pos with
      | (_, .wait r) =>
        let u := s.engineHolds o.agent r
        if s.cutOff u s.cur then .next u else .next (u.parkOn q .apqpop)
      | (u, .fail x) =>
        let v := u.stallStream cl k.stream x
        if s.cutOff v s.cur then .next v else .next (v.trapWith x)
      | (u, .ok bs) =>
        let v := u.appendElement cl k.stream bs
        if s.cutOff v s.cur then .next v
        else if (SMap.getD (v.cluster cl).queues q {}).unitReady then .next (v.takeUnit cl q d) else .next (v.parkOn q .apqpop)
    else .next (s.parkOn q .apqpop)

/-! ### Pushes and element writes (R311 to R313, R316) -/

def execApqpush (d a : BitVec 6) (s : State) : Out :=
  let q := (s.sr a).toNat
  let cl := threadCluster s.cur
  match s.boundQueue s.cur q true with
  | none => .next (s.illegal (.apqpush d a))
  | some k =>
    readable s [(d.toNat, BitVec.allOnes 32)] (
      if s.queueBusy s.cur q || decide (127 * 128 < k.data.length) then .next (s.parkOn q .apqpush)
      else
        let c := s.cluster cl
        let bs := leBytes 128 (s.v d).toNat
        let k' := { k with units := k.units + 1, data := if k.attached then k.data ++ bs else [] }
        let queues := if k'.units = k'.allUnits ∧ k'.attached = false then SMap.erase c.queues q else SMap.set c.queues q k'
        .next ((s.setCluster cl { c with queues := queues }).retire))

/-- A parked pop or push that can go on, or whose queue is gone: it issues again. -/
def State.queueOver (s : State) (t : Nat) : Bool :=
  let cl := threadCluster t
  match (s.thr t).wait with
  | .apqpop q _ => match s.boundQueue t q false with
    | none => true
    | some k => !s.queueBusy t q && (k.unitReady || s.unitStalled cl k)
  | .apqpush q _ => match s.boundQueue t q true with
    | none => true
    | some k => !s.queueBusy t q && decide (k.data.length ≤ 127 * 128)
  | _ => false

/-- A stream must wait at the directory: its lines return first, and it takes its place there (R166, R261). -/
def State.dropLines (s : State) (cl n : Nat) (r : Reply) : State :=
  let o := s.stream cl n
  let s := if o.lines.flatten = [] then s
    else (s.returnX o.lines.flatten).setStream cl n { o with lines := o.lines.map fun _ => [], dropped := true }
  s.engineHolds o.agent r

/-- The lines of the elements that are not written yet, taken again from the first on; the reply where the stream must wait (R261). -/
def State.takeAgain (s : State) (o : Stream) : List Nat → SMap Nat → List (List Nat) → State × Except Reply (List (List Nat))
  | [], _, ls => (s, .ok ls.reverse)
  | k :: ks, cur, ls =>
    match s.elementDest o ls.flatten k cur with
    | (s, .error r) => (s, .error r)
    | (s, .ok (x, cur)) => s.takeAgain o ks cur ((if x.cause = 0 then x.lines else []) :: ls)

/-- A stream that returned its lines takes them again once it may proceed (R261). -/
def State.retakeLines (s : State) (cl n : Nat) : State :=
  let o := s.stream cl n
  match s.takeAgain o ((o.snap.drop o.pos).take (o.accepted - o.pos)) [] [] with
  | (_, .error r) => s.engineHolds o.agent r
  | (s, .ok ls) =>
    if SMap.has (s.cluster cl).streams n then (s.takeX ls.flatten).setStream cl n { s.stream cl n with lines := ls, dropped := false } else s

/-- An element is written or logged: the stream goes on to the next, and lines that no later element needs return (R167). A
stream that its own access has ended stays ended (R317). -/
def State.advanceStream (s : State) (cl n : Nat) (logs : Nat) : State :=
  match SMap.get? (s.cluster cl).streams n with
  | none => s
  | some o =>
    let later := o.lines.drop 1
    let done := (o.lines.headD []).filter fun l => !(later.any fun ls => ls.contains l)
    let s := (s.returnX done).setStream cl n { o with
      pos := o.pos + 1, lines := later, logged := o.logged + logs, done := if logs = 0 then o.done + 1 else o.done }
    let c := s.cluster cl
    let last := match o.queue.bind fun q => SMap.get? c.queues q with
      | some k => decide (o.pos + 1 = o.n ∧ k.units = k.allUnits)
      | none => false
    s.setCluster cl { c with queues :=
      if last then SMap.erase c.queues (o.queue.getD 0) else mapQueue c.queues o.queue (·.drop o.e) }

/-- A stream stops at its next element with a cause (R310, R316). -/
def State.stopStream (s : State) (cl n cause : Nat) : State :=
  let o := s.stream cl n
  s.setStream cl n { o with accepted := o.pos, stop := cause }

/-- The side-log entries of an element join the log of the stream's core; none where it has no room (R312, R136). -/
def State.logElement (s : State) (cl n : Nat) (o : Stream) (e : Nat) (groups : List (List (Nat × Byte))) (red : Option (Nat × Nat)) :
    Option State :=
  let g := threadCore o.thread
  if s.logFull g groups.length then none
  else
    some ((groups.foldl (fun s cs =>
      let vas := storePages ((cs.head?.map (·.1)).getD 0) cs
      s.enterLog g { thread := o.thread, region := o.region, ctx := o.ctx, entry := BitVec.ofNat 512 e, cells := cs
                     vas := vas, red := red, stream := some (cl, n), elem := o.pos }
        (some ((vas.find? fun v => o.faults.contains (v / 65536)).getD (vas.headD 0)))) s).advanceStream cl n groups.length)

/-- Whether a destination goes through the side log: its page raised PAGE at acceptance, or has entries of the stream (R312). -/
def State.throughLog (s : State) (cl n : Nat) (o : Stream) (vas : List Nat) : Bool :=
  vas.any fun v => o.faults.contains (v / 65536)
    || ((s.core (threadCore o.thread)).sideLog.any fun x => decide (x.stream = some (cl, n))
      && x.vas.any fun w => decide (w / 65536 = v / 65536))

/-- Words of an element with their values. -/
def elementWords (vas : List Nat) (bs : List Byte) : List (Nat × List Byte) :=
  (List.range vas.length).map fun w => (vas.getD w 0, (bs.drop (4 * w)).take 4)

/-- The reductions of an element in order (R311). -/
def State.reduceWords (s : State) (o : Stream) : List (Nat × List Byte) → State × Reply
  | [] => (s, .done [])
  | w :: ws =>
    match s.engineRed o.agent o.dl.toNat o.lines.flatten w.1 o.op 4 (leNat w.2) with
    | (s, .done _) => s.reduceWords o ws
    | r => r

/-- The value of the next element, where it is present (R311). -/
def State.elementValue (s : State) (cl : Nat) (o : Stream) : Option (List Byte) :=
  match o.queue with
  | none => some ((o.values.drop (o.pos * o.e)).take o.e)
  | some q =>
    let d := (SMap.getD (s.cluster cl).queues q {}).data
    if o.e ≤ d.length then some (d.take o.e) else none

/-- SCATTER_ELEMENT_WRITE: the next accepted element is written or reduced when its value is present, or enters the side log (R311,
R312). -/
def State.scatterElementWrite (s : State) (cl n : Nat) : State :=
  match SMap.get? (s.cluster cl).streams n with
  | none => s
  | some o =>
    if ¬(o.kind = .scatter ∨ o.kind = .scatterAdd) ∨ o.ended = true ∨ o.cancel = true ∨ o.accepted ≤ o.pos then s
    else if o.dropped then s.retakeLines cl n
    else match s.elementValue cl o with
      | none => s
      | some bs =>
        let vas := (wordOffs (o.doff + o.snap.getD o.pos 0 * o.e) o.e).map fun off => (layBase o.dl.toNat + off) % 2 ^ 64
        let words := elementWords vas bs
        let add := decide (o.kind = .scatterAdd)
        let groups := if add then words.map fun w => cellsAt w.1 w.2 else [words.flatMap fun w => cellsAt w.1 w.2]
        let log (s : State) : State := (s.logElement cl n o o.dl.toNat groups (if add then some (o.op, 4) else none)).getD s
        if s.throughLog cl n o vas then log s
        else match (if add then s.reduceWords o words
            else s.engineWrite o.agent o.dl.toNat o.lines.flatten (words.flatMap fun w => cellsAt w.1 w.2)) with
          | (_, .wait k ts) => s.dropLines cl n (.wait k ts)
          | (s', .done _) => s'.advanceStream cl n 0
          | (_, .error c) => if c = causePAGE && !isCcc o.thread then log s else s.stopStream cl n c

def execScatterElementWrite (cl slot : Nat) (s : State) : Out := .next (s.scatterElementWrite cl slot)

/-- The output word of PLACE: written, or entered in the side log; the number of entries, or the cause, or the reply where it waits at the
directory; a reply that is done where it waits for room in the side log. -/
def State.placeOutput (s : State) (cl n : Nat) (o : Stream) (cur : Nat) : State × Except Reply (Nat ⊕ Nat) :=
  match wordVa o.sl.toNat o.slx (o.soff + 4 * cur) with
  | .error x => (s, .ok (.inr x.1))
  | .ok va =>
    let bs := leBytes 4 (((lane o.param 12).toNat + o.pos) % 2 ^ 32)
    let g := threadCore o.thread
    let log : State × Except Reply (Nat ⊕ Nat) :=
      if s.logFull g 1 then (s, .error (.done []))
      else (s.enterLog g { thread := o.thread, region := o.region, ctx := o.ctx, entry := o.sl, cells := cellsAt va bs, vas := [va]
                           stream := some (cl, n), elem := o.pos } (some va), .ok (.inl 1))
    if s.throughLog cl n o [va] then log
    else match s.engineWrite o.agent o.sl.toNat o.lines.flatten (cellsAt va bs) with
      | (s', .done _) => (s', .ok (.inl 0))
      | (_, .wait k ts) => (s, .error (.wait k ts))
      | (_, .error c) => if c = causePAGE && !isCcc o.thread then log else (s, .ok (.inr c))

/-- BINNING_PARTICLE: the next particle is counted or placed (R316). -/
def State.binningParticle (s : State) (cl n : Nat) : State :=
  match SMap.get? (s.cluster cl).streams n with
  | none => s
  | some o =>
    if ¬(o.kind = .binCount ∨ o.kind = .binPlace) ∨ o.ended = true ∨ o.cancel = true ∨ o.accepted ≤ o.pos then s
    else if o.dropped then s.retakeLines cl n
    else
      let off := o.doff + 4 * o.snap.getD o.pos 0
      match s.streamWord o o.lines.flatten o.dl.toNat o.dlx off with
      | (_, .wait r) => s.dropLines cl n r
      | (_, .fail x) => s.stopStream cl n x.1
      | (s', .ok bs) =>
        let h := leNat bs
        match (if o.kind = .binPlace then s'.placeOutput cl n o h else (s', .ok (.inl 0))) with
        | (_, .error (.done _)) => s
        | (_, .error r) => s.dropLines cl n r
        | (_, .ok (.inr c)) => s.stopStream cl n c
        | (s', .ok (.inl logs)) =>
          match s'.engineWrite o.agent o.dl.toNat o.lines.flatten
              (cellsAt ((layBase o.dl.toNat + off) % 2 ^ 64) (leBytes 4 ((h + 1) % 2 ^ 32))) with
          | (_, .wait k ts) => s.dropLines cl n (.wait k ts)
          | (_, .error c) => s.stopStream cl n c
          | (s', .done _) => s'.advanceStream cl n logs

def execBinningParticle (cl slot : Nat) (s : State) : Out := .next (s.binningParticle cl slot)

/-! ### The end of a stream (R317, R318) -/

/-- Whether a stream ends now (R307, R317). -/
def Stream.ends (o : Stream) : Bool :=
  !o.ended && (o.cancel || (if o.kind = .gather then decide (o.n ≤ o.pos) else decide (o.accepted ≤ o.pos ∧ o.logged = 0)))

/-- The status word (R318). -/
def Stream.statusWord (o : Stream) : Nat :=
  (if o.kind = .gather then o.pos else o.done) * 2 ^ 32 + (if o.cancel then 64 else 0) + (if o.cancel then causeILLEGAL else o.stop)

/-- Side-log entries of a stream that are never written; a record of the head goes with them (R317). -/
def State.dropStreamLog (s : State) (g cl n : Nat) : State :=
  let c := s.core g
  let mine (x : LogEntry) : Bool := decide (x.stream = some (cl, n))
  let pending := match c.sideLog with
    | x :: _ => mine x && x.recorded
    | [] => false
  let s := s.setCore g { c with sideLog := c.sideLog.filter fun x => !mine x }
  if pending then s.retireRecord (mkHandle 2 g 0 0 0 0) else s

/-- Threads that wait for a stream take its status (R318). -/
def State.wakeApwait (s : State) (cl n status : Nat) : State :=
  (s.threads.filterMap fun e => match e.2.wait with
    | .apwait d slot => if e.2.live && decide (slot = n ∧ threadCluster e.1 = cl) then some (e.1, d) else none
    | _ => none).foldl (fun s x => s.complete x.1 (.scalar x.2 (BitVec.ofNat 64 status))) s

/-- Whether some thread waits for a stream slot. -/
def State.awaited (s : State) (cl n : Nat) : Bool :=
  s.threads.any fun e => e.2.live && decide (threadCluster e.1 = cl) && (match e.2.wait with
    | .apwait _ slot => decide (slot = n)
    | _ => false)

/-- STREAM_END (R317). -/
def State.streamEnd (s : State) (cl n : Nat) : State :=
  match SMap.get? (s.cluster cl).streams n with
  | none => s
  | some o =>
    if o.ends then
      let status := o.statusWord
      let s := s.returnX o.lines.flatten
      let s := if o.cancel then s.dropStreamLog (threadCore o.thread) cl n else s
      let c := s.cluster cl
      let queues := match o.queue with
        | none => c.queues
        | some q => match SMap.get? c.queues q with
          | none => c.queues
          | some k =>
            if k.attached = false ∨ k.stream ≠ n then c.queues
            else if o.cancel || (k.inbound && decide (k.units = k.allUnits)) then SMap.erase c.queues q
            else SMap.set c.queues q { k with attached := false, data := if k.inbound then [] else k.data }
      let free := o.cntv || o.orphan || s.awaited cl n
      let streams := if free then SMap.erase c.streams n
        else SMap.set c.streams n { o with ended := true, status := status, lines := [], snap := [], values := [] }
      let s := s.setCluster cl { c with queues := queues, streams := streams }
      let s := if o.cntv then s.completeCounter o.sel o.cnt (status % 64) else s
      s.wakeApwait cl n status
    else s

def execStreamEnd (cl slot : Nat) (s : State) : Out := .next (s.streamEnd cl slot)

/-- Whether the region check of R318 accepts a thread for a region: every region for supervisor code, none for a user-mode CCC thread
without one (R14, R318). -/
def State.ownRegion (s : State) (t r : Nat) : Bool :=
  s.supervisor t || (match s.actsFor t with
    | some a => decide (a = r)
    | none => false)

def execApwait (d a : BitVec 6) (s : State) : Out :=
  let n := (s.sr a).toNat
  let cl := threadCluster s.cur
  if 8 ≤ n then .next (s.illegal (.apwait d a))
  else match SMap.get? (s.cluster cl).streams n with
    | none => writeScalar d (BitVec.allOnes 64) s
    | some o =>
      if !s.ownRegion s.cur o.region then writeScalar d (BitVec.allOnes 64) s
      else if o.ended then
        let c := s.cluster cl
        writeScalar d (BitVec.ofNat 64 o.status) (s.setCluster cl { c with streams := SMap.erase c.streams n })
      else .next (s.park (.apwait d n))

def execApqstat (d a : BitVec 6) (s : State) : Out :=
  let q := (s.sr a).toNat
  let cl := threadCluster s.cur
  let c := s.cluster cl
  if 32 ≤ q then .next (s.illegal (.apqstat d a))
  else
    let low := match SMap.get? c.queues q with
      | none => 0
      | some k => k.data.length + k.stream * 2 ^ 16 + 2 ^ 19 + (if k.inbound then 2 ^ 20 else 0)
        + (if k.attached && (s.stream cl k.stream).stall.isSome then 2 ^ 21 else 0)
    writeScalar d (BitVec.ofNat 64 (c.drops % 2 ^ 32 * 2 ^ 32 + low)) s

end Sys2Proof.Machine
end

