-- ==== Sys2Proof/Machine/Fabric.lean ====
section
/-! DEFINITION. The Firn fabric: MGRANT, MRELEASE, MQUOTA, FRED, FBARRIER and FBARPOLL, opcodes 0x70 to 0x73, and what each packet
does where it arrives (25_fabric R321 to R343; 17_copies R248 to R250; 07_scalar_control R113). -/

namespace Sys2Proof.Machine

/-! ### Pages of tenants (R326 to R331) -/

/-- A Moraine page of 2 MiB. -/
def pageBytes : Nat := 2097152

/-- Pages of a tenant on a switch, by page number. -/
def tenantPages (ps : SMap MorPage) (ctx : Nat) : SMap MorPage :=
  (ps.filter fun e => decide (e.1 / 65536 = ctx)).map fun e => (e.1 % 65536, e.2)

/-- Every page entry of the fabric, the LOST ones among them (R327, R333). -/
def State.allPages (s : State) : List MorPage :=
  s.switches.flatMap fun e => (e.2.pages ++ e.2.lost).map (·.2)

/-- Bytes that a region and its descendants hold of Moraine memory (R327). -/
def State.moraineHeld (s : State) (m r : Nat) : Nat :=
  pageBytes * (s.allPages.filter fun x => decide (x.owner.1 = m) && s.descends m 256 x.owner.2 r).length

/-- MORB of a region (R24). -/
def Region.morb (r : Region) : Nat := r.f 319 256

/-- The running region and its ancestors; none for an agent without a region. -/
def State.budgets (s : State) (m r : Nat) : List Nat := if SMap.has (s.module m).regions r then s.ancestors m 256 r else []

/-- The lowest run of n numbers that no list entry takes, from a start on; `fuel` bounds the numbers looked at. -/
def freeRun (used : List Nat) (n : Nat) : Nat → Nat → Nat → Option Nat
  | 0, start, len => if n ≤ len then some start else none
  | fuel + 1, start, len =>
    if n ≤ len then some start
    else if used.contains (start + len) then freeRun used n fuel (start + len + 1) 0
    else freeRun used n fuel start (len + 1)

/-- Page numbers and bank pages of a switch (R326). -/
def switchPages : Nat := 49152

/-- Bank pages of a switch that no tenant holds, lowest first. -/
def Switch.freeBanks (w : Switch) : List Nat :=
  let used := w.pages.map fun e => e.2.bank
  (List.range switchPages).filter fun b => !used.contains b

/-- The lowest run of free page numbers of a tenant on some switches. -/
def State.commonRun (s : State) (ctx n : Nat) (ws : List Nat) : Option Nat :=
  match freeRun (ws.flatMap fun w => (tenantPages (s.switch w).pages ctx).map (·.1)) n switchPages 0 0 with
  | some x => if x + n ≤ switchPages then some x else none
  | none => none

/-- Enters n pages from a page number on in a switch's map of a tenant, and zeroes them (R329). -/
def State.grantPages (s : State) (sw ctx first n : Nat) (owner : Nat × Nat) (mirror : Option Nat) (primary : Nat) : State :=
  let banks := (s.switch sw).freeBanks.take n
  let s := ((List.range n).zip banks).foldl (fun s x =>
    let w := s.switch sw
    let base := moraineLoc sw x.2 0
    let s := s.setSwitch sw { w with
      pages := SMap.set w.pages (pageKey ctx (first + x.1)) { bank := x.2, owner := owner, mirror := mirror, primary := primary } }
    { s with mem := Memory.zero s.mem base pageBytes, badMem := s.badMem.filter fun b => b < base || base + pageBytes ≤ b }) s
  s

/-- Pages left to a tenant under its quota on a switch. -/
def Switch.quotaLeft (w : Switch) (ctx : Nat) : Nat := SMap.getD w.quota ctx 0 - (tenantPages w.pages ctx).length

/-! ### MGRANT, MRELEASE and MQUOTA at the core (R328, R330, R331) -/

/-- The pod that a grant's descriptor names for a module. -/
def grantPod (m w : Nat) : Nat := if bits w 27 24 = 15 then m / 72 else bits w 27 24

/-- Step 1 of R328. -/
def State.grantOk (s : State) (m w : Nat) (rest : List Nat) (mirror : Bool) : Bool :=
  decide (w / 2 ^ 41 = 0 ∧ 1 ≤ bits w 15 0 ∧ bits w 15 0 ≤ switchPages) && rest.all (fun x => decide (x = 0))
  && decide (bits w 27 24 ≤ 12 ∨ bits w 27 24 = 15) && s.podPresent (grantPod m w)
  && (if mirror then decide (bits w 23 20 ≠ bits w 19 16) else decide (bits w 23 20 = 0))

def execMgrant (d a : BitVec 6) (m : BitVec 1) (s : State) : Out :=
  let w := (s.group a 4).getD 0 0
  if s.me.run.active then .next s.abortRemote
  else if s.grantOk (threadModule s.cur) w ((s.group a 4).drop 1) (decide (m = 1)) then
    let p : Packet := { kind := 5, dest := 1024 + (grantPod (threadModule s.cur) w * 16 + bits w 19 16), aux := m.toNat, payload := leBytes 8 w }
    .next (s.request [p] fun s => s.park (.fabric 63 1 [] none (.grant d (BitVec.ofNat 64 w))))
  else .next (s.illegal (.mgrant d a m))

def execMrelease (d a : BitVec 6) (s : State) : Out :=
  let addr := (s.sr a).toNat
  let n := (s.srN (a.toNat + 1)).toNat
  if s.me.run.active then .next s.abortRemote
  else if addr % pageBytes ≠ 0 then .next (s.trap causeALIGN (s.sr a))
  else if n = 0 ∨ switchPages < n ∨ s.moraineOk addr = false then .next (s.illegal (.mrelease d a))
  else
    .next (s.afterRelease true true fun s =>
      s.request [{ kind := 6, dest := 1024 + moraineSwitch addr, addr := addr, payload := leBytes 8 n }] fun s =>
        s.park (.fabric 63 1 [] none (.scalar d)))

/-- The first switch of a module's pod that its hub holds for live. -/
def State.liveSwitch (s : State) (m : Nat) : Nat :=
  (((List.range 16).map fun i => m / 72 * 16 + i).find? fun w => !(s.module m).failed.contains w).getD (m / 72 * 16)

def execMquota (d : BitVec 6) (s : State) : Out :=
  if s.me.run.active then .next s.abortRemote
  else .next (s.request [{ kind := 7, dest := 1024 + s.liveSwitch (threadModule s.cur) }] fun s =>
    s.park (.fabric 63 1 [] none (.quota d)))

/-! ### FRED, FBARRIER and FBARPOLL at the core (R336, R340, R341) -/

def execFred (a : BitVec 6) (o : BitVec 3) (s : State) : Out :=
  let w := s.group a 4
  let obj := w.getD 0 0
  let w1 := w.getD 1 0
  let src := bits w1 11 0
  let n := bits w1 14 12 + 1
  let i : Instr := .fred a o
  if s.me.run.active then .next s.abortRemote
  else if obj / 2 ^ 12 ≠ 0 ∨ w1 / 2 ^ 15 ≠ 0 ∨ w.getD 2 0 ≠ 0 ∨ w.getD 3 0 ≠ 0 then .next (s.illegal i)
  else if s.w < src + n then .next (s.trapWith (badIndex src))
  else
    readable s (wholeRegs src n) (
      .next (s.afterRelease true true fun s =>
        s.request [{ kind := 15, dest := 1024 + objectSwitch (threadModule s.cur) obj, addr := obj, opc := o.toNat, aux := n - 1
                     payload := leBytes (128 * n) (s.groupBits src n) }] fun s => s.park (.fred obj)))

/-- The object of a module's pod with a number. -/
def State.fabricObj (s : State) (m n : Nat) : FabricObj := SMap.getD (s.switch (objectSwitch m n)).objects n {}
def State.setFabricObj (s : State) (m n : Nat) (o : FabricObj) : State :=
  let w := s.switch (objectSwitch m n)
  s.setSwitch (objectSwitch m n) { w with objects := SMap.set w.objects n o }

/-- Whether an object of a kind serves a module's context (R336, R340). -/
def FabricObj.serves (o : FabricObj) (kind m ctx : Nat) : Bool :=
  decide (colKind o.desc.toNat = kind ∧ colCtx o.desc.toNat = ctx) && bit (colPmask o.desc.toNat) (m % 72)

/-- Whether a module's hub holds the switch of an object for failed. -/
def State.objectLost (s : State) (m n : Nat) : Bool := (s.module m).failed.contains (objectSwitch m n)

def State.hubBarrier (s : State) (m n : Nat) : HubBarrier := SMap.getD (s.module m).hubBarriers n {}
def State.setHubBarrier (s : State) (m n : Nat) (b : HubBarrier) : State :=
  s.setModule m { s.module m with hubBarriers := SMap.set (s.module m).hubBarriers n b }

/-- One arrival at a module's hub; the arrival that reaches MCOUNT sends the module's report to the switch (R340, R353). -/
def State.fabricArrive (s : State) (n : Nat) : State :=
  let m := threadModule s.cur
  let b := s.hubBarrier m n
  let o := s.fabricObj m n
  let s := (s.park (.fbarrier n b.sent)).swatch m syncFabric n 0 b.phase (threadSlot s.cur)
  if colMcount o.desc.toNat ≤ b.arrivals + 1 then
    let s := s.swatch m syncFabric n 1 b.phase (threadSlot s.cur)
    let s := s.setHubBarrier m n { b with arrivals := 0, sent := b.sent + 1 }
    s.addPacket { kind := 17, from_ := m, dest := 1024 + objectSwitch m n, addr := n }
  else s.setHubBarrier m n { b with arrivals := b.arrivals + 1 }

def execFbarrier (a : BitVec 6) (s : State) : Out :=
  let n := (s.sr a).toNat
  let m := threadModule s.cur
  if s.me.run.active then .next s.abortRemote
  else if n / 2 ^ 10 ≠ 0 then .next (s.trap causeREMOTE (s.sr a))
  else .next (s.afterRelease true true fun s =>
    if s.objectLost m n then s.trap causeLOST (s.sr a)
    else if (s.fabricObj m n).serves 2 m (s.agent s.cur).ctx then s.fabricArrive n
    else s.trap causeREMOTE (s.sr a))

def execFbarpoll (d a : BitVec 6) (s : State) : Out :=
  let n := (s.sr a).toNat
  if s.me.run.active then .next s.abortRemote
  else if n / 2 ^ 10 ≠ 0 then .next (s.park (.response 57 (.scalar d (BitVec.allOnes 64))))
  else .next (s.request [{ kind := 11, dest := 1024 + objectSwitch (threadModule s.cur) n, addr := n }] fun s =>
    s.park (.fabric 57 1 [] none (.scalar d)))

/-! ### Arrival of packets (R322 to R324) -/

/-- The packet at a place where it may be performed now: it is whole, its header is sound, and none stands before it. -/
def State.arriving (s : State) (i : Nat) : Option Packet :=
  match s.net[i]? with
  | none => none
  | some p => if p.stomped || !p.headerOk || (s.net.take i).any (fun x => x.before p) then none else some p

/-- Takes the packet at a place out of those in flight. -/
def State.takePacket (s : State) (i : Nat) : State := { s with net := s.net.eraseIdx i }

/-- The reply to a request: kind 12 with data, 13 with a result, 22 to a multicast; OPC, SIZE and AUX are zero (R323). -/
def Packet.reply (p : Packet) (kind status : Nat) (payload : List Byte) : Packet :=
  { p with kind := kind, req := p.kind, from_ := p.dest, dest := p.from_, status := status, payload := payload
           opc := 0, size := 0, aux := 0, last := false }

/-- The agent of a request. -/
def Packet.agent (p : Packet) : Agent := { thread := p.thread, unit := p.srcu, cluster := threadCluster p.thread, ctx := p.ctx }

/-- A served request is taken and its reply joins those in flight; a request that waits at its home stays, and the runs that must give way
to it abort (R261). -/
def State.answer (s : State) (i : Nat) (p : Packet) (kind : Nat) : State × Reply → Option State
  | (s', .done bs) => some ((s'.takePacket i).addPacket (p.reply kind 0 bs))
  | (s', .error c) => some ((s'.takePacket i).addPacket (p.reply kind c []))
  | (_, .wait k ts) => changed s (s.waitsFor p.agent k ts)

/-- The switch of a packet that addresses one. -/
def Packet.sw (p : Packet) : Nat := p.dest - 1024

/-- Whether the source's hub holds the packet's switch for failed. -/
def State.toLost (s : State) (p : Packet) : Bool := decide (1024 ≤ p.dest) && (s.module p.from_).failed.contains p.sw

/-- Whether a packet meets a failed switch whose failure its hub has not been told (R333). -/
def State.toDead (s : State) (p : Packet) : Bool := decide (1024 ≤ p.dest) && (s.switch p.sw).failed && !s.toLost p

/-- The operand words of an AMO or RED. -/
def Packet.operand (p : Packet) (k : Nat) : Nat := leNat ((p.payload.drop (8 * k)).take 8)

def State.deliverRd (s : State) (i : Nat) (p : Packet) : Option State :=
  s.answer i p 12 (s.serveRead p.agent p.dest p.addr p.size)

def State.deliverWr (s : State) (i : Nat) (p : Packet) : Option State :=
  s.answer i p 13 (s.serveWrite p.agent p.dest p.addr p.payload)

/-- Whether a CAS of another module's memory wrote its element, by the old value (R149). -/
def Packet.casWrote (p : Packet) (old : List Byte) : Bool :=
  decide (p.dest < 1024 ∧ p.opc = 7) && (amoValue 7 p.size (leNat (old.take p.size)) (p.operand 0) (p.operand 1)).isSome

/-- The source's walk sets D for a CAS that has written (R131); the reply where that walk must wait (R167, R261). -/
def State.casDirties (s : State) (p : Packet) : State × Option Reply :=
  let a := p.agent
  let need := permR ||| permW ||| permA
  let pages := [p.va / 65536]
  if s.tableWaits a 3 p.dest need true pages ≠ [] then (s, some (.wait reqRead []))
  else match s.resolveAll a (s.walkRequests a 3 p.dest need true pages) with
    | (_, some (k, ts, _)) => (s, some (.wait k ts))
    | (s, none) => ((s.translate a 3 p.dest need true p.va).1, none)

def State.deliverAmo (s : State) (i : Nat) (p : Packet) : Option State :=
  match s.serveAmo p.agent p.dest p.addr p.opc p.size (p.operand 0) (p.operand 1) with
  | (s', .done bs) =>
    if p.casWrote bs then
      match s'.casDirties p with
      | (s', none) => s.answer i p 12 (s', .done bs)
      | (_, some r) => s.answer i p 12 (s, r)
    else s.answer i p 12 (s', .done bs)
  | r => s.answer i p 12 r

def State.deliverRed (s : State) (i : Nat) (p : Packet) : Option State :=
  s.answer i p 13 (s.serveRed p.agent p.dest p.addr p.opc p.size (p.operand 0))

/-! ### SEND (R113) -/

/-- What the end of a SEND does at its source: the thread wakes or traps; a request that no thread waits for is reported (R111). -/
def State.endSend (s : State) (p : Packet) (cause : Nat) : State :=
  if p.held then (if cause = 0 then s else s.report (threadCluster p.thread) p.region cause (BitVec.ofNat 64 p.addr))
  else if (s.thr p.thread).wait = .send then
    if cause = 0 then s.complete p.thread .none else s.takeTrap p.thread cause (BitVec.ofNat 64 p.addr) (s.thr p.thread).pc
  else s

/-- A SEND arrives: refused, placed, or waiting while the inbound queue is full (R113, R114). Inside the module its thread wakes at
once; from another module a reply travels. One whose release waits is not delivered yet; where the release fails, its thread raises the
error of the posted access and nothing is sent (R144). -/
def State.deliverSend (s : State) (i : Nat) (p : Packet) : Option State :=
  let g := p.addr
  let t := p.thread
  let back (s : State) (cause : Nat) : State :=
    if p.from_ = p.dest then (if p.held then s.takePacket i else (s.takePacket i).respond t 63).endSend p cause else (s.takePacket i).addPacket (p.reply 13 cause [])
  let release := if p.gate && !p.held then s.releaseStatus t true else .go
  if release = .wait then none
  else if let .err x := release then
    let s := s.takePacket i
    some ((s.setThr t { s.thr t with postedErr := none }).takeTrap t x.1 x.2 (s.thr t).pc)
  else if !s.present.contains p.dest then none
  else if !s.mailAllowed g p.ctx then some (back s causeREMOTE)
  else if s.mailRoom g p.aux then some (back (s.placeMail g p.aux (BitVec.ofNat 64 (p.operand 0))) 0)
  else none

/-! ### Grants at the switch (R328 to R331) -/

/-- A result of one or two words in an acknowledgement. -/
def State.answerWords (s : State) (i : Nat) (p : Packet) (ws : List Nat) : State :=
  (s.takePacket i).addPacket (p.reply 13 0 (ws.flatMap (leBytes 8)))

/-- The region whose budget a request counts against: work of a CCC thread counts against none (R14). -/
def Packet.payer (p : Packet) : Nat := if p.srcu = 1 then noRegion else p.region

/-- The result codes of R328. -/
def code64 (n : Nat) : Nat := 2 ^ 64 - n

/-- The Moraine address of a page. -/
def moraineAddr (sw page : Nat) : Nat := sw / 16 * 2 ^ 41 + sw % 16 * 2 ^ 37 + page * 2 ^ 21

/-- Steps 2 and 3 of R328, and the grant (R329). -/
def State.deliverMgrant (s : State) (i : Nat) (p : Packet) : Option State :=
  let w := p.operand 0
  let m := p.from_
  let n := bits w 15 0
  let sw := p.sw
  let msw := sw / 16 * 16 + bits w 23 20
  let mirror := decide (p.aux = 1)
  let both := if mirror then [sw, msw] else [sw]
  let need := both.length * n * pageBytes
  let past := (s.budgets m p.payer).any fun r => decide ((s.region m r).morb < s.moraineHeld m r + need)
  let lost := both.any fun x => (s.module m).failed.contains x
  let dead := both.any fun x => (s.switch x).failed
  let few (x : Nat) : Bool := (s.commonRun p.ctx n [x]).isNone || decide ((s.switch x).freeBanks.length < n)
  if past then some ((s.takePacket i).addPacket (p.reply 13 causeQUOTA []))
  else if lost then some (s.answerWords i p [code64 3])
  else if dead then none
  else if both.any fun x => decide ((s.switch x).quotaLeft p.ctx < n) then some ((s.takePacket i).addPacket (p.reply 13 causeQUOTA []))
  else if few sw then some (s.answerWords i p [code64 1])
  else match s.commonRun p.ctx n both with
    | none => some (s.answerWords i p [code64 2])
    | some first =>
      if mirror && few msw then some (s.answerWords i p [code64 2])
      else
        let s := s.grantPages sw p.ctx first n (m, p.payer) (if mirror then some msw else none) sw
        let s := if mirror then s.grantPages msw p.ctx first n (m, p.payer) (some sw) sw else s
        some (s.answerWords i p [moraineAddr sw first])

/-- Whether a release of a region's agent frees a page (R330). -/
def State.mayFree (s : State) (p : Packet) (x : MorPage) : Bool :=
  (decide (p.srcu = 1) && (s.thr p.thread).super)
  || (decide (x.owner.1 = p.from_) && s.descends p.from_ 256 x.owner.2 p.region)

/-- Frees one page of a tenant on every switch of the pod that holds it for an address's switch; whether there was one (R330). -/
def State.freePage (s : State) (p : Packet) (sw page : Nat) : State × Bool :=
  let key := pageKey p.ctx page
  let hit (e : Nat × MorPage) : Bool := decide (e.1 = key ∧ e.2.primary = sw) && s.mayFree p e.2
  let here := s.switches.any fun w => decide (w.1 / 16 = sw / 16) && (w.2.pages ++ w.2.lost).any hit
  ({ s with switches := s.switches.map fun (w : Nat × Switch) =>
      if w.1 / 16 = sw / 16 then (w.1, { w.2 with pages := w.2.pages.filter fun e => !hit e, lost := w.2.lost.filter fun e => !hit e })
      else w }, here)

/-- MRELEASE at its switch: the pages of the range that may be freed are freed and counted; the tenant has no page past the last page number
(R326, R330). -/
def State.deliverMrelease (s : State) (i : Nat) (p : Packet) : Option State :=
  if s.toDead p then none
  else
    let first := bits p.addr 36 21
    let r := (List.range (min (p.operand 0) (switchPages - first))).foldl (fun (r : State × Nat) k =>
      let x := r.1.freePage p p.sw (first + k)
      (x.1, if x.2 then r.2 + 1 else r.2)) (s, 0)
    some (r.1.answerWords i p [r.2])

/-- The better of two switches with counts: `more` prefers the larger count, ties the lower number. -/
def pickSwitch (more : Bool) (a b : Nat × Nat) : Nat × Nat :=
  if more then (if a.2 < b.2 then b else a) else (if b.2 < a.2 then b else a)

/-- The words of MQUOTA (R331). An agent without a budget, and a pod without a live switch, have no stated value: a free word (log 14). -/
def State.deliverMquota (s : State) (i : Nat) (p : Packet) : Option State :=
  if s.toDead p then none
  else
    let m := p.from_
    let left := (s.budgets m p.payer).map fun r => (s.region m r).morb - s.moraineHeld m r
    let w0 := match left with
      | [] => (Config.openWord s.fresh).toNat
      | x :: xs => xs.foldl min x
    let sw (k : Nat) : Nat := m / 72 * 16 + k
    let mask := (List.range 16).foldl (fun v k => if (s.module m).failed.contains (sw k) then v + 2 ^ k else v) 0
    let live := ((List.range 16).filter fun k => !(s.module m).failed.contains (sw k)).map fun k => (k, (s.switch (sw k)).quotaLeft p.ctx)
    let tail := match live with
      | [] => (Config.openWord s.fresh).toNat % 2 ^ 40
      | x :: xs =>
        let hi := xs.foldl (pickSwitch true) x
        let lo := xs.foldl (pickSwitch false) x
        hi.1 * 2 ^ 36 + hi.2 % 65536 * 2 ^ 20 + lo.1 * 2 ^ 16 + lo.2 % 65536
    some (s.tick1.answerWords i p [w0, mask * 2 ^ 40 + tail])

/-! ### Tags (R248 to R250) -/

def Switch.tagPorts (w : Switch) (tag : Nat) : List Nat := SMap.getD w.tags tag []

/-- Sets or clears ports of a tag at a switch. -/
def State.setTag (s : State) (sw tag : Nat) (ports : List Nat) : State :=
  let w := s.switch sw
  s.setSwitch sw { w with tags := if ports = [] then SMap.erase w.tags tag else SMap.set w.tags tag ports }

/-- The switch of the plane of a tag in a pod. -/
def planeSwitch (pod tag : Nat) : Nat := pod * 16 + tag % 16

/-- The pods that a join passes from a pod to another: the minimal route, or the first loaded one where that would cross an absent pod
(R248, R322; log 48). -/
def State.joinPods (s : State) (x y : Nat) : List Nat :=
  ((minimalPods x y :: s.pods.map fun i => viaPods x i y).find? s.loaded).getD (minimalPods x y)

/-- The bits that a join of a pod sets at the other pods' switches: at each pod that it passes, the port on which it arrived (R248). -/
def State.joinBits (s : State) (x : Nat) : List (Nat × Nat) :=
  s.pods.flatMap fun y => let ps := s.joinPods x y; ((ps.drop 1).zip ps).map fun e => (e.1, 72 + e.2)

/-- Sets a tag's bit of a cluster at its die's router, and of the die at the hub (R248). -/
def State.setHubTag (s : State) (cl tag : Nat) : State :=
  let d := clusterDie cl
  let m := clusterModule cl
  let s := s.setDie d { s.die d with tags := SMap.set (s.die d).tags tag (insertNew (SMap.getD (s.die d).tags tag []) cl) }
  s.setModule m { s.module m with tags := SMap.set (s.module m).tags tag (insertNew (SMap.getD (s.module m).tags tag []) d) }

/-- A tag's ports at a router, the hub or a switch without some of them. -/
def withoutPorts (tags : SMap (List Nat)) (tag : Nat) (gone : Nat → Bool) : SMap (List Nat) :=
  let ports := (SMap.getD tags tag []).filter fun x => !gone x
  if ports = [] then SMap.erase tags tag else SMap.set tags tag ports

/-- Clears the bits of a tag at the routers and the hub of a module below which no subscription remains (R248). -/
def State.clearHubTag (s : State) (cl tag : Nat) : State :=
  let d := clusterDie cl
  let m := clusterModule cl
  let held (f : Nat → Bool) : Bool := (s.module m).subs.any fun x => decide (x.tag = tag) && f x.cluster
  let s' := s.setDie d { s.die d with tags := withoutPorts (s.die d).tags tag fun c => !held fun y => decide (y = c) }
  s'.setModule m { s.module m with tags := withoutPorts (s.module m).tags tag fun x => !held fun y => decide (clusterDie y = x) }

/-- A join sets the tag's bits on its path: at its cluster's router and its hub, at its own pod's switch, and at every other pod's (R248). -/
def State.joinTag (s : State) (cl tag : Nat) : State :=
  let m := clusterModule cl
  let own := planeSwitch (m / 72) tag
  let s := s.setHubTag cl tag
  let s := s.setTag own tag (insertNew ((s.switch own).tagPorts tag) (m % 72))
  (s.joinBits (m / 72)).foldl (fun s e =>
    let sw := planeSwitch e.1 tag
    s.setTag sw tag (insertNew ((s.switch sw).tagPorts tag) e.2)) s

/-- A leave clears each bit below whose port no subscription remains (R248). -/
def State.leaveTag (s : State) (cl tag : Nat) : State :=
  let m := clusterModule cl
  let s := s.clearHubTag cl tag
  if (s.module m).subs.any fun x => decide (x.tag = tag) then s
  else
    let own := planeSwitch (m / 72) tag
    let s := s.setTag own tag (((s.switch own).tagPorts tag).filter (· ≠ m % 72))
    if ((s.switch own).tagPorts tag).any fun x => decide (x < 72) then s
    else
      let keep := (s.pods.filter fun q => ((s.switch (planeSwitch q tag)).tagPorts tag).any fun x => decide (x < 72)).flatMap s.joinBits
      ((s.joinBits (m / 72)).filter fun e => !keep.contains e).foldl (fun s e =>
        let sw := planeSwitch e.1 tag
        s.setTag sw tag (((s.switch sw).tagPorts tag).filter (· ≠ e.2))) s

def State.deliverJoin (s : State) (i : Nat) (p : Packet) : Option State :=
  if s.toDead p then none
  else some (((if s.toLost p then s else s.joinTag (threadCluster p.thread) p.addr).takePacket i).addPacket (p.reply 13 0 []))

def State.deliverLeave (s : State) (i : Nat) (p : Packet) : Option State :=
  if s.toDead p then none
  else some (((if s.toLost p then s else s.leaveTag (threadCluster p.thread) p.addr).takePacket i).addPacket (p.reply 13 0 []))

/-- The pods that a packet of a tag reaches from some pods over ports that are set, by so many links more; a failed switch copies nothing on
(R248, R249). -/
def State.tagPods (s : State) (tag : Nat) : Nat → List Nat → List Nat
  | 0, ps => ps
  | n + 1, ps => s.tagPods tag n (ps.foldl (fun acc p =>
      ((((s.switch (planeSwitch p tag)).tagPorts tag).filter fun x => decide (72 ≤ x)).map (· - 72)).foldl (fun acc q =>
        if (s.switch (planeSwitch q tag)).failed then acc else insertNew acc q) acc) ps)

/-- The modules that a packet of a tag reaches from a pod's switch: each once, over the links of R321 (R248, R249; log 48). -/
def State.tagModules (s : State) (pod tag : Nat) : List Nat :=
  (s.tagPods tag 4 [pod]).flatMap fun q =>
    (((s.switch (planeSwitch q tag)).tagPorts tag).filter fun x => decide (x < 72)).map fun x => q * 72 + x

/-! ### Multicast at the receivers (R249, R250) -/

/-- The cells that a packet writes through a subscription's entry, or none where a byte lies outside it (R249). -/
def mcCells (e dst off : Nat) (bs : List Byte) : Option (List (Nat × Byte)) :=
  let out := if layKind e = 1 then decide (bs ≠ [] ∧ layExtent e < dst + off + bs.length) else decide (imageBytes e < off + bs.length)
  if out then none
  else some (((List.range bs.length).zip bs).filterMap fun x => (imageVa e e dst (off + x.1)).map fun v => (v, x.2))

/-- The trap value of a receiver's fault: the layout index, or the address that failed; for a refused peer write the physical address
(R276). -/
def State.receiveFault (s : State) (a : Agent) (x : Subscription) (c : Nat) (cells : List (Nat × Byte)) : Nat :=
  let e := x.lay.toNat
  let va := ((cells.map (·.1)).find? fun v => decide ((s.engineWrite a e [] [(v, 0)]).2 = .error c)).getD ((cells.map (·.1)).headD 0)
  if c = causeLAYOUT then x.layx
  else if c = causeREMOTE then (match s.engineXlat a e permW true [va] with
    | (_, .ok xs) => (farOf e xs va).2
    | _ => va)
  else va

/-- Whether a receiver's write of an XMCAST waits for earlier writes of the issuing thread to the bytes: for live side-log entries of its
core, or for a posted Moraine store (R163, R166). -/
def State.receiverHeld (s : State) (p : Packet) (x : Subscription) (vas : List Nat) : Bool :=
  let e := x.lay.toNat
  let c := s.core (threadCore p.thread)
  decide (p.kind = 19 ∧ vas ≠ []) && (
    (decide (laySpace e = 4) && s.postedAhead p.thread)
    || if clusterModule x.cluster = threadModule p.thread then decide (c.livePages x.ctx (pagesOf vas) ≠ [])
      else c.hasLogOf p.thread)

/-- The lines that the copies of a multicast's thread hold in X: a receiver's write of an earlier operation does not wait for them (R244). -/
def State.senderLines (s : State) (p : Packet) : List Nat :=
  if p.kind = 19 then s.threadLines (threadCluster p.thread) p.thread else []

/-- A subscription receives a packet: its bytes are written, a fault is kept, and the last packet decrements the counter; the agent and
the reply where the engine must wait (R249). -/
def State.receive (s : State) (p : Packet) (x : Subscription) : Except (Agent × Reply) State :=
  let a : Agent := { thread := p.thread, unit := 3, cluster := x.cluster, ctx := x.ctx, heap := x.heap }
  let fault (t : State) (c : Nat) (cells : List (Nat × Byte)) : State :=
    if x.cntv then t.reportStatus x.cluster x.cnt c
    else t.report x.cluster x.region c (BitVec.ofNat 64 (s.receiveFault a x c cells))
  let last (t : State) : State := if p.last && x.cntv then t.completeCounter x.cluster x.cnt p.status else t
  match mcCells x.lay.toNat (p.operand 0) p.aux (p.payload.drop 8) with
  | none => .ok (last (fault s causeLAYOUT []))
  | some (cells : List (Nat × Byte)) =>
    if s.receiverHeld p x (cells.map (·.1)) then .error (a, waitReply)
    else match (if cells = [] then (s, Reply.done []) else s.engineWrite a x.lay.toNat (s.senderLines p) cells) with
    | (_, .wait k ts) => .error (a, .wait k ts)
    | (t, .error c) => .ok (last (fault t c cells))
    | (t, .done _) => .ok (last t)

/-- Every subscription of some receivers receives a packet. -/
def State.receiveAll (s : State) (p : Packet) : List Subscription → Except (Agent × Reply) State
  | [] => .ok s
  | x :: xs => match s.receive p x with
    | .error r => .error r
    | .ok s => s.receiveAll p xs

/-- The subscriptions that a packet of a tag reaches in a list of modules, over the bits of the hubs and of the dies' routers (R248). -/
def State.subscribers (s : State) (tag : Nat) (ms : List Nat) : List Subscription :=
  ms.flatMap fun m => (s.module m).subs.filter fun x => decide (x.tag = tag)
    && (SMap.getD (s.module m).tags tag []).contains (clusterDie x.cluster)
    && (SMap.getD (s.die (clusterDie x.cluster)).tags tag []).contains x.cluster

/-- Every receiver has a packet, and what follows it; where one must wait, the packet waits, and the runs that must give way abort. -/
def State.receivedBy (s : State) (p : Packet) (xs : List Subscription) (k : State → State) : Option State :=
  match s.receiveAll p xs with
  | .error r => changed s (s.engineHolds r.1 r.2)
  | .ok t => some (k t)

/-- A packet of a multicast passes its branch points and is written at every receiver; the operation's last packet is acknowledged.
Behind a failed switch there is no receiver (R249, R250). -/
def State.deliverMcdata (s : State) (i : Nat) (p : Packet) : Option State :=
  if s.toDead p then none
  else
    let ms := if s.toLost p then [] else s.tagModules (p.from_ / 72) p.addr
    s.receivedBy p (s.subscribers p.addr ms) fun s =>
      let s := s.takePacket i
      if p.last then s.addPacket (p.reply 22 0 []) else s

/-- A packet of a reduction's result, with its switch as the first branch point (R337). -/
def State.deliverMcresult (s : State) (i : Nat) (p : Packet) : Option State :=
  s.receivedBy p (s.subscribers p.addr (s.tagModules (p.sw / 16) p.addr)) fun s => s.takePacket i

/-- The last acknowledgement of a multicast: the sender's oldest operation of the tag completes (R249). -/
def State.deliverMcack (s : State) (i : Nat) (p : Packet) : Option State :=
  let s := s.takePacket i
  let cl := threadCluster p.thread
  let c := s.cluster cl
  match (List.range c.copies.length).find? fun k => match c.copies[k]? with
      | some o => o.sent && decide (o.thread = p.thread ∧ o.tag = p.addr)
      | none => false with
  | none => some s
  | some k =>
    let o : CopyOp := c.copies.getD k {}
    some ((s.dropCopy cl k).completeCounter o.sel o.cnt o.cause)

/-! ### Collective objects (R334 to R342) -/

/-- Whether a round or a phase of an object is in progress. -/
def FabricObj.busy (o : FabricObj) : Bool := decide (o.stored ≠ [] ∨ o.waiting ≠ [] ∨ o.reported ≠ [])

/-- The installation of a barrier sets its phase number to 0, at the hubs that take part too, whose synchronisation watches carry it (R334,
R353). -/
def State.zeroPhases (s : State) (m n : Nat) (d : Nat) : State :=
  if colKind d ≠ 2 then s
  else { s with modules := s.modules.map fun (e : Nat × Module) =>
    if e.1 / 72 = m / 72 ∧ bit (colPmask d) (e.1 % 72) ∧ SMap.has e.2.hubBarriers n then
      (e.1, { e.2 with hubBarriers := SMap.set e.2.hubBarriers n { SMap.getD e.2.hubBarriers n {} with phase := 0 } })
    else e }

/-- A configuration reaches its switch (R334). -/
def State.deliverFcfg (s : State) (i : Nat) (p : Packet) : Option State :=
  if s.toDead p then none
  else
    let m := p.from_
    let d := leNat (p.payload.take 64)
    let t := s.takePacket i
    if s.toLost p then some (t.endFcol m 4)
    else if (s.fabricObj m p.addr).busy then some (t.endFcol m 3)
    else
      let w := t.switch p.sw
      let objs := if colKind d = 0 then SMap.erase w.objects p.addr else SMap.set w.objects p.addr { desc := BitVec.ofNat 512 d }
      some (((t.setSwitch p.sw { w with objects := objs }).zeroPhases m p.addr d).endFcol m 0)

/-- Combine on one FP32 lane for LSE3: `r * a + x * b`, each product and the sum rounded (R339). -/
def lseMix (r x a b : W32) : W32 := add32 (mul32 r a) (mul32 x b)

/-- Combine (R338, R339). -/
def combine (op : Nat) (r x : List Vec) : List Vec :=
  let lanes (f : W32 → W32 → W32) : List Vec := (r.zip x).map fun p => ofLanes fun i => f (lane p.1 i) (lane p.2 i)
  match op with
  | 0 => lanes add32
  | 1 => lanes fun u v => halves (add16 (lowHalf u) (lowHalf v)) (add16 (highHalf u) (highHalf v))
  | 2 => lanes (· + ·)
  | 3 => lanes max32
  | 4 => lanes min32
  | _ =>
    let mr := lane (r.headD 0) 0
    let mx := lane (x.headD 0) 0
    let m := if isNan mr || isNan mx then nan32 else max32 mr mx
    let a := exp2Scale mr m
    let b := exp2Scale mx m
    let head := ofLanes fun i => if i = 0 then m else if i = 1 then lseMix (lane (r.headD 0) 1) (lane (x.headD 0) 1) a b else 0
    head :: ((r.drop 1).zip (x.drop 1)).map fun p => ofLanes fun i => lseMix (lane p.1 i) (lane p.2 i) a b

/-- Lanes 2 to 31 of an LSE3 head are delivered as zero, whatever the number of contributions (R339). -/
def lseHead (op : Nat) (r : List Vec) : List Vec :=
  if op < 5 then r
  else match r with
    | [] => []
    | v :: vs => ofLanes (fun i => if i < 2 then lane v i else 0) :: vs

/-- The result of a round: contributions combined in ascending slot order (R337). -/
def roundResult (op : Nat) (cs : List Contribution) : List Vec :=
  let slots := (List.range 72).filterMap fun q => cs.find? fun c => decide (c.module % 72 = q)
  match slots with
  | [] => []
  | c :: rest => rest.foldl (fun r x => combine op r x.regs) (lseHead op c.regs)

/-- Whether every module of a mask is among some modules. -/
def maskMet (pmask : Nat) (ms : List Nat) : Bool :=
  (List.range 72).all fun q => !bit pmask q || ms.any fun m => decide (m % 72 = q)

/-- An acknowledgement of a contribution (R337, R343). -/
def fredAck (sw obj : Nat) (c : Contribution) (accepted status : Nat) : Packet :=
  { kind := 16, thread := c.thread, from_ := 1024 + sw, dest := c.module, region := c.region, addr := obj, aux := accepted, status := status }

/-- Waiting contributions enter the round, one a module, in the order of arrival (R337). -/
def FabricObj.accept (o : FabricObj) : FabricObj × List Contribution :=
  o.waiting.foldl (fun (acc : FabricObj × List Contribution) c =>
    if acc.1.stored.any fun x => decide (x.module = c.module) then
      ({ acc.1 with waiting := acc.1.waiting ++ [c] }, acc.2)
    else ({ acc.1 with stored := acc.1.stored ++ [c] }, acc.2 ++ [c])) ({ o with waiting := [] }, [])

/-- Completes rounds of an object while every module has contributed (R337). -/
def State.settle (sw obj : Nat) : Nat → State → State
  | 0, s => s
  | fuel + 1, s =>
    let w := s.switch sw
    let o := SMap.getD w.objects obj {}
    let d := o.desc.toNat
    if maskMet (colPmask d) (o.stored.map (·.module)) then
      let img := (roundResult (colOp d) o.stored).flatMap fun v => leBytes 128 v.toNat
      let p : Packet := { kind := 20, from_ := 1024 + sw, dest := 1024 + sw, addr := colTag d }
      let r := ({ o with stored := [], number := (o.number + 1) % 2 ^ 32 } : FabricObj).accept
      let s := s.setSwitch sw { w with objects := SMap.set w.objects obj r.1 }
      let s := s.addPackets (mcPackets p (BitVec.ofNat 64 (colDst d)) img 0 ++ r.2.map fun c => fredAck sw obj c 1 0)
      State.settle sw obj fuel s
    else s

/-- The contribution that a packet carries. -/
def Packet.contribution (p : Packet) : Contribution :=
  { module := p.from_, thread := p.thread, region := p.region
    regs := (List.range (p.aux + 1)).map fun k => BitVec.ofNat 1024 (leNat ((p.payload.drop (128 * k)).take 128)) }

/-- A contribution reaches its switch (R336, R337, R342). -/
def State.deliverFcontrib (s : State) (i : Nat) (p : Packet) : Option State :=
  let c := p.contribution
  let refuse (cause : Nat) : Option State := some ((s.takePacket i).addPacket (fredAck p.sw p.addr c 0 cause))
  if s.toLost p then refuse causeLOST
  else if s.toDead p then none
  else
    let o := s.fabricObj p.from_ p.addr
    let d := o.desc.toNat
    if !o.serves 1 p.from_ p.ctx then refuse causeREMOTE
    else if p.opc ≠ colOp d ∨ p.aux + 1 ≠ colNreg d then refuse causeILLEGAL
    else
      let s := s.takePacket i
      if o.stored.any fun x => decide (x.module = p.from_) then
        some (s.setFabricObj p.from_ p.addr { o with waiting := o.waiting ++ [c] })
      else
        let s := (s.setFabricObj p.from_ p.addr { o with stored := o.stored ++ [c] }).addPacket (fredAck p.sw p.addr c 1 0)
        some (State.settle p.sw p.addr (o.waiting.length + 1) s)

/-- The acknowledgement of a contribution reaches its source: accepted, refused with a cause, or withdrawn, so that the FRED issues
again (R336, R343). -/
def State.deliverFrack (s : State) (i : Nat) (p : Packet) : Option State :=
  let s := s.takePacket i
  let t := p.thread
  if (s.thr t).wait = .fred p.addr then
    let s := s.respond t 57
    if p.status ≠ 0 then some (s.takeTrap t p.status (BitVec.ofNat 64 p.addr) (s.thr t).pc)
    else if p.aux = 1 then some (s.complete t .none)
    else some (s.setThr t { s.thr t with wait := .ready })
  else some s

/-- A withdrawal reaches the switch: a contribution that still waits is taken back; one that entered a round was accepted (R343). -/
def State.deliverFwdraw (s : State) (i : Nat) (p : Packet) : Option State :=
  if s.toLost p then some (s.takePacket i)
  else if s.toDead p then none
  else
    let o := s.fabricObj p.from_ p.addr
    let s := s.takePacket i
    match o.waiting.find? fun c => decide (c.module = p.from_ ∧ c.thread = p.thread) with
    | none => some s
    | some c =>
      some ((s.setFabricObj p.from_ p.addr { o with waiting := o.waiting.filter fun x => ¬(x.module = p.from_ ∧ x.thread = p.thread) }).addPacket
        (fredAck p.sw p.addr c 0 0))

/-- A module's report reaches the switch; when every module of PMASK has reported, the phase completes and the release is multicast
(R340). -/
def State.deliverFbarr (s : State) (i : Nat) (p : Packet) : Option State :=
  if s.toLost p then some (s.takePacket i)
  else if s.toDead p then none
  else
    let o := s.fabricObj p.from_ p.addr
    let d := o.desc.toNat
    let rep := o.reported ++ [p.from_]
    let s := s.takePacket i
    if maskMet (colPmask d) rep then
      let number := (o.number + 1) % 2 ^ 32
      let left := (List.range 72).foldl (fun (ms : List Nat) q =>
        if bit (colPmask d) q then (match ms.find? fun m => decide (m % 72 = q) with
          | some m => ms.erase m
          | none => ms) else ms) rep
      let s := s.setFabricObj p.from_ p.addr { o with reported := left, number := number }
      some (s.addPackets (((List.range 72).filter fun q => bit (colPmask d) q).map fun q =>
        { kind := 21, from_ := p.dest, dest := p.sw / 16 * 72 + q, addr := p.addr, aux := number }))
    else some (s.setFabricObj p.from_ p.addr { o with reported := rep })

/-- Threads of a module that wait in a phase of a fabric barrier. -/
def State.fabricWaiters (s : State) (m n : Nat) (k : Option Nat) : List Nat :=
  s.threads.filterMap fun e => match e.2.wait with
    | .fbarrier n' k' => if e.2.live && decide (threadModule e.1 = m ∧ n' = n) && (k.isNone || decide (k = some k')) then some e.1 else none
    | _ => none

/-- A release reaches a hub: the threads whose arrivals counted in the phase wake (R340, R353). -/
def State.deliverFbrel (s : State) (i : Nat) (p : Packet) : Option State :=
  let m := p.dest
  let b := s.hubBarrier m p.addr
  let s := (s.takePacket i).setHubBarrier m p.addr { b with released := b.released + 1, phase := p.aux }
  let s := s.swatch m syncFabric p.addr 2 p.aux 0
  some ((s.fabricWaiters m p.addr (some b.released)).foldl (fun s t => (s.respond t 57).complete t .none) s)

/-- A module's arrivals in the current phase of a barrier: MCOUNT once it has sent its report, else those that its hub has counted; arrivals
that come after the report count toward the next phase (R340, R341). -/
def State.phaseArrivals (s : State) (m n : Nat) : Nat :=
  let o := s.fabricObj m n
  if o.reported.contains m || s.net.any fun x => decide (x.kind = 17 ∧ x.from_ = m ∧ x.addr = n) then colMcount o.desc.toNat
  else (s.hubBarrier m n).arrivals

/-- FBARPOLL at the switch (R341). -/
def State.deliverFbpoll (s : State) (i : Nat) (p : Packet) : Option State :=
  if s.toDead p then none
  else
    let o := s.fabricObj p.from_ p.addr
    let ones := 2 ^ 64 - 1
    let v := if s.toLost p || !o.serves 2 p.from_ p.ctx then ones
      else o.number * 2 ^ 32 + (o.reported.eraseDups).length * 2 ^ 16 + s.phaseArrivals p.from_ p.addr
    some (s.answerWords i p [v])

/-! ### Replies at the source (R144, R323) -/

/-- The trap value of an error: the physical address of a refused peer request, else the address the source formed (R276). -/
def Packet.tval (p : Packet) : Word := BitVec.ofNat 64 (if p.status = causeREMOTE then p.addr else if p.status = causeQUOTA then 0 else p.va)

/-- What a thread writes when all its replies have arrived (R145, R147, R149, R329, R331). -/
def finishValue (got : Memory) : Finish → Writeback
  | .load d addrs sx => .scalar d (loadValue (addrs.map fun a => Memory.get got a) sx)
  | .vload d mask lanes => .vector d mask (vecOfLanes (lanes.map fun x => (x.1, x.2.map fun a => Memory.get got a)))
  | .amo d _ => .scalar d (BitVec.ofNat 64 (leNat (Memory.bytes got 0 8)))
  | .store => .none
  | .scalar d => .scalar d (BitVec.ofNat 64 (leNat (Memory.bytes got 0 8)))
  | .grant d _ => .scalar d (BitVec.ofNat 64 (leNat (Memory.bytes got 0 8)))
  | .quota d => .pair d (BitVec.ofNat 64 (leNat (Memory.bytes got 0 8))) (BitVec.ofNat 64 (leNat (Memory.bytes got 8 8)))

/-- The layout entry that a grant writes (R329). -/
def grantEntry (w addr : Nat) : Nat :=
  1 + 4 * 8 + bits w 37 36 * 64 + bits w 40 38 * 256 + addr * 2 ^ 64 + bits w 15 0 * pageBytes * 2 ^ 128

/-- Step 3 of R329: the entry is written where the grant succeeded, by a coherent write of the thread; true where that must wait, for a
line in X or for a run (R167, R170, R261). -/
def State.bindGrant (s : State) (t : Nat) (got : Memory) : Finish → State × Bool
  | .grant _ w =>
    let addr := leNat (Memory.bytes got 0 8)
    let loc := s.entryLoc t (bits w.toNat 35 28)
    let lines := insertNew [lineOf loc] (lineOf (loc + 63))
    if code64 3 ≤ addr then (s, false)
    else if lines.any fun l => s.xlines.contains l then (s, true)
    else match s.resolveConflicts (s.agent t) reqWrite (tilesOfLines lines) with
      | (s, some _) => (s, true)
      | (s, none) => (s.setBytes none 0 (cellsAt loc (leBytes 64 (grantEntry w.toNat addr))), false)
  | _ => (s, false)

/-- Where a reply's bytes belong: those of a read at its address, a result at zero. -/
def Packet.cells (p : Packet) : Finish → List (Nat × Byte)
  | .load .. => cellsAt p.addr p.payload
  | .vload .. => cellsAt p.addr p.payload
  | _ => cellsAt 0 p.payload

/-- A reply of a posted access: one fewer is outstanding; an error goes to the region's fault domain and to the thread's next
release (R142, R144, R333). -/
def State.endPosted (s : State) (p : Packet) : State :=
  let s := if p.status = 0 then s else s.report (threadCluster p.thread) p.region p.status p.tval
  if p.held then s
  else
    let th := s.thr p.thread
    s.setThr p.thread { th with
      posted := th.posted - 1
      postedErr := if p.status = 0 ∨ th.postedErr.isSome then th.postedErr else some (p.status, p.tval) }

/-- A reply reaches its thread with the DELAY that it has gathered: the access completes with its last reply, or raises the first error
(R144, R323, R358). A grant whose entry cannot be written yet stays (R167). -/
def State.deliverReply (before : State) (i : Nat) (q : Packet) (delay : BitVec 16) : Option State :=
  let p := { q with delay := delay.toNat }
  let t := p.thread
  let s := before.takePacket i
  let g := threadCore t
  let s := if g < 2 ^ 20 ∧ p.held = false then
      s.addDelay t (match (s.thr t).wait with
        | .fabric bank _ _ _ _ => if p.posted then 32 + bits p.va 40 37 else bank
        | _ => if p.posted then 32 + bits p.va 40 37 else 63) (BitVec.ofNat 16 p.delay)
    else s
  if p.posted then some (s.endPosted p)
  else if p.held then
    some (if p.status = 0 then s else s.report (threadCluster t) p.region p.status p.tval)
  else match (s.thr t).wait with
    | .send => some (s.endSend p p.status)
    | .fabric bank left got err fin =>
      let err := if err.isSome then err else if p.status = 0 then none else some (p.status, p.tval)
      let got := Memory.setAll got (p.cells fin)
      if 1 < left then some (s.setThr t { s.thr t with wait := .fabric bank (left - 1) got err fin })
      else match err with
        | some x => some (s.takeTrap t x.1 x.2 (s.thr t).pc)
        | none => match s.bindGrant t got fin with
          | (_, true) => changed before (before.bindGrant t got fin).1
          | (s, false) => some (s.complete t (finishValue got fin))
    | _ => some s

/-! ### Loss in transit (R324) -/

/-- A NAK reaches its source: the packet that was discarded is sent again with the same SEQ. -/
def State.deliverNak (s : State) (i : Nat) (p : Packet) : Option State :=
  let s := s.takePacket i
  match (List.range s.net.length).find? fun k => match s.net[k]? with
      | some x => x.stomped && decide (x.thread = p.thread ∧ x.srcu = p.srcu ∧ x.dest = p.from_ ∧ x.seq = p.seq)
      | none => false with
  | none => some s
  | some k => some { s with net := s.net.set k { (s.net.getD k {}) with stomped := false } }

/-- A packet ends with STOMP: it is discarded whole, and a NAK is sent (R324). -/
def State.stompPacket (s : State) (i : Nat) : State :=
  match s.net[i]? with
  | none => s
  | some p =>
    if p.stomped ∨ p.kind = 14 then s
    else
      let s := { s with net := s.net.set i { p with stomped := true } }
      s.addPacket { kind := 14, thread := p.thread, srcu := p.srcu, from_ := p.dest, dest := p.from_, seq := p.seq, aux := p.seq, plane := p.plane }

def execStompedPacket (i : Nat) (s : State) : Out := .next (s.stompPacket i)

/-! ### Packet events -/

/-- A switch discards a packet whose KIND is not assigned or has another CLASS, and counts it (R323, R324). -/
def State.discardBad (s : State) (i : Nat) : State :=
  match s.net[i]? with
  | none => s
  | some p =>
    if p.headerOk then s
    else
      let w := p.firstSwitch
      (s.takePacket i).setSwitch w { s.switch w with discarded := (s.switch w).discarded + 1 }

/-- Performs the packet at a place where it has one of some kinds and may be performed now; a packet with a bad header is discarded;
else the state is as it is. -/
def State.onPacket (s : State) (i : Nat) (kinds : List Nat) (k : State → Nat → Packet → Option State) : State :=
  match s.arriving i with
  | none => s.discardBad i
  | some p => if kinds.contains p.kind then (k s i p).getD s else s

def execFirnRd (i : Nat) (s : State) : Out := .next (s.onPacket i [0] State.deliverRd)
def execFirnWr (i : Nat) (s : State) : Out := .next (s.onPacket i [1] State.deliverWr)
def execFirnAmo (i : Nat) (s : State) : Out := .next (s.onPacket i [2] State.deliverAmo)
def execFirnRed (i : Nat) (s : State) : Out := .next (s.onPacket i [3] State.deliverRed)

/-- A SEND of another module (R113). -/
def execFirnSend (i : Nat) (s : State) : Out :=
  .next (s.onPacket i [4] fun s i p => if p.from_ = p.dest then none else s.deliverSend i p)

/-- A SEND inside the module (R113). -/
def execMailboxArrival (i : Nat) (s : State) : Out :=
  .next (s.onPacket i [4] fun s i p => if p.from_ = p.dest then s.deliverSend i p else none)

def execFirnMgrant (i : Nat) (s : State) : Out := .next (s.onPacket i [5] State.deliverMgrant)
def execFirnMrelease (i : Nat) (s : State) : Out := .next (s.onPacket i [6] State.deliverMrelease)
def execFirnMquota (i : Nat) (s : State) : Out := .next (s.onPacket i [7] State.deliverMquota)
def execFirnJoin (i : Nat) (s : State) : Out := .next (s.onPacket i [8] State.deliverJoin)
def execFirnLeave (i : Nat) (s : State) : Out := .next (s.onPacket i [9] State.deliverLeave)
def execFirnFcfg (i : Nat) (s : State) : Out := .next (s.onPacket i [10] State.deliverFcfg)
def execFirnFbpoll (i : Nat) (s : State) : Out := .next (s.onPacket i [11] State.deliverFbpoll)
def execFirnRdata (i : Nat) (delay : BitVec 16) (s : State) : Out :=
  .next (s.onPacket i [12] fun s i p => s.deliverReply i p delay)
def execFirnAck (i : Nat) (delay : BitVec 16) (s : State) : Out :=
  .next (s.onPacket i [13] fun s i p => s.deliverReply i p delay)
def execFirnNak (i : Nat) (s : State) : Out := .next (s.onPacket i [14] State.deliverNak)
def execFirnFcontrib (i : Nat) (s : State) : Out := .next (s.onPacket i [15] State.deliverFcontrib)
def execFirnFrack (i : Nat) (s : State) : Out := .next (s.onPacket i [16] State.deliverFrack)
def execFirnFbarr (i : Nat) (s : State) : Out := .next (s.onPacket i [17] State.deliverFbarr)
def execFirnFwdraw (i : Nat) (s : State) : Out := .next (s.onPacket i [18] State.deliverFwdraw)
def execFirnMcdata (i : Nat) (s : State) : Out := .next (s.onPacket i [19] State.deliverMcdata)
def execFirnMcresult (i : Nat) (s : State) : Out := .next (s.onPacket i [20] State.deliverMcresult)
def execFirnFbrel (i : Nat) (s : State) : Out := .next (s.onPacket i [21] State.deliverFbrel)
def execFirnMcack (i : Nat) (s : State) : Out := .next (s.onPacket i [22] State.deliverMcack)

/-- FCOLCFG: a write that starts the installation of a collective object (R334). -/
def execFcolcfg (m : Nat) (v : BitVec 64) (s : State) : Out := .next (s.writeFcolcfg m v.toNat)

/-! ### Failure of a switch (R333, R342) -/

/-- The first declaration of a switch's failure: unmirrored pages are LOST, the other copies stand alone, and nothing on the switch is
served any more. It holds the number of its mirrored pages. -/
def State.failSwitch (s : State) (sw : Nat) : State :=
  let w := s.switch sw
  if w.failed then s
  else
    let alive (e : Nat × MorPage) : Option Nat :=
      (List.range 16).map (fun k => sw / 16 * 16 + k) |>.find? fun x => decide (x ≠ sw) && (match SMap.get? (s.switch x).pages e.1 with
        | some y => decide (y.primary = e.2.primary)
        | none => false)
    let mirrored := w.pages.filter fun e => (alive e).isSome
    let gone := w.pages.filter fun e => (alive e).isNone
    let s := mirrored.foldl (fun s e => match alive e with
      | none => s
      | some x =>
        let k := s.switch x
        let y := SMap.getD k.pages e.1 {}
        s.setSwitch x { k with pages := SMap.set k.pages e.1 { y with mirror := none } }) s
    let s := gone.foldl (fun s e =>
      let k := s.switch e.2.primary
      s.setSwitch e.2.primary { k with lost := SMap.set k.lost e.1 { e.2 with lostAt := some sw } }) s
    let k := s.switch sw
    s.setSwitch sw { k with failed := true, pages := [], halved := mirrored.length }

/-- A reply that is still on its way for a page that is LOST carries MORAINE_LOST, whichever switch answered: the second failure of a
mirrored page's switches loses the access too (R333). -/
def State.loseReplies (s : State) (m : Nat) : State :=
  { s with net := s.net.map fun (p : Packet) =>
    if 1024 ≤ p.from_ ∧ p.dest = m ∧ (p.kind = 12 ∨ p.kind = 13) ∧ p.req ≤ 3
        ∧ ((SMap.get? (s.switch (moraineSwitch p.va)).lost (pageKey p.ctx (bits p.va 36 21))).bind (·.lostAt)).isSome = true then { p with status := causeLOST }
    else p }

/-- Regions of a module with a contribution stored in an open round of a failed switch: each with the object and a thread (R342). -/
def Switch.openRounds (w : Switch) (m : Nat) : List (Nat × Nat × Nat) :=
  w.objects.flatMap fun o =>
    o.2.stored.foldl (fun (acc : List (Nat × Nat × Nat)) c =>
      if c.module = m ∧ !(acc.any fun x => decide (x.2.1 = c.region)) then acc ++ [(o.1, c.region, c.thread)] else acc) []

/-- Packets of a collective between a module and a switch. -/
def Packet.collective (p : Packet) (m sw : Nat) : Bool :=
  decide ((p.kind = 15 ∨ p.kind = 17 ∨ p.kind = 18) ∧ p.from_ = m ∧ p.dest = 1024 + sw)
  || decide ((p.kind = 16 ∨ p.kind = 21) ∧ p.from_ = 1024 + sw ∧ p.dest = m)

/-- The barriers and reductions of a failed switch are unusable: packets of them are lost, and the hub's phases in progress end, none of
whose arrivals counts in a later phase (R342). -/
def State.endCollectives (s : State) (m sw : Nat) : State :=
  let s := { s with net := s.net.filter fun p => !p.collective m sw, egress := s.egress.filter fun p => !p.collective m sw }
  let ended (e : Nat × HubBarrier) : Nat × HubBarrier :=
    if objectSwitch m e.1 = sw then (e.1, { e.2 with arrivals := 0, sent := e.2.sent + 1, released := e.2.sent + 1 }) else e
  s.setModule m { s.module m with hubBarriers := (s.module m).hubBarriers.map ended }

/-- Threads of a module parked on an object of a switch. -/
def State.collectiveWaiters (s : State) (m sw : Nat) : List (Nat × Nat) :=
  s.threads.filterMap fun e =>
    let obj := match e.2.wait with
      | .fred n => some n
      | .fbarrier n _ => some n
      | _ => none
    match obj with
    | none => none
    | some n => if e.2.live && decide (threadModule e.1 = m ∧ objectSwitch m n = sw) then some (e.1, n) else none

/-- FIRN_SWFAIL: the management cluster's SWFAIL packet, kind 23, reaches the hub of a module (R323, R333, R342). -/
def State.declareFailed (s : State) (m sw : Nat) : State :=
  if (s.module m).failed.contains sw then s
  else
    let rounds := (s.switch sw).openRounds m
    let s := s.failSwitch sw
    let s := s.setModule m { s.module m with
      failed := insertNew (s.module m).failed sw, degraded := (s.module m).degraded + (s.switch sw).halved }
    let s := s.loseReplies m
    let s := s.endCollectives m sw
    let s := rounds.foldl (fun s x => s.report (threadCluster x.2.2) x.2.1 causeLOST (BitVec.ofNat 64 x.1)) s
    (s.collectiveWaiters m sw).foldl (fun s x => s.takeTrap x.1 causeLOST (BitVec.ofNat 64 x.2) (s.thr x.1).pc) s

def execFirnSwfail (m sw : Nat) (s : State) : Out := .next (s.declareFailed m sw)

/-- SWITCH_REPLACEMENT: the new switch is live at every hub, with empty page maps, objects and tags; the pages that its failure lost, and those
of its own addresses, have no copy and are no longer LOST (R333). -/
def execSwitchReplacement (sw : Nat) (s : State) : Out :=
  let w := s.switch sw
  let found (own : Bool) (e : Nat × MorPage) : Nat × MorPage := if own || e.2.lostAt = some sw then (e.1, { e.2 with lostAt := none }) else e
  let s := { s with switches := s.switches.map fun (e : Nat × Switch) => (e.1, { e.2 with lost := e.2.lost.map (found false) }) }
  let s := s.setSwitch sw { lost := w.lost.map (found true), quota := w.quota }
  .next { s with modules := s.modules.map fun (e : Nat × Module) => (e.1, { e.2 with failed := e.2.failed.filter (· ≠ sw) }) }

end Sys2Proof.Machine
end

