-- ==== Sys2Proof/Machine/Preempt.lean ====
section
/-! DEFINITION. Pre-emption: saves, images, restores and discards (21_traps R293 to R299; 10_consistency R171). -/

namespace Sys2Proof.Machine

/-! ### Residencies (R37) -/

/-- A core takes the residency of a region: the term counters and the delay accumulators are cleared when the region or context is
another than the one it held last (R37, R236, R358). -/
def State.takeResidency (s : State) (g r ctx : Nat) : State :=
  let c := s.core g
  let owner := ((s.region (clusterModule (coreCluster g)) r).serial, ctx)
  let c := { c with resident := some r, lastHeld := some owner }
  s.setCore g (if (s.core g).lastHeld = some owner then c
    else { c with terms := [], counted := none, dbg := { c.dbg with dsum := [], dcnt := [] } })

/-- The live threads of a core. -/
def State.threadsOf (s : State) (g : Nat) : List (Nat × Thread) := s.liveThreads.filter fun e => decide (threadCore e.1 = g)

/-- The running regions of a module at or under a region. -/
def State.family (s : State) (m r : Nat) : List Nat :=
  (s.module m).regions.filterMap fun e => if s.descends m 256 e.1 r then some e.1 else none

/-- Residencies of a region. -/
def State.coresUsed (s : State) (m r : Nat) : Nat :=
  (s.cores.filter fun e => decide (e.1 < 2 ^ 20 ∧ clusterModule (coreCluster e.1) = m ∧ e.2.resident = some r)).length

/-- Whether a count of a region's family stays below a budget field in the region and in every ancestor (R26). -/
def State.roomIn (s : State) (m r hi lo : Nat) (use : Nat → Nat) : Bool :=
  (s.ancestors m 256 r).all fun a => decide ((s.family m a).foldl (fun n q => n + use q) 0 < (s.region m a).f hi lo)

/-- Whether a region may take one more residency (R37, R44). -/
def State.coreRoom (s : State) (m r : Nat) : Bool := s.roomIn m r 138 128 (s.coresUsed m)

/-- Register words and tiles of a core that count against a region: those of its threads and of its descendants' threads there, and those
of the saved residencies of these regions (R26, R298). A saved residency counts on the core that saved it (DESIGN CHOICE, log 68). -/
def State.coreUse (s : State) (g a : Nat) : Nat × Nat :=
  let under (q : Nat) : Bool := s.descends (clusterModule (coreCluster g)) 256 q a
  let live := (s.threadsOf g).foldl (fun n e => if under e.2.region then (n.1 + e.2.winRegs, n.2 + e.2.tiles.length) else n) (0, 0)
  s.images.foldl (fun n e => if e.2.core = g ∧ under e.2.region = true then
    e.2.threads.foldl (fun n x => (n.1 + x.regs, n.2 + x.tiles)) n else n) live

/-- Whether some more registers and tiles on a core keep a region and each of its ancestors within REGW and ACCS (R26, R38). -/
def State.budgetRoom (s : State) (g r regs accn : Nat) : Bool :=
  let m := clusterModule (coreCluster g)
  (s.ancestors m 256 r).all fun a =>
    let u := s.coreUse g a
    decide (32 * (u.1 + regs) ≤ (s.region m a).f 177 160 ∧ u.2 + accn ≤ (s.region m a).f 159 154)

/-- The registers of a thread's window, by register-store index (R38). -/
def windowOf (t : Nat) (th : Thread) : List Nat := (List.range (winSize t th)).map fun i => (winStart t th + i) % 4096

/-! ### Copying sections -/

/-- Copies n bytes of memory from one location to another, under no key. -/
def State.copyBytes (s : State) (src dst n : Nat) : State :=
  let cells := (s.mem.filter fun e => decide (src ≤ e.1 ∧ e.1 < src + n)).map fun e => (e.1 - src + dst, e.2)
  { s with
    mem := Memory.setAll (Memory.zero s.mem dst n) cells
    badMem := s.badMem.filter fun l => !decide (dst ≤ l ∧ l < dst + n)
    lineKey := s.lineKey.filter fun e => !decide (dst ≤ e.1 * 128 ∧ e.1 * 128 < dst + n) }

/-- The location of a region's CSM allocation in a cluster, and its size in bytes (R30). -/
def State.csmSection (s : State) (cl r : Nat) : Nat × Nat :=
  let x := s.region (clusterModule cl) r
  (locOf (clusterModule cl) (csmBase + cl % 128 * 2 ^ 23 + x.f 1185 1163), x.f 215 192)

/-! ### Images (R296) -/

/-- The location of the image that PREIMG names. -/
def State.imageLoc (s : State) (cl : Nat) : Nat := locOf (clusterModule cl) (s.cluster cl).preimg.toNat

/-- Whether an image of some size can lie where PREIMG names it: aligned to 64 KiB, in HBM (R296). -/
def imagePlaceOk (pa n : Nat) : Bool := decide (pa % 65536 = 0) && inHbm (pa + n - 1)

def imageMagic : Nat := 0x445A494D

/-- Offsets of the parts of an image. -/
def imageThreads : Nat := 0x100
def imageMail : Nat := 0x4100
def imageDeque : Nat := 0x4300
def imageStreams : Nat := 0x4B00
def imageTiles : Nat := 0x8000
def imageRegs : Nat := 0x10000
def imageCsm : Nat := 0x90000

/-- What a saved thread resumes with: an instruction that has had no effect issues again (R295); FBARRIER is saved as BARRIER is (R340). -/
def Wait.saved : Wait → Wait
  | .mrecv d box seq => .mrecv d box seq
  | .barrier o p => .barrier o p
  | .fbarrier o p => .fbarrier o p
  | .waitw d x => .waitw d x
  | .trapped => .trapped
  | _ => .ready

/-- Whether a thread in this wait can be saved: its access, unit or engine request is not outstanding (R294 steps 3 to 5). -/
def Wait.savable : Wait → Bool
  | .ready => true
  | .mrecv _ _ _ => true
  | .barrier _ _ => true
  | .fbarrier _ _ => true
  | .waitw _ _ => true
  | .apqpop _ _ => true
  | .apqpush _ _ => true
  | .apwait _ _ => true
  | .apstart => true
  | .retry _ => true
  | .trapped => true
  | _ => false

/-- The pending kind-1 record of a thread. -/
def State.recordOf (s : State) (t : Nat) : Option Record := s.records.find? fun r => r.ofThread t

/-- Whether a stream has a pushed element that it has not written (R294 step 6). -/
def Cluster.pushedLeft (c : Cluster) (x : Stream) : Bool :=
  match x.queue with
  | none => false
  | some q => match SMap.get? c.queues q with
    | none => false
    | some k => k.inbound && decide (x.pos < x.n ∧ x.e ≤ k.data.length)

/-- The streams that a residency started and that have a slot (R294). -/
def State.streamsOf (s : State) (g r : Nat) : List (Nat × Stream) :=
  (s.cluster (coreCluster g)).streams.filter fun e => decide (threadCore e.2.thread = g ∧ e.2.region = r)

/-- The queues of a residency. -/
def State.queuesOf (s : State) (g r : Nat) : List (Nat × ApQueue) :=
  (s.cluster (coreCluster g)).queues.filter fun e => decide (threadCore e.2.thread = g ∧ e.2.region = r)

/-- Whether everything that a save waits for has ended: what the core's threads wait for, the side log, and the copies, near-bank operations,
commits, pending stream starts and posted accesses of the residency, those of threads that have left too (R171, R294 steps 3 to 6). -/
def State.drained (s : State) (g : Nat) : Bool :=
  let c := s.core g
  let k := s.cluster (coreCluster g)
  let r := c.resident.getD noRegion
  let mine (t q : Nat) : Bool := decide (threadCore t = g ∧ q = r)
  decide (c.sideLog = [])
  && ((s.threadsOf g).all fun e => e.2.wait.savable && !e.2.staging && decide (e.2.posted = 0)
    && match s.recordOf e.1 with
      | some x => decide (x.cause ≠ causeASSIST)
      | none => true)
  && !(k.copies.any fun o => mine o.thread o.region) && !(k.nears.any fun o => mine o.thread o.region)
  && !(k.commits.any fun o => mine o.owner.thread o.owner.region)
  && !(k.starts.any fun o => mine o.thread o.stream.region && !o.wake)
  && !(s.net.any fun p => p.posted && mine p.thread p.region)
  && !((s.streamsOf g r).any fun e => k.pushedLeft e.2)

/-- A stream as it goes on after a restore: a gather stands at its first element not yet popped; lines in X are given back, and taken again
(R261, R294). -/
def Stream.stopped (o : Stream) (q : Option ApQueue) : Stream :=
  let o := { o with lines := o.lines.map fun _ => [], dropped := o.dropped || decide (o.lines.flatten ≠ []), stall := none }
  match q with
  | some k => if !k.inbound && k.attached then { o with pos := min k.total (k.units * 128) / o.e } else o
  | none => o

/-- A queue as it goes on after a restore: the data of a gather that goes on is dropped (R294). -/
def ApQueue.stopped (k : ApQueue) : ApQueue := if !k.inbound && k.attached then { k with data := [] } else k

/-- The header of an image (R296). The tile map lists the tiles of the threads, by slot and then by accumulator name. -/
def imageHeader (gen region ctx g : Nat) (ths : List (Nat × Thread)) : Nat :=
  let mask := ths.foldl (fun m e => m + 2 ^ threadSlot e.1) 0
  let tiles := ths.flatMap fun e => e.2.tiles
  let map := ((List.range tiles.length).zip tiles).foldl (fun m x => m + x.2 % 32 * 2 ^ (5 * x.1)) 0
  imageMagic + gen % 2 ^ 64 * 2 ^ 64 + region % 256 * 2 ^ 128 + ctx % 65536 * 2 ^ 144 + g * 2 ^ 160 + mask * 2 ^ 192 + map * 2 ^ 256

/-- The wait word of a thread block: two words (R295, R296; log 22). -/
def Wait.words : Wait → Nat × Nat
  | .mrecv d box _ => (1 + d.toNat * 2 ^ 8 + box * 2 ^ 16, 0)
  | .barrier o p => (2 + o * 2 ^ 16, p)
  | .waitw d _ => (3 + d.toNat * 2 ^ 8, 0)
  | .trapped => (4, 0)
  | .fbarrier o p => (5 + o * 2 ^ 16, p)
  | _ => (0, 0)

/-- The wait that two words stand for; `seq` orders a thread that parks on a mailbox again. -/
def waitOf (w v seq : Nat) : Wait :=
  let d := BitVec.ofNat 6 (bits w 13 8)
  match bits w 7 0 with
  | 1 => .mrecv d (bits w 20 16) seq
  | 2 => .barrier (bits w 31 16) v
  | 3 => .waitw d none
  | 4 => .trapped
  | 5 => .fbarrier (bits w 31 16) v
  | _ => .ready

/-- The 128 words of a thread block: the scalars, PC, predicates, format words as FMTR reads them, FFLAGS and XCLIP, RDINSN, the
generators, the task and its window, the wait word, AGE, CONFL and RUNST, watches, the pending record, the error that the next release
raises, the PC that DDATA wrote, and the PCs that pass a breakpoint and the watch entries once (R296, R349, R350, R352; the order is the
model's, log 22). -/
def State.threadBlock (s : State) (t : Nat) (th : Thread) : List Nat :=
  let pair (m : Nat → Nat) (i : Nat) : Nat := m (2 * i) + m (2 * i + 1) * 2 ^ 32
  let w := th.wait.saved.words
  let watch (i : Nat) : List Nat := match (s.watchesOf t)[i]? with
    | some x => [x.word + 2 ^ 63, x.va]
    | none => [0, 0]
  let record : List Nat := match s.recordOf t with
    | some r => [r.cause + 2 ^ 63, r.tpc.toNat, r.tval.toNat, r.tnpc.toNat]
    | none => [0, 0, 0, 0]
  let err : List Nat := match th.postedErr with
    | some x => [x.1 + 2 ^ 63, x.2.toNat]
    | none => [0, 0]
  let mark (x : Option Word) : List Nat := match x with
    | some v => [1, v.toNat]
    | none => [0, 0]
  ((List.range 64).map fun i => (SMap.getD th.sreg i 0).toNat) ++ [th.pc.toNat]
  ++ ((List.range 4).map (pair fun i => (SMap.getD th.preg i 0).toNat))
  ++ ((List.range 4).map fun i => (th.fmtRead (winStart t th) i).toNat)
  ++ [th.fflags.toNat + th.xclip.toNat * 2 ^ 8, th.insn.toNat] ++ ((List.range 16).map (pair fun i => (th.gen i).toNat))
  ++ [th.dslot + th.slice * 2 ^ 10 + th.winStart * 2 ^ 27 + th.winRegs * 2 ^ 40 + th.tiles.length * 2 ^ 53, w.1, w.2, th.age, th.confl, th.runst.toNat]
  ++ (List.range 8).flatMap watch ++ record ++ err ++ mark th.nextPc ++ mark th.passBreak ++ mark th.passWatch ++ List.replicate 3 0

/-- The location of a slot's thread block. -/
def blockLoc (loc slot : Nat) : Nat := loc + imageThreads + 1024 * slot

/-- The mailboxes of a core as 512 bytes: the values, the presence bits, the number of queued values, their mailboxes, and the values
(R114, R296; log 22). -/
def Core.mailBytes (c : Core) : List Byte :=
  ((List.range 32).flatMap fun i => leBytes 8 (SMap.getD c.mail i 0).toNat) ++ leBytes 4 c.present.toNat ++ leBytes 4 c.inbound.length
  ++ ((List.range 16).flatMap fun i => leBytes 1 (c.inbound.getD i (0, 0)).1) ++ List.replicate 8 0
  ++ ((List.range 16).flatMap fun i => leBytes 8 (c.inbound.getD i (0, 0)).2.toNat) ++ List.replicate 96 0

/-- A deque as 64 entries of 32 bytes, head first: bounds, tag, and whether the entry is there (R49, R296; log 22). -/
def dequeBytes (dq : List DqEntry) : List Byte :=
  (List.range 64).flatMap fun i => match dq[i]? with
    | some x => leBytes 8 x.lo.toNat ++ leBytes 8 x.hi.toNat ++ leBytes 2 x.tag.toNat ++ leBytes 14 1
    | none => List.replicate 32 0

/-- The positions of the eight streams: 64 bytes each, the element that is next and those that are done (R294, R296; log 22). -/
def positionBytes (streams : List (Nat × Stream)) : List Byte :=
  (List.range 8).flatMap fun i => match streams.find? fun e => decide (e.1 = i) with
    | some e => leBytes 8 1 ++ leBytes 8 e.2.pos ++ leBytes 48 e.2.done
    | none => List.replicate 64 0

/-- Writes an image: the header, the thread blocks, mailboxes, deque, stream positions, tiles, registers, and the CSM section; the bytes
of a slot without a thread are free (R296, R297). -/
def State.writeImage (s : State) (cl g loc : Nat) (gen region ctx : Nat) (streams : List (Nat × Stream)) (csm : Option (Nat × Nat)) : State :=
  let c := s.core g
  let ths := s.threadsOf g
  let again := decide (c.image = some loc)
  let regs := if again then c.dirty.filter fun n => ths.any fun e => (windowOf e.1 e.2).contains n else List.range 4096
  let blocks := ths.map fun e => (threadSlot e.1, (s.threadBlock e.1 e.2).flatMap (leBytes 8))
  let free := ((List.range 16).filter fun i => !ths.any fun e => decide (threadSlot e.1 = i)).flatMap fun i =>
    (List.range 1024).map fun b => imageThreads + 1024 * i + b
  let s := s.setNum loc 256 (imageHeader gen region ctx g ths)
  let s := s.setBytes none 0 (free.map fun b => (loc + b, Config.imageByte s.fresh b))
  let s := blocks.foldl (fun s x => s.setBytes none 0 (cellsAt (blockLoc loc x.1) x.2)) s
  let s := s.setBytes none 0 (cellsAt (loc + imageMail) (c.mailBytes ++ dequeBytes c.deque ++ positionBytes streams))
  let s := (List.range 32).foldl (fun s k => s.setNum (loc + imageTiles + 1024 * k) 1024 (s.tileAt g k).toNat) s
  let s := regs.foldl (fun s n => s.setNum (loc + imageRegs + 128 * n) 128 (SMap.getD c.store n 0).toNat) s
  let inSection (src n l : Nat) : Bool := decide (src ≤ l * 128 ∧ l * 128 < src + n)
  let s := match csm with
    | none => s
    | some (src, n) =>
      if again then ((s.cluster cl).csmDirty.filter (inSection src n)).foldl (fun (s : State) l => s.copyBytes (l * 128) (l * 128 - src + loc + imageCsm) 128) s
      else s.copyBytes src (loc + imageCsm) n
  let k := s.cluster cl
  let own := s.csmSection cl region
  (s.setCluster cl { k with csmDirty := k.csmDirty.filter fun l => !inSection own.1 own.2 l }).tick1

/-- The generation that a save writes: one more than the image's, where an image stands there (R297). -/
def State.nextGeneration (s : State) (loc : Nat) : Nat := if s.num loc 8 = imageMagic then s.num (loc + 8) 8 + 1 else 1

/-- A residency as its image holds it (R299). -/
def State.takeImage (s : State) (cl g loc : Nat) (withCsm : Bool) : Image :=
  let r := (s.core g).resident.getD noRegion
  let qs := s.queuesOf g r
  let queueOf (o : Stream) : Option ApQueue := o.queue.bind fun q => SMap.get? qs q
  let saveOne (e : Nat × Thread) : SavedThread :=
    { slot := threadSlot e.1, slice := e.2.slice, dslot := e.2.dslot, regs := e.2.winRegs, tiles := e.2.tiles.length }
  { cluster := cl, core := g, region := r, ctx := (s.region (clusterModule cl) r).f 101 86, generation := s.nextGeneration loc,
    threads := (s.threadsOf g).map saveOne
    streams := (s.streamsOf g r).map fun e => (e.1, e.2.stopped (queueOf e.2)), queues := qs.map fun e => (e.1, e.2.stopped),
    csm := if withCsm then (s.csmSection cl r).2 else 0 }

/-- A core's residency ends as its threads leave for an image (R294 step 7, R299): their slots, watches and records go, and their
tasks are saved. -/
def State.vacate (s : State) (cl g : Nat) : State :=
  let ths := s.threadsOf g
  let r := (s.core g).resident.getD noRegion
  let s := s.returnX ((s.streamsOf g r).flatMap fun e => e.2.lines.flatten)
  let s := ths.foldl (fun s e =>
    let s := ((s.dropRecords (·.ofThread e.1)).dropToken e.1).dequeueAll (s.agent e.1)
    let x := s.task e.2.slice e.2.dslot
    let s := s.setTask e.2.slice e.2.dslot { x with state := .saved }
    let s := { s with threads := SMap.erase s.threads e.1 }
    { s with clusters := s.clusters.map fun (x : Nat × Cluster) =>
      (x.1, { x.2 with watches := x.2.watches.filter fun w => w.thread ≠ e.1 }) }) s
  let k := s.cluster cl
  let s := s.setCluster cl { k with
    streams := k.streams.filter fun e => !decide (threadCore e.2.thread = g ∧ e.2.region = r)
    queues := k.queues.filter fun e => !decide (threadCore e.2.thread = g ∧ e.2.region = r)
    starts := k.starts.filter fun x => threadCore x.thread ≠ g || !x.wake }
  let c := s.core g
  s.setCore g { c with resident := none, image := none, dirty := [], tlb := [], mail := [], present := 0, inbound := [], deque := [] }

/-! ### Ends of operations -/

/-- Every CCC thread of a cluster that waits in WFI wakes: a pre-emption has ended (R289). -/
def State.wakeWfi (s : State) (cl : Nat) : State :=
  (List.range 4).foldl (fun s i =>
    let t := cccBase + cl * 4 + i
    match (s.thr t).wait with
    | .wfi _ => if (s.thr t).live then s.complete t .none else s
    | _ => s) s

/-- A save, restore or discard ends with a code (R293). -/
def State.endPreempt (s : State) (cl code : Nat) : State :=
  let k := s.cluster cl
  (s.setCluster cl { k with preBusy := false, preCode := code, saving := none, restoring := none }).wakeWfi cl

/-- A save, restore or discard is refused with a code: nothing has run, and no thread wakes (R289, R293). -/
def State.refusePreempt (s : State) (cl code : Nat) : State := s.setCluster cl { s.cluster cl with preCode := code }

/-- A value of PRECTL that is refused for a bit that must be zero (R293). -/
def prectlBad (v : Nat) : Bool := decide (bits v 63 16 ≠ 0 ∨ bits v 12 3 ≠ 0 ∨ (bit v 15 = false ∧ bit v 13 = true))

/-! ### Saving (R294) -/

/-- A waiting FRED of a thread is withdrawn: its contribution is taken back unless it has entered a round (R343). -/
def State.withdrawFred (s : State) (t : Nat) : State :=
  match (s.thr t).wait with
  | .fred obj => if (s.thr t).live then s.emit (s.formPacket t { kind := 18, dest := 1024 + objectSwitch (threadModule t) obj, addr := obj }) else s
  | _ => s

/-- The decision of a save: the core issues nothing more, its explicit runs abort with PREEMPT, its ordered tasks go back to ready, those
that have not issued yet too, and its waiting FREDs are withdrawn (R294 steps 1 and 2, R299, R343). -/
def State.beginSave (s : State) (cl v : Nat) : State :=
  let g := cl * 8 + bits v 2 0
  let loc := s.imageLoc cl
  let r := (s.core g).resident.getD noRegion
  let n := imageCsm + (if bit v 14 then (s.csmSection cl r).2 else 0)
  if prectlBad v ∨ imagePlaceOk (s.cluster cl).preimg.toNat n = false then s.refusePreempt cl 1
  else if (s.core g).resident = none then s.refusePreempt cl 3
  else
    let k := s.cluster cl
    let s := s.setCluster cl { k with preBusy := true, preCode := 0, saving := some (g, bit v 14, loc) }
    let s := (s.threadsOf g).foldl (fun s e =>
      let th := s.thr e.1
      if !th.live then s
      else if th.ordered then s.abortOrdered th.slice th.dslot abortPREEMPT
      else if th.run.active then s.abortHolder (.thread e.1) abortPREEMPT 0 else s) s
    (s.threadsOf g).foldl (fun s e => s.withdrawFred e.1) s

/-- A save whose drain is complete writes its image, and the residency ends (R294 step 7). -/
def State.endSave (s : State) (cl : Nat) : State :=
  match (s.cluster cl).saving with
  | none => s
  | some (g, withCsm, loc) =>
    match (s.core g).resident with
    | none => s.endPreempt cl 0
    | some r =>
      if s.drained g then
        let img := s.takeImage cl g loc withCsm
        let s := { s with images := SMap.set s.images s.fresh img }
        let s := s.writeImage cl g loc img.generation r img.ctx img.streams (if withCsm then some (s.csmSection cl r) else none)
        (s.vacate cl g).endPreempt cl 0
      else s

/-! ### Restoring (R298) -/

/-- Whether memory at a location holds the image of a residency that is held: the magic, the core, the region and the thread mask of
the header, and each thread's task. An image may have been moved (R296, R299; log 22). -/
def State.imageAt (s : State) (loc : Nat) (img : Image) : Bool :=
  decide (s.num loc 8 = imageMagic ∧ s.num (loc + 20) 4 = img.core ∧ s.num (loc + 16) 1 = img.region)
  && decide (s.num (loc + 24) 2 = img.threads.foldl (fun m x => m + 2 ^ x.slot) 0)
  && img.threads.all fun x =>
    let w := s.num (blockLoc loc x.slot + 8 * 91) 8
    decide (bits w 9 0 = x.dslot ∧ bits w 26 10 = x.slice)

/-- The residency whose image stands where PREIMG of a cluster names it, with its number. -/
def State.heldAt (s : State) (cl : Nat) : Option (Nat × Image) :=
  s.images.find? fun e => decide (clusterModule e.2.cluster = clusterModule cl) && s.imageAt (s.imageLoc cl) e.2

/-- The decision of a restore (R293, R298). -/
def State.beginRestore (s : State) (cl v : Nat) : State :=
  let g := cl * 8 + bits v 2 0
  match s.heldAt cl with
  | none => s.refusePreempt cl 1
  | some (_, img) =>
    if prectlBad v then s.refusePreempt cl 1
    else if (s.core g).resident.isSome then s.refusePreempt cl 2
    else if !SMap.has (s.module (clusterModule cl)).regions img.region then s.refusePreempt cl 4
    else
      let k := s.cluster cl
      s.setCluster cl { k with preBusy := true, preCode := 0, restoring := some (g, bit v 14, s.imageLoc cl) }

/-- Whether the stream slots and queues of an image are free in a cluster. -/
def Cluster.streamRoom (k : Cluster) (img : Image) : Bool :=
  (img.streams.all fun e => !SMap.has k.streams e.1) && (img.queues.all fun e => !SMap.has k.queues e.1)

/-- The tiles of a thread in an image: the tile map lists those of the lower slots first (R296). -/
def State.imageTilesOf (s : State) (loc : Nat) (img : Image) (slot : Nat) : List Nat :=
  let map := s.num (loc + 32) 32
  let count (n : Nat) : Nat := bits (s.num (blockLoc loc n + 8 * 91) 8) 58 53
  let before := (img.threads.filter fun x => decide (x.slot < slot)).foldl (fun n x => n + count x.slot) 0
  (List.range (count slot)).map fun i => map / 2 ^ (5 * (before + i)) % 32

/-- A thread as its block in an image gives it (R296, R298). -/
def State.imageThread (s : State) (loc : Nat) (img : Image) (slot : Nat) : Thread :=
  let w (k : Nat) : Nat := s.num (blockLoc loc slot + 8 * k) 8
  let half (base i : Nat) : W32 := BitVec.ofNat 32 (w (base + i / 2) / 2 ^ (32 * (i % 2)))
  let mark (k : Nat) : Option Word := if w k = 1 then some (BitVec.ofNat 64 (w (k + 1))) else none
  let th : Thread := {
    live := true, pc := BitVec.ofNat 64 (w 64)
    sreg := (List.range 63).map fun i => (i + 1, BitVec.ofNat 64 (w (i + 1)))
    preg := (List.range 7).map fun i => (i + 1, half 65 (i + 1))
    fflags := BitVec.ofNat 5 (w 73), xclip := BitVec.ofNat 9 (w 73 / 2 ^ 8), insn := BitVec.ofNat 64 (w 74)
    gens := (List.range 32).map fun i => (i, half 75 i)
    dslot := bits (w 91) 9 0, slice := bits (w 91) 26 10, winStart := bits (w 91) 39 27, winRegs := bits (w 91) 52 40
    tiles := s.imageTilesOf loc img slot
    region := img.region, ctx := s.num (loc + 18) 2
    wait := waitOf (w 92) (w 93) s.fresh, age := w 94, confl := w 95, cause := bits (w 96) 11 0, code := bits (w 96) 63 56
    postedErr := if bit (w 117) 63 then some (bits (w 117) 5 0, BitVec.ofNat 64 (w 118)) else none
    nextPc := mark 119, passBreak := mark 121, passWatch := mark 123 }
  (List.range 4).foldl (fun th i => th.fmtWrite th.winStart i (BitVec.ofNat 64 (w (69 + i)))) th

/-- The watches of a thread block, as already fired (R298). -/
def State.imageWatches (s : State) (loc slot t ctx : Nat) : List WatchEntry :=
  (List.range 8).filterMap fun i =>
    let x := s.num (blockLoc loc slot + 8 * (97 + 2 * i)) 8
    if bit x 63 then some { word := bits x 62 0, thread := t, va := s.num (blockLoc loc slot + 8 * (98 + 2 * i)) 8, ctx := ctx, fired := true }
    else none

/-- The pending record of a thread block, under the handle of the thread (R298). -/
def State.imageRecord (s : State) (loc slot t region : Nat) : Option Record :=
  let w (k : Nat) : Nat := s.num (blockLoc loc slot + 8 * k) 8
  if bit (w 113) 63 then some {
    handle := threadHandle t, cause := bits (w 113) 5 0, tpc := BitVec.ofNat 64 (w 114), tval := BitVec.ofNat 64 (w 115)
    tnpc := BitVec.ofNat 64 (w 116), region := region, place := .fresh }
  else none

/-- A saved thread takes its place again: its window, tiles and watches, its wait, and its record under a new handle (R298).
Threads that wait for one mailbox take their places in the order of their slots (DESIGN CHOICE, log 23). -/
def State.placeThread (s : State) (g loc : Nat) (img : Image) (slot : Nat) : State :=
  let t := slotThread g slot
  let th := s.imageThread loc img slot
  let watches := s.imageWatches loc slot t th.ctx
  let record := s.imageRecord loc slot t img.region
  let regs := windowOf t th
  let c := s.core g
  let owner := ((s.region (clusterModule (coreCluster g)) th.region).serial, th.ctx)
  let c := { c with
    store := regs.foldl (fun m n => SMap.set m n (BitVec.ofNat 1024 (s.num (loc + imageRegs + 128 * n) 128))) c.store
    accs := th.tiles.foldl (fun m k => SMap.set m k (BitVec.ofNat 8192 (s.num (loc + imageTiles + 1024 * k) 1024))) c.accs
    regOwner := regs.foldl (fun m n => SMap.set m (n / 64) owner) c.regOwner
    tileOwner := th.tiles.foldl (fun m k => SMap.set m k owner) c.tileOwner }
  let s := ((s.setCore g c).setThr t th).tick1
  let s := { s with
    badRegs := s.badRegs.filter fun e => !(regs.any fun n => decide (e.1 = g * 4096 + n))
    badAccs := s.badAccs.filter fun e => !(th.tiles.any fun k => decide (e.1 = g * 32 + k)) }
  let s := watches.foldl (fun s w =>
    let cl := csmCluster (locModule (w.word * 4)) (locPa (w.word * 4))
    let k := s.cluster cl
    s.setCluster cl { k with watches := k.watches ++ [w] }) s
  let y := s.task th.slice th.dslot
  let s := s.setTask th.slice th.dslot { y with state := .dispatched, thread := t }
  match record with
  | some r => s.addRecord r
  | none => s

/-- The mailboxes and the deque of an image (R296). -/
def State.imageCore (s : State) (loc : Nat) (c : Core) : Core :=
  let n := s.num (loc + imageMail + 260) 4
  { c with
    mail := (List.range 32).map fun i => (i, BitVec.ofNat 64 (s.num (loc + imageMail + 8 * i) 8))
    present := BitVec.ofNat 32 (s.num (loc + imageMail + 256) 4)
    inbound := (List.range (min n 16)).map fun i =>
      (s.num (loc + imageMail + 264 + i) 1 % 32, BitVec.ofNat 64 (s.num (loc + imageMail + 288 + 8 * i) 8))
    deque := (List.range 64).filterMap fun i =>
      let p := loc + imageDeque + 32 * i
      if s.num (p + 18) 1 = 1 then some { lo := BitVec.ofNat 64 (s.num p 8), hi := BitVec.ofNat 64 (s.num (p + 8) 8), tag := BitVec.ofNat 16 (s.num (p + 16) 2) }
      else none
    dirty := [], image := some loc }

/-- A stream at the position that its image records (R294, R298). -/
def State.imageStream (s : State) (loc cl t : Nat) (e : Nat × Stream) : Stream :=
  let p := loc + imageStreams + 64 * e.1
  { e.2 with pos := s.num (p + 8) 8, done := s.num (p + 16) 8, thread := t, cluster := cl }

/-- How a placed thread goes on from the wait that its image records (R298). -/
def State.resumeSaved (s : State) (t : Nat) : State :=
  match (s.thr t).wait with
  | .barrier o p =>
    match s.barrier (threadModule t) o with
    | some b => if b.phase = p then s else s.complete t .none
    | none => s.complete t .none
  | .fbarrier n p =>
    if s.objectLost (threadModule t) n then s.takeTrap t causeLOST (BitVec.ofNat 64 n) (s.thr t).pc
    else if p < (s.hubBarrier (threadModule t) n).released then s.complete t .none else s
  | .waitw d _ => s.endWaitw t d 1
  | .mrecv d box _ =>
    let g := threadCore t
    let c := s.core g
    if c.present.getLsbD box then (s.setCore g (c.consume box)).complete t (.scalar d (SMap.getD c.mail box 0)) else s
  | _ => s

/-- Whether a restored residency keeps its region within CORES, and within REGW and ACCS on the core (R26, R37). -/
def State.restoreRoom (s : State) (g n : Nat) (img : Image) : Bool :=
  s.coreRoom (clusterModule (coreCluster g)) img.region
  && State.budgetRoom { s with images := SMap.erase s.images n } g img.region ((img.threads.map (·.regs)).sum) ((img.threads.map (·.tiles)).sum)

/-- A restore reads its image and places everything in it, the CSM section where PRECTL includes it (R293), once its stream slots and queues are free and the region's budgets have room
(R298, R299; log 23). -/
def State.endRestore (s : State) (cl : Nat) : State :=
  match (s.cluster cl).restoring with
  | none => s
  | some (g, withCsm, loc) =>
    match s.images.find? fun e => decide (clusterModule e.2.cluster = clusterModule cl) && s.imageAt loc e.2 with
    | none => s.endPreempt cl 1
    | some (n, img) =>
      if !(s.cluster cl).streamRoom img || !s.restoreRoom g n img then s
      else
        let old := s
        let s := s.takeResidency g img.region img.ctx
        let s := img.threads.foldl (fun s x => s.placeThread g loc img x.slot) s
        let s := s.setCore g (old.imageCore loc (s.core g))
        let k := s.cluster cl
        let moved (t : Nat) : Nat := slotThread g (threadSlot t)
        let dest := s.csmSection cl img.region
        let s := s.setCluster cl { k with
          streams := img.streams.foldl (fun m e => SMap.set m e.1 (old.imageStream loc cl (moved e.2.thread) e)) k.streams
          queues := img.queues.foldl (fun m e => SMap.set m e.1 { e.2 with thread := moved e.2.thread }) k.queues
          csmDirty := k.csmDirty.filter fun l => !decide (dest.1 ≤ l * 128 ∧ l * 128 < dest.1 + dest.2) }
        let s := if img.csm = 0 ∨ withCsm = false then s else s.copyBytes (loc + imageCsm) dest.1 img.csm
        let s := { s with images := SMap.erase s.images n }
        let s := img.threads.foldl (fun s x => s.resumeSaved (slotThread g x.slot)) s
        s.endPreempt cl 0

/-! ### Discarding (R299) -/

/-- An image's tasks are aborted, with their streams, each of which is cancelled: its counter takes ILLEGAL and is decremented. The image is
held no more (R299, R317). -/
def State.dropImage (s : State) (n : Nat) : State :=
  match SMap.get? s.images n with
  | none => s
  | some img =>
    let s := (img.streams.filter fun e => e.2.cntv && !e.2.ended).foldl (fun s e => s.completeCounter e.2.sel e.2.cnt causeILLEGAL) s
    let s := img.threads.foldl (fun s x => (s.orphanAll (0, (s.task x.slice x.dslot).serial)).freeTask x.slice x.dslot) s
    { s with images := SMap.erase s.images n }

/-- A discard of the image that PREIMG names (R299). -/
def State.discardImage (s : State) (cl v : Nat) : State :=
  match s.heldAt cl with
  | none => s.refusePreempt cl 1
  | some (n, img) =>
    if prectlBad v then s.refusePreempt cl 1
    else if !SMap.has (s.module (clusterModule cl)).regions img.region then s.refusePreempt cl 4
    else (s.dropImage n).endPreempt cl 0

/-- A write of PRECTL; ignored while BUSY is 1 (R293). -/
def State.writePrectl (s : State) (cl v : Nat) : State :=
  if (s.cluster cl).preBusy then s
  else if !bit v 15 then s.beginSave cl v
  else if bit v 13 then s.discardImage cl v
  else (s.beginRestore cl v).endRestore cl

/-! ### The events -/

/-- PREEMPT_SAVE: a write of PRECTL with OP 0 (R294). -/
def execPreemptSave (cl : Nat) (v : BitVec 64) (s : State) : Out :=
  .next (if (s.cluster cl).preBusy ∨ bit v.toNat 15 = true then s else s.beginSave cl v.toNat)

/-- SAVE_IMAGE_WRITE: the drain is complete (R294, R296). -/
def execSaveImageWrite (cl : Nat) (s : State) : Out := .next (s.endSave cl)

/-- PREEMPT_RESTORE: a write of PRECTL with OP 1 and DISC 0; a restore that waits for stream slots goes on (R298). -/
def execPreemptRestore (cl : Nat) (v : BitVec 64) (s : State) : Out :=
  .next (if bit v.toNat 15 = false ∨ bit v.toNat 13 = true then s
    else if (s.cluster cl).preBusy then s.endRestore cl
    else (s.beginRestore cl v.toNat).endRestore cl)

/-- IMAGE_DISCARD: a write of PRECTL with OP 1 and DISC 1 (R299). -/
def execImageDiscard (cl : Nat) (v : BitVec 64) (s : State) : Out :=
  .next (if (s.cluster cl).preBusy ∨ bit v.toNat 15 = false ∨ bit v.toNat 13 = false then s else s.discardImage cl v.toNat)

end Sys2Proof.Machine
end

