-- ==== Sys2Proof/Machine/System.lean ====
section
/-! DEFINITION. The meanings of the system and special-register instructions, opcodes 0x00 and 0x78 to 0x7C (21_traps R283, R286 to R293;
08_memory_spaces R133; 04_formats R70, R71; 01_organisation R14). -/

namespace Sys2Proof.Machine

/-! ### Numbers of the supervisor CSRs (R290) -/

def csrTRES : Nat := 0x003
def csrTQ : Nat := 0x800
def csrTSEL : Nat := 0x801
def csrTCAUSE : Nat := 0x802
def csrTPC : Nat := 0x803
def csrTNPC : Nat := 0x804
def csrTVAL : Nat := 0x805
def csrTXIDX : Nat := 0x806
def csrTXDATA : Nat := 0x807
def csrTAMASK : Nat := 0x808
def csrPRECTL : Nat := 0x810
def csrPRESTAT : Nat := 0x811
def csrPREIMG : Nat := 0x812
def csrCCTX : Nat := 0x820
def csrCLTAB : Nat := 0x821
def csrCHBASE : Nat := 0x822
def csrCHLIMIT : Nat := 0x823
def csrCHOFF : Nat := 0x824

/-! ### The trap queue and the TSEL record -/

/-- The cluster where a record arose (R279, R280). -/
def Record.cluster (r : Record) : Nat := handleId r.handle / 8

/-- Whether a record stands in the trap queue of a cluster's CCC, read or not (R280). -/
def Record.queued (r : Record) (cl : Nat) : Bool :=
  match r.place with
  | .queue _ => decide (r.cluster = cl)
  | _ => false

/-- The oldest record of a cluster's trap queue that TQ has not returned (R290). -/
def State.unread (s : State) (cl : Nat) : Option Record :=
  s.records.find? fun r => decide (r.place = .queue false) && decide (r.cluster = cl)

/-- TQ: the oldest unread record is marked read; its handle, or 0 when none remains (R290). -/
def State.takeTq (s : State) (cl : Nat) : State × Word :=
  match s.unread cl with
  | none => (s, 0)
  | some r =>
    ({ s with records := s.records.map fun x => if x.handle = r.handle then { x with place := .queue true } else x }, r.handle)

/-- The pending record of the thread's cluster that TSEL names (R290). -/
def State.tselRecord (s : State) (t : Nat) : Option Record :=
  (s.findRecord (s.thr t).tsel).filter fun r => decide (r.cluster = threadCluster t)

/-- What TXDATA reaches: the record, the thread, the class and the index; none where it raises ILLEGAL (R292). -/
def State.txTarget (s : State) (t : Nat) : Option (Record × Nat × Nat × Nat) :=
  let x := (s.thr t).txidx.toNat
  match s.tselRecord t with
  | none => none
  | some r =>
    if handleKind r.handle = 1 ∧ s.txAllowed (handleThread r.handle) (bits x 23 20) (bits x 19 0) false = true then
      some (r, handleThread r.handle, bits x 23 20, bits x 19 0)
    else none

/-- The locked tile that TXDATA must wait for: a locked tile but that of the ASSIST record that TSEL names (R224, R286). -/
def State.txLock (s : State) (r : Record) (u cls idx : Nat) : Option Nat :=
  ((s.thr u).txTile cls idx).filter fun k =>
    (s.core (threadCore u)).locks.contains k && !decide (r.cause = causeASSIST ∧ r.tile = k)

/-- The register-store word or accumulator element that TXDATA reads, where it is uncorrectable (R285). -/
def State.txBad (s : State) (u cls idx : Nat) : Option Nat :=
  let g := threadCore u
  if cls = 3 then
    let k := s.phys u (idx / 32)
    if (SMap.getD s.badRegs (g * 4096 + k) 0).getLsbD (idx % 32) then some k else none
  else if cls = 4 then
    let k := (s.thr u).tile (idx / 256)
    if (SMap.getD s.badAccs (g * 32 + k) 0).getLsbD (idx % 256) then some (4096 + 256 * k + idx % 256) else none
  else none

/-! ### CSRR and CSRW (R290) -/

/-- A supervisor CSR without an effect of its reading, as a thread of a CCC reads it (R290, R293). -/
def State.superCsr (s : State) (n : Nat) : Word :=
  let th := s.me
  let k := s.cluster (threadCluster s.cur)
  let rec_ (f : Record → Word) : Word := match s.tselRecord s.cur with
    | some r => f r
    | none => 0
  if n = csrTSEL then th.tsel
  else if n = csrTCAUSE then rec_ fun r => BitVec.ofNat 64 r.cause
  else if n = csrTPC then rec_ fun r => r.tpc
  else if n = csrTNPC then rec_ fun r => r.tnpc
  else if n = csrTVAL then rec_ fun r => r.tval
  else if n = csrTXIDX then rec_ fun _ => th.txidx
  else if csrTAMASK ≤ n ∧ n < csrTAMASK + 4 then rec_ fun r => BitVec.ofNat 64 (r.opens.toNat / 2 ^ (64 * (n - csrTAMASK)))
  else if n = csrPRESTAT then BitVec.ofNat 64 (k.preCode + flagBit k.preBusy 63)
  else if n = csrPREIMG then k.preimg
  else if n = csrCCTX then th.cctx
  else if n = csrCLTAB then th.cltab
  else if n = csrCHBASE then th.chbase
  else if n = csrCHLIMIT then th.chlimit
  else if n = csrCHOFF then th.choff
  else 0

/-- The thread that issues reads TQ into s[d]. -/
def readTq (d : BitVec 6) (s : State) : Out :=
  let x := s.takeTq (threadCluster s.cur)
  writeScalar d x.2 x.1

/-- The thread that issues reads the state that TXIDX selects into s[d] (R292). -/
def readTxdata (i : Instr) (d : BitVec 6) (s : State) : Out :=
  match s.txTarget s.cur with
  | none => .next (s.illegal i)
  | some (r, u, cls, idx) =>
    match s.txLock r u cls idx with
    | some k => .next (s.park (.retry (.lock (threadCore u) k)))
    | none => match s.txBad u cls idx with
      | some v => .next (s.trap causeDATA (BitVec.ofNat 64 (2 ^ 63 + v)))
      | none => writeScalar d (s.txGet u cls idx) s

/-- The thread that issues writes s[a] to the state that TXIDX selects (R292). -/
def writeTxdata (i : Instr) (a : BitVec 6) (s : State) : Out :=
  match s.txTarget s.cur with
  | none => .next (s.illegal i)
  | some (r, u, cls, idx) =>
    match s.txLock r u cls idx with
    | some k => .next (s.park (.retry (.lock (threadCore u) k)))
    | none => .next (s.retire.txSet u cls idx (s.sr a))

/-- CSRR: a user CSR in either mode; a supervisor CSR in supervisor mode (R290). -/
def execCsrr (d : BitVec 6) (n : BitVec 12) (s : State) : Out :=
  let k := n.toNat
  if k < 0x800 then writeScalar d (s.me.userCsr k) s
  else privileged (.csrr d n) s (
    if k = csrTQ then readTq d s
    else if k = csrTXDATA then readTxdata (.csrr d n) d s
    else writeScalar d (s.superCsr k) s)

/-- Writes a supervisor CSR other than TXDATA (R290, R293); the registers of the TSEL record ignore writes while there is none. -/
def State.setSuperCsr (s : State) (n : Nat) (v : Word) : State :=
  let th := s.me
  let cl := threadCluster s.cur
  let x := v.toNat
  if n = csrTSEL then s.setMe { th with tsel := v }
  else if n = csrTNPC then
    match s.tselRecord s.cur with
    | some r => { s with records := s.records.map fun y => if y.handle = r.handle then { y with tnpc := v } else y }
    | none => s
  else if n = csrTXIDX then
    (if (s.tselRecord s.cur).isSome then s.setMe { th with txidx := BitVec.ofNat 64 (bits x 23 0) } else s)
  else if n = csrPRECTL then s.writePrectl cl x
  else if n = csrPREIMG then s.setCluster cl { s.cluster cl with preimg := BitVec.ofNat 64 (field x 51 12) }
  else if n = csrCCTX then s.setMe { th with cctx := BitVec.ofNat 64 (bits x 24 0) }
  else if n = csrCLTAB then s.setMe { th with cltab := BitVec.ofNat 64 (field x 63 14) }
  else if n = csrCHBASE then s.setMe { th with chbase := v }
  else if n = csrCHLIMIT then s.setMe { th with chlimit := v }
  else if n = csrCHOFF then s.setMe { th with choff := v }
  else s

/-- A write of TRES by the thread that issues: the checks of R283, then the resolution, which is a release at device scope. -/
def writeTres (i : Instr) (v : Word) (s : State) : Out :=
  match s.tresCheck s.cur i v with
  | some x => .next (s.trapWith x)
  | none => .next (s.afterRelease true true fun s => s.retire.resolve (v &&& ~~~3#64) (v.toNat % 4))

/-- CSRW: a user CSR in either mode; a supervisor CSR in supervisor mode (R290). -/
def execCsrw (a : BitVec 6) (n : BitVec 12) (s : State) : Out :=
  let k := n.toNat
  if k = csrTRES then writeTres (.csrw a n) (s.sr a) s
  else if k < 0x800 then .next ((s.setMe (s.me.setUserCsr k (s.sr a))).retire)
  else privileged (.csrw a n) s (
    if k = csrTXDATA then writeTxdata (.csrw a n) a s
    else .next (s.retire.setSuperCsr k (s.sr a)))

/-- TQ: the thread that issues reads the trap queue, as CSRR d, TQ does (R290). -/
def execTq (d : BitVec 6) (s : State) : Out := privileged (.csrr d 0x800) s (readTq d s)

/-- TXDATA: the thread that issues reads or writes the selected state, as CSRR r, TXDATA and CSRW r, TXDATA do (R292). -/
def execTxdata (wr : Bool) (r : BitVec 6) (s : State) : Out :=
  if wr then privileged (.csrw r 0x807) s (writeTxdata (.csrw r 0x807) r s)
  else privileged (.csrr r 0x807) s (readTxdata (.csrr r 0x807) r s)

/-! ### Traps (R71, R287) -/

/-- The all-zero word raises ILLEGAL (R71). -/
def execIllegal (s : State) : Out := .next (s.illegal .illegal)

/-- ECALL: RESUME continues at PC + 4 (R277, R287). -/
def execEcall (s : State) : Out := .next (s.takeTrap s.cur causeECALL 0 (s.me.pc + 4))

/-- EBREAK: BREAK, or a stop of the core when its debug module is enabled. Inside a run it aborts with FAULT first: the core then stops with
the thread at its fallback target, or with the ordered task back to ready and its record of kind 4 (R263, R273, R287, R347). -/
def execEbreak (s : State) : Out :=
  let g := threadCore s.cur
  let slot := threadSlot s.cur
  let th := s.me
  if !isCcc s.cur && (s.core g).dbg.en then
    if th.run.active && th.run.ordered then
      .next (((s.abortOrdered th.slice th.dslot abortFAULT).addRecord
        { handle := mkHandle 4 (th.slice * 8) 0 th.dslot 0 0, cause := causeBREAK, region := th.region }).stopCore g 2 slot 0)
    else if th.run.active then .next ((s.abortExplicit s.cur abortFAULT causeBREAK).stopCore g 2 slot 0)
    else .next (s.retire.stopCore g 2 slot 0)
  else .next (s.trap causeBREAK 0)

/-- TRET: the return from a trap; a record of another module is denied, as a write of TRES is (R283, R287). -/
def execTret (s : State) : Out :=
  privileged .tret s (
    if s.tretDenied s.cur then .next (s.trap causeREMOTE s.me.tsel)
    else .next (s.afterRelease true true fun s => s.retire.returnFromTrap s.cur))

/-! ### Counters (R288) -/

def execRdtime (d : BitVec 6) (s : State) : Out := writeScalar d (BitVec.ofNat 64 s.ticks) s
def execRdcycle (d : BitVec 6) (s : State) : Out := writeScalar d (BitVec.ofNat 64 (s.cycleOf s.cur)) s
def execRdinsn (d : BitVec 6) (s : State) : Out := writeScalar d s.me.insn s

/-! ### TLBINV and WFI (R133, R289) -/

/-- Whether TLBINV with a mode, a context and an address drops an entry (R133). -/
def TlbEntry.matches (e : TlbEntry) (mode ctx va : Nat) : Bool :=
  if mode = 0 then decide (e.ctx = ctx ∧ e.va = va / e.size * e.size)
  else if mode = 1 then decide (e.ctx = ctx)
  else true

/-- Drops the matching entries of every TLB of a module (R133). -/
def State.dropTlb (s : State) (m mode ctx va : Nat) : State :=
  let keep (es : List TlbEntry) : List TlbEntry := es.filter fun e => !e.matches mode ctx va
  { s with
    cores := s.cores.map fun (e : Nat × Core) =>
      if clusterModule (coreCluster e.1) = m then (e.1, { e.2 with tlb := keep e.2.tlb }) else e
    clusters := s.clusters.map fun (e : Nat × Cluster) =>
      if clusterModule e.1 = m then (e.1, { e.2 with tlb := keep e.2.tlb }) else e }

/-- Whether everything in a module that translated before is complete, as far as TLBINV waits for it: accepted copies, near-bank operations
and elements of streams, accesses that wait for other modules, and those whose thread has left (R133). -/
def State.translationsDone (s : State) (m mode ctx : Nat) : Bool :=
  let hit (c : Nat) : Bool := decide (mode = 2 ∨ c = ctx)
  (s.clusters.all fun e => decide (clusterModule e.1 ≠ m)
    || (e.2.copies.all fun o => !(o.accepted && hit o.ctx)) && (e.2.nears.all fun o => !hit o.ctx)
      && e.2.streams.all fun x => !(decide (x.2.kind ≠ .gather ∧ x.2.pos < x.2.accepted) && !x.2.ended && hit x.2.ctx))
  && (s.net.all fun p => !(p.held && decide (p.kind ≤ 3 ∧ p.dest < 1024 ∧ p.from_ = m) && hit p.ctx))
  && (s.threads.all fun e => decide (threadModule e.1 ≠ m) || match e.2.wait with
    | .fabric _ _ _ _ _ => !hit (s.agent e.1).ctx
    | _ => true)

/-- TLBINV: after what the thread had observed is visible, the entries go, and the thread waits (R133). It waits as a release does: the error
of a posted access that its thread has not raised yet is raised there, and no entry goes, which is the model's choice (log 77). -/
def execTlbinv (a b : BitVec 6) (s : State) : Out :=
  privileged (.tlbinv a b) s (
    let x := (s.sr a).toNat
    let mode := bits x 17 16
    if x / 2 ^ 18 ≠ 0 ∨ mode = 3 then .next (s.illegal (.tlbinv a b))
    else .next (s.afterRelease true true fun s =>
      (s.dropTlb (threadModule s.cur) mode (bits x 15 0) (s.sr b).toNat).park (.tlbinv mode (bits x 15 0))))

/-- Ticks after which WFI ends by itself (R289). -/
def wfiTicks : Nat := 1048576

/-- WFI: parks until the trap queue holds a record, a pre-emption ends, or the ticks pass (R289). -/
def execWfi (s : State) : Out := privileged .wfi s (.next (s.park (.wfi (s.ticks + wfiTicks))))

/-- Whether the WFI of a thread is over (R289). -/
def State.wfiOver (s : State) (t : Nat) : Bool :=
  match (s.thr t).wait with
  | .wfi deadline => (s.records.any fun r => r.queued (threadCluster t)) || decide (deadline ≤ s.ticks)
  | _ => false

/-- WFI_WAKE (R289). -/
def execWfiWake (t : Nat) (s : State) : Out := .next (if (s.thr t).live && s.wfiOver t then s.complete t .none else s)

end Sys2Proof.Machine
end

