-- ==== Sys2Proof/Machine/Events.lean ====
section
/-! DEFINITION. The steps of the hardware task scheduler, the side log, the trap delivery and the waits: launches, dispatch, staging, steals,
ageing, GVT, replays, responses, records and evictions (02_execution_model R24 to R48; 08_memory_spaces R137, R138; 10_consistency
R168; 21_traps R280 to R284; 19_transactions R259, R274; 28_platform R364). -/

namespace Sys2Proof.Machine

/-! ### Launching a region (R27, R28, R30) -/

/-- The HTS writes a field of an RCB in memory; the bit positions lie in one byte or start at one (R24). -/
def State.setRcb (s : State) (m rcb hi lo v : Nat) : State :=
  let loc := locOf m rcb + lo / 8
  let n := hi / 8 - lo / 8 + 1
  s.setNum loc n (putBits (s.num loc n) (hi - lo / 8 * 8) (lo % 8) v)

/-- The bits of an RCB that must be zero at launch (R24). -/
def rcbReserved : List (Nat × Nat) :=
  [(2047, 1216), (1215, 1186), (1087, 1035), (1023, 966), (255, 216), (191, 178), (127, 114)]

/-- The ranges of bits of each inheritance group (R25). -/
def inhGroups : List (Nat × Nat × Nat) := [(0, 85, 64), (1, 101, 86), (2, 511, 448), (3, 703, 512), (4, 959, 704), (5, 447, 320)]

/-- The effective values of an RCB under its parent's (R25). -/
def inherit (raw parent : Nat) : Nat :=
  inhGroups.foldl (fun v g => if bit (bits raw 965 960) g.1 then putBits v g.2.1 g.2.2 (bits parent g.2.1 g.2.2) else v) raw

/-- Whether a field of an RCB other than TCOUNT is outside its stated range, or a reserved one or STATE is not zero; a field of an
inherited group is not looked at (R24, R25, R28, R129). -/
def rcbBad (raw : Nat) : Bool :=
  let own (g : Nat) : Bool := !bit (bits raw 965 960) g
  let f := bits raw
  (rcbReserved.any fun r => decide (f r.1 r.2 ≠ 0))
  || decide (f 1033 1032 ≠ 0 ∨ f 1093 1088 ≠ 0 ∨ f 7 0 ≠ 0)
  || decide (f 153 139 = 0 ∨ 16384 < f 153 139 ∨ f 138 128 = 0 ∨ 1024 < f 138 128 ∨ 32 < f 159 154)
  || decide (f 177 160 % 2048 ≠ 0 ∨ 131072 < f 177 160 ∨ 8388608 < f 215 192 ∨ f 319 256 % 2 ^ 21 ≠ 0)
  || own 2 && decide (f 461 448 ≠ 0)
  || own 3 && decide (f 527 512 ≠ 0 ∨ f 591 576 ≠ 0 ∨ f 655 640 ≠ 0)
  || own 5 && decide (f 325 320 ≠ 0)

/-- The running region whose RCB lies at an address. -/
def State.regionAt (s : State) (m rcb : Nat) : Option Nat :=
  ((s.module m).regions.find? fun e => decide (e.2.rcb = rcb)).map (·.1)

/-- Blocks of 64 KiB that an allocation of some bytes takes (R30). -/
def csmBlocks (bytes : Nat) : Nat := (bytes + 65535) / 65536

/-- CSM bytes of one cluster that a region and its descendants hold (R30). -/
def State.csmUse (s : State) (m r : Nat) : Nat :=
  (s.module m).regions.foldl (fun n e => if s.descends m 256 e.1 r then n + csmBlocks (e.2.f 215 192) * 65536 else n) 0

/-- The blocks that are allocated. -/
def State.csmTaken (s : State) (m : Nat) : List Nat :=
  (s.module m).regions.flatMap fun e => (List.range (csmBlocks (e.2.f 215 192))).map fun i => e.2.f 1185 1163 / 65536 + i

/-- The lowest free run of n blocks of the 128 (R30). -/
def csmRun (taken : List Nat) (n : Nat) : Option Nat :=
  (List.range 128).find? fun b => decide (b + n ≤ 128) && (List.range n).all fun i => !taken.contains (b + i)

/-- Whether R34 refuses a descriptor at launch, apart from its REGION and from its counter. -/
def launchRefuses (raw : Nat) (d : BitVec 512) : Bool :=
  decide (dEntry d / 2 ^ 57 ≠ 0 ∨ 32 < dAccn d ∨ bits raw 177 160 < dWin d * 32 ∨ bits raw 159 154 < dAccn d)

/-- Where the descriptors of a list are placed: first those with CNTV = 1, then the others in list order (R28). `room` holds the
free slots that reservations have taken so far, by cluster. -/
def State.placeOne (s : State) (used : SMap Nat) : List Nat → Option (Nat × SMap Nat)
  | [] => none
  | cl :: cls =>
    let n := SMap.getD used cl 0
    if (s.cluster cl).tasks.length + n < 1024 then some (cl, SMap.set used cl (n + 1)) else s.placeOne used cls

/-- Reserves slots for the descriptors of one kind (R28). -/
def State.placeKind (s : State) (m : Nat) (cntv : Bool) :
    List (Nat × BitVec 512) → SMap Nat → SMap Nat → Option (SMap Nat × SMap Nat)
  | [], used, place => some (used, place)
  | (i, d) :: ds, used, place =>
    if dCntv d ≠ cntv then s.placeKind m cntv ds used place
    else
      let cl := m * 128 + i % 128
      match s.placeOne used (if cntv then [cl] else moduleClusters cl) with
      | none => none
      | some (c, used) => s.placeKind m cntv ds used (SMap.set place i c)

/-- The cluster of each descriptor of a list, none where the slices lack room (R28 check 8). -/
def State.placement (s : State) (m : Nat) (ds : List (Nat × BitVec 512)) : Option (SMap Nat) :=
  match s.placeKind m true ds [] [] with
  | none => none
  | some (used, place) => (s.placeKind m false ds used place).map (·.2)

/-- Whether a descriptor of the list would be refused for its counter: bound already, or by an earlier one of the list (R34, R35). -/
def State.countersTaken (s : State) (m : Nat) : List (Nat × BitVec 512) → List Nat → Bool
  | [], _ => false
  | (i, d) :: ds, mine =>
    let cl := m * 128 + i % 128
    let k := s.counter cl (dCnt d)
    let key := cl * 4096 + dCnt d
    if !dCntv d then s.countersTaken m ds mine
    else if k.bound.isSome || mine.contains key then true
    else s.countersTaken m ds (if k.value = 0 then mine else key :: mine)

/-- What a launch checks and decides. -/
structure Launch where
  rcb : Nat := 0
  raw : Nat := 0
  parent : Option Nat := none
  num : Nat := 0
  descs : List (Nat × BitVec 512) := []
  place : SMap Nat := []
  block : Nat := 0
  deriving DecidableEq, Repr

/-- The checks of R28 in order: a code with the RCB as it was read, or what the launch does. No check looks at where TLIST points: the
descriptors are read from whatever locations the addresses give (DESIGN CHOICE, log 67). -/
def State.checkLaunch (s : State) (m v : Nat) : Except (Nat × Nat) Launch :=
  let rcb := field v 51 8
  if bits v 63 52 ≠ 0 ∨ bits v 7 0 ≠ 0 ∨ inHbm rcb = false then .error (1, 0)
  else
    let raw := s.num (locOf m rcb) 256
    let pa := bits raw 63 0
    let parent := if pa = 0 then none else s.regionAt m pa
    let inh := bits raw 965 960
    let eff := match parent with
      | some p => inherit raw (s.region m p).eff.toNat
      | none => raw
    let compared := !bit inh 0 || parent.isSome
    let fail (code : Nat) : Except (Nat × Nat) Launch := .error (code, raw)
    if rcbBad raw || (compared && decide (bits eff 66 64 < bits eff 69 67)) then fail 2
    else if pa ≠ 0 ∧ parent.isNone = true then fail 3
    else if pa = 0 ∧ inh ≠ 0 then fail 4
    else
      let budget := match parent with
        | none => false
        | some p =>
          let q := s.region m p
          ([(319, 256), (215, 192), (177, 160), (159, 154), (153, 139), (138, 128)].any fun x => decide (q.f x.1 x.2 < bits raw x.1 x.2))
          || ((s.ancestors m 256 p).any fun a =>
            decide (bits raw 215 192 ≠ 0 ∧ (s.region m a).f 215 192 < s.csmUse m a + csmBlocks (bits raw 215 192) * 65536))
      if budget then fail 5
      else
        let n := bits raw 1162 1152
        let used := (s.module m).regions
        let num := if bit raw 1034 then some (bits raw 1031 1024) else SMap.free used 256 0
        let descs := (List.range n).map fun i => (i, BitVec.ofNat 512 (s.num (locOf m (bits raw 1151 1088 + 64 * i)) 64))
        let other (d : BitVec 512) : Bool := match num with
          | some r => decide (dRegion d ≠ r)
          | none => false
        if n = 0 ∨ 1024 < n then fail 6
        else if (descs.any fun x => launchRefuses raw x.2 || other x.2) || s.countersTaken m descs [] then fail 6
        else match num with
          | none => fail 7
          | some num =>
            if SMap.has used num then fail 7
            else match s.placement m descs with
              | none => fail 8
              | some place =>
                match csmRun (s.csmTaken m) (csmBlocks (bits raw 215 192)) with
                | none => fail 9
                | some block =>
                  let block := if bits raw 215 192 = 0 then 0 else block
                  .ok { rcb := rcb, raw := putBits eff 1185 1163 (block * 65536), parent := parent, num := num,
                        descs := descs, place := place, block := block }

/-- The CSM allocation of a launch: words that another region held last are zeroed on every cluster (R30, R364). -/
def State.allocCsm (s : State) (m block n serial : Nat) : State :=
  let x := s.module m
  let old := (List.range n).filter fun i => SMap.has x.csmOwner (block + i)
  let s := old.foldl (fun s i => (List.range 128).foldl (fun (s : State) c =>
    let loc := locOf m (csmBase + c * 2 ^ 23 + (block + i) * 65536)
    { s with mem := Memory.zero s.mem loc 65536, badMem := s.badMem.filter (· / 65536 ≠ loc / 65536) }) s) s
  s.setModule m { x with csmOwner := (List.range n).foldl (fun o i => SMap.set o (block + i) serial) x.csmOwner }

/-- A launch that passed its checks, steps 1 to 4 of R28. -/
def State.performLaunch (s : State) (m : Nat) (l : Launch) : State :=
  let n := csmBlocks (bits l.raw 215 192)
  let x := s.module m
  let r : Region := { rcb := l.rcb, eff := BitVec.ofNat 2048 l.raw, parent := l.parent, serial := s.fresh }
  let s := s.setModule m { x with regions := SMap.set x.regions l.num r, rgnNum := l.num, rgnCode := 0 }
  let s := s.setRcb m l.rcb 1031 1024 l.num
  let s := s.allocCsm m l.block n s.fresh
  let s := (s.setRcb m l.rcb 1185 1163 (l.block * 65536)).setRcb m l.rcb 1033 1032 1
  let s := l.descs.foldl (fun s e =>
    let cl := SMap.getD l.place e.1 0
    s.enterAt cl ((s.freeSlot cl).getD 0) e.2 none 0) s
  (s.setModule m { s.module m with launch := none }).tick1

/-- The HTS reads some lines of memory and writes some, coherently: true where it must wait, for a line in X or for a run (R167, R170, R261). -/
def State.hubMeets (s : State) (m : Nat) (reads writes : List Nat) : State × Bool :=
  if (reads ++ writes).any fun l => s.xlines.contains l then (s, true)
  else match s.resolveAll (hubAgent m) [(reqRead, tilesOfLines reads), (reqWrite, tilesOfLines writes)] with
    | (s, some _) => (s, true)
    | (s, none) => (s, false)

/-- The line of an RCB that holds RNUM, STATE and CSMBASE (R24). -/
def stateLine (m rcb : Nat) : Nat := lineOf (locOf m rcb + 128)

/-- The lines that a launch reads: its RCB's, and those of the descriptors that TLIST names (R24, R28). -/
def State.launchReads (s : State) (m rcb : Nat) : List Nat :=
  let raw := s.num (locOf m rcb) 256
  let n := bits raw 1162 1152
  [lineOf (locOf m rcb), stateLine m rcb]
  ++ if n = 0 ∨ 1024 < n then [] else ((List.range n).map fun i => lineOf (locOf m (bits raw 1151 1088 + 64 * i))).foldl insertNew []

/-- The launch of RGNSTART's value is checked and performed, or fails with its code (R28). -/
def State.launchNow (s : State) (m v : Nat) : State :=
  match s.checkLaunch m v with
  | .ok l => s.performLaunch m l
  | .error (code, raw) =>
    let s := if 2 ≤ code ∧ bits raw 1033 1032 = 0 then s.setRcb m (field v 51 8) 1033 1032 3 else s
    s.setModule m { s.module m with launch := none, rgnCode := code }

/-- REGION_LAUNCH: the launch that RGNSTART asked for, once the lines that it reads and writes can be had (R28, R167, R261). -/
def State.regionLaunch (s : State) (m : Nat) : State :=
  match (s.module m).launch with
  | none => s
  | some v =>
    let rcb := field v.toNat 51 8
    match (if inHbm rcb then s.hubMeets m (s.launchReads m rcb) [stateLine m rcb] else (s, false)) with
    | (s, true) => s
    | (s, false) => s.launchNow m v.toNat

/-- RGNSTART: a write of the register through the control range (R27, R28, R359). -/
def execRgnstart (m : Nat) (v : BitVec 64) (s : State) : Out := .next (if (s.module m).ready then s.writeRgnstart m v else s)

def execRegionLaunch (m : Nat) (s : State) : Out := .next (s.regionLaunch m)

/-! ### Finishing a region (R29) -/

/-- The resources of a region are free: its number, CSM, barriers, subscriptions, streams and turn bits; its Moraine pages count from
now on against its nearest running ancestor (R29, R44, R282, R330). -/
def State.freeRegion (s : State) (m r : Nat) : State :=
  let x := s.module m
  let gone := x.subs.filter fun y => decide (y.region = r)
  let s := s.setModule m { x with
    regions := (SMap.erase x.regions r).map fun (e : Nat × Region) =>
      (e.1, if e.2.parent = some r then { e.2 with parent := (s.region m r).parent } else e.2)
    barriers := x.barriers.filter fun b => b.2.owner ≠ r
    subs := x.subs.filter fun y => y.region ≠ r }
  let s := gone.foldl (fun (s : State) y => s.leaveTag y.cluster y.tag) s
  let heir := ((SMap.getD x.regions r {}).parent).getD noRegion
  let own (p : MorPage) : MorPage := if p.owner = (m, r) then { p with owner := (m, heir) } else p
  { s with
    clusters := s.clusters.map fun (e : Nat × Cluster) =>
      if clusterModule e.1 = m then
        (e.1, { e.2 with
          turn := SMap.erase e.2.turn r, dispatched := e.2.dispatched.filter fun d => d.1 / 8 ≠ r,
          streams := e.2.streams.filter fun x => !(x.2.ended && decide (x.2.region = r)) })
      else e
    switches := s.switches.map fun (e : Nat × Switch) =>
      (e.1, { e.2 with pages := e.2.pages.map fun p => (p.1, own p.2), lost := e.2.lost.map fun p => (p.1, own p.2) }) }

/-- Whether the work of a region has ended: its tasks, the engine operations and streams that they issued, their side-log entries, and
their posted accesses (R29). -/
def State.quiet (s : State) (m r : Nat) : Bool :=
  (s.clusters.all fun e => decide (clusterModule e.1 ≠ m)
    || !(e.2.tasks.any fun t => decide (dRegion t.2.desc = r)) && !(e.2.copies.any fun o => decide (o.region = r))
      && !(e.2.commits.any fun k => decide (k.owner.region = r)) && !(e.2.starts.any fun x => decide (x.stream.region = r))
      && !(e.2.nears.any fun o => decide (o.region = r)) && !(e.2.streams.any fun o => decide (o.2.region = r) && !o.2.ended))
  && (s.cores.all fun e => decide (clusterModule (coreCluster e.1) ≠ m) || !(e.2.sideLog.any fun l => decide (l.region = r)))
  && !((s.net ++ s.egress).any fun p => decide (p.region = r ∧ (p.from_ = m ∨ p.dest = m)) && (p.posted || p.held))

/-- Whether a region is one that fails, or descends from one (R282). -/
def State.isFailing (s : State) (m r : Nat) : Bool := (s.module m).failing.any fun q => s.descends m 256 r q

/-- Whether a region has nothing left to do (R29). -/
def State.finished (s : State) (m r : Nat) : Bool :=
  let x := s.module m
  SMap.has x.regions r && !s.isFailing m r
  && !(x.regions.any fun e => decide (e.2.parent = some r))
  && s.quiet m r
  && !(s.records.any fun q => decide (q.region = r ∧ handleId q.handle / 1024 = m))
  && !(s.images.any fun e => decide (clusterModule e.2.cluster = m ∧ e.2.region = r))

/-- REGION_FINISH: STATE becomes 2, the MSI-X message is sent, and the resources are free (R29), once the RCB's line can be had (R167,
R261). -/
def State.regionFinish (s : State) (m r : Nat) : State :=
  if s.finished m r then
    match s.hubMeets m [] [stateLine m (s.region m r).rcb] with
    | (s, true) => s
    | (s, false) =>
    let x := s.region m r
    let s := s.setRcb m x.rcb 1033 1032 2
    let s := if x.f 102 102 = 1 then s.setModule m { s.module m with msix := (s.module m).msix ++ [x.f 113 103] } else s
    s.freeRegion m r
  else s

def execRegionFinish (m r : Nat) (s : State) : Out := .next (s.regionFinish m r)

/-! ### Dispatch (R37 to R39, R44, R364) -/

/-- Thread slots in use by a region, those of saved residencies too (R26, R298). -/
def State.slotsUsed (s : State) (m r : Nat) : Nat :=
  (s.liveThreads.filter fun e => decide (e.2.region = r ∧ threadModule e.1 = m) && !isCcc e.1).length
  + s.images.foldl (fun n e => if clusterModule e.2.cluster = m ∧ e.2.region = r then n + e.2.threads.length else n) 0

/-- Whether a region may take one more thread slot (R26, R44). -/
def State.slotRoom (s : State) (m r : Nat) : Bool := s.roomIn m r 153 139 (s.slotsUsed m)

/-- Whether a core takes new threads: it is neither stopped nor being saved or restored (R294, R298, R348). -/
def State.coreOpen (s : State) (g : Nat) : Bool :=
  let k := s.cluster (coreCluster g)
  !(s.core g).dbg.stopped && decide (k.saving.map (·.1) ≠ some g ∧ k.restoring.map (·.1) ≠ some g)

/-- Whether a core is resident in a region, or can become so (R37, R44). -/
def State.coreServes (s : State) (g r : Nat) : Bool :=
  s.coreOpen g && (match (s.core g).resident with
    | some q => decide (q = r)
    | none => s.coreRoom (clusterModule (coreCluster g)) r)

/-- Blocks of 64 registers in use on a core (R38). -/
def State.blocksUsed (s : State) (g : Nat) : List Nat :=
  (s.threadsOf g).flatMap fun e => (List.range (e.2.winRegs / 64)).map fun i => e.2.winStart / 64 + i

/-- Tiles in use on a core. -/
def State.tilesUsed (s : State) (g : Nat) : List Nat := (s.threadsOf g).flatMap fun e => e.2.tiles

/-- Where a task of a region fits on a core: thread slot, window start and tiles. The slot and the tiles are the lowest-numbered free ones,
where R38 leaves the choice open (DESIGN CHOICE, log 81). -/
def State.coreFit (s : State) (g r regs accn : Nat) : Option (Nat × Nat × List Nat) :=
  let blocks := s.blocksUsed g
  let tiles := s.tilesUsed g
  let n := regs / 64
  let free := (List.range 32).filter fun k => !tiles.contains k
  if !s.coreServes g r || !s.budgetRoom g r regs accn then none
  else
    match (List.range 16).find? fun i => !(s.thr (slotThread g i)).live,
      (List.range 64).find? fun b => decide (b + n ≤ 64) && (List.range n).all fun i => !blocks.contains (b + i) with
    | some slot, some b => if accn ≤ free.length then some (slot, 64 * b, free.take accn) else none
    | _, _ => none

/-- The generators at dispatch (R192). -/
def freshGens : SMap W32 := (List.range 32).map fun j => (j, BitVec.ofNat 32 (0x9E3779B9 * (j + 1)))

/-- The registers and tiles that a task takes are zeroed where they belonged to another owner last, and belong to it now (R39, R364). -/
def State.claim (s : State) (g : Nat) (owner : Nat × Nat) (start regs : Nat) (tiles : List Nat) : State :=
  let c := s.core g
  let foreign := ((List.range (regs / 64)).map fun i => start / 64 + i).filter fun b => decide (SMap.get? c.regOwner b ≠ some owner)
  let ftiles := tiles.filter fun k => decide (SMap.get? c.tileOwner k ≠ some owner)
  let zeroed := foreign.flatMap fun b => (List.range 64).map fun i => 64 * b + i
  let s := s.setCore g { c with
    store := c.store.filter fun e => !foreign.contains (e.1 / 64)
    accs := c.accs.filter fun e => !ftiles.contains e.1
    dirty := zeroed.foldl insertNew c.dirty
    regOwner := foreign.foldl (fun m b => SMap.set m b owner) c.regOwner
    tileOwner := ftiles.foldl (fun m k => SMap.set m k owner) c.tileOwner }
  { s with
    badRegs := s.badRegs.filter fun e => !(decide (e.1 / 4096 = g) && foreign.contains (e.1 % 4096 / 64))
    badAccs := s.badAccs.filter fun e => !(decide (e.1 / 32 = g) && ftiles.contains (e.1 % 32)) }

/-- A thread as its task finds it at dispatch (R33, R39). -/
def dispatchedThread (x : Region) (k : Task) (cl slot start : Nat) (tiles : List Nat) (s5 : Nat) : Thread :=
  let d := k.desc
  let args : SMap Word := [(1, BitVec.ofNat 64 (dArg d 1)), (2, BitVec.ofNat 64 (dArg d 2)), (3, BitVec.ofNat 64 (dArg d 3)),
    (4, BitVec.ofNat 64 (dArg d 4)), (5, BitVec.ofNat 64 s5)]
  let th : Thread := {
    live := true, pc := BitVec.ofNat 64 (dEntry d), sreg := args, gens := freshGens
    staging := (List.range 4).any fun i => bit (dTile d i) 0
    winStart := start, winRegs := dWin d, tiles := tiles, region := dRegion d, ctx := x.f 101 86, slice := cl, dslot := slot
    ordered := dOrd d, ts := dTs d, tie := k.tie }
  let own := BitVec.ofNat 64 (dFmt d + dAscl d * 16 * 2 ^ 16 + dBscl d * 16 * 2 ^ 28)
  let th := th.fmtWrite start 0 (if dFmtv d then own else BitVec.ofNat 64 (x.f 767 704))
  let th := th.fmtWrite start 1 (BitVec.ofNat 64 (x.f 831 768))
  let th := th.fmtWrite start 2 (BitVec.ofNat 64 (x.f 895 832))
  th.fmtWrite start 3 (BitVec.ofNat 64 (x.f 959 896))

/-- A task of a slice is dispatched to a place on a core (R36 to R39, R44). -/
def State.placeTask (s : State) (cl slot g : Nat) (p : Nat × Nat × List Nat) : State :=
  let k := s.task cl slot
  let m := clusterModule cl
  let r := dRegion k.desc
  let x := s.region m r
  let ctx := x.f 101 86
  let t := slotThread g p.1
  let q := s.counter k.home (dCnt k.desc)
  let s5 := if dCntv k.desc then q.status + (if q.under then 64 else 0) else 0
  let s := if dCntv k.desc then s.setCounter k.home (dCnt k.desc) { q with status := 0, under := false } else s
  let s := if (s.core g).resident.isNone then s.takeResidency g r ctx else s
  let s := s.claim g (x.serial, ctx) p.2.1 (dWin k.desc) p.2.2
  let s := s.setThr t (dispatchedThread x k cl slot p.2.1 p.2.2 s5)
  let level := s.priority m k
  let c := s.cluster cl
  let key := r * 8 + level
  let s := s.setCluster cl { c with dispatched := SMap.set c.dispatched key (SMap.getD c.dispatched key 0 + 1) }
  (s.setTask cl slot { k with state := .dispatched, thread := t, staged := 0, stagingFault := false, captured := none }).resetCounts cl

/-- The cores of a cluster in the order in which a task of a region takes them: resident ones first (R44). -/
def State.coreOrder (s : State) (cl r : Nat) : List Nat :=
  let cores := (List.range 8).map fun i => cl * 8 + i
  (cores.filter fun g => decide ((s.core g).resident = some r)) ++ cores.filter fun g => decide ((s.core g).resident = none)

/-- The first core of a list on which a task fits, with its place. -/
def State.firstFit (s : State) (r regs accn : Nat) : List Nat → Option (Nat × Nat × Nat × List Nat)
  | [] => none
  | g :: gs => match s.coreFit g r regs accn with
    | some p => some (g, p)
    | none => s.firstFit r regs accn gs

/-- Ready tasks of a slice that may be dispatched: R273 does not hold them back. -/
def Cluster.readyTasks (c : Cluster) : List (Nat × Task) := c.tasks.filter fun e => decide (e.2.state = .ready) && !e.2.heldBack

/-- (TS, tiebreak) of an ordered task (R47). -/
def Task.order (x : Task) : Nat × Nat := (dTs x.desc, x.tie)

def orderLt (a b : Nat × Nat) : Bool := decide (a.1 < b.1 ∨ (a.1 = b.1 ∧ a.2 < b.2))

/-- The first of a list under a strict order. -/
def firstBy {α : Type} (lt : α → α → Bool) : List α → Option α
  | [] => none
  | x :: xs => some (xs.foldl (fun b y => if lt y b then y else b) x)

/-- The next task among some ready tasks by the rules of R44, and whether both kinds were ready. Both kinds are ready where both are among
the tasks that this choice is made from, at the chosen level of the chosen region: the held task, tasks of another level and tasks that
SLOTS passes over do not count (DESIGN CHOICE, log 31). -/
def State.choose (s : State) (cl : Nat) (pool : List (Nat × Task)) : Option (Nat × Task × Bool) :=
  let m := clusterModule cl
  let c := s.cluster cl
  match firstBy (fun (a b : Nat) => decide (a < b)) (pool.map fun e => s.priority m e.2) with
  | none => none
  | some level =>
    let atLevel := pool.filter fun e => decide (s.priority m e.2 = level)
    let count (r : Nat) : Nat := SMap.getD c.dispatched (r * 8 + level) 0
    let slots (r : Nat) : Nat := (s.region m r).f 153 139
    let less (a b : Nat) : Bool := decide (count a * slots b < count b * slots a ∨ (count a * slots b = count b * slots a ∧ a < b))
    match firstBy less (atLevel.map fun e => dRegion e.2.desc) with
    | none => none
    | some r =>
      let mine := atLevel.filter fun e => decide (dRegion e.2.desc = r)
      let o := firstBy (fun (a b : Nat × Task) => orderLt a.2.order b.2.order) (mine.filter fun e => dOrd e.2.desc)
      let u := firstBy (fun (a b : Nat × Task) => decide (a.2.readySeq < b.2.readySeq)) (mine.filter fun e => !dOrd e.2.desc)
      match o, u with
      | some a, some b => if SMap.getD c.turn r true then some (a.1, a.2, true) else some (b.1, b.2, true)
      | some a, none => some (a.1, a.2, false)
      | none, some b => some (b.1, b.2, false)
      | none, none => none

/-- The ordered tasks that a cluster holds against the limit of R47. -/
def Cluster.orderedHeld (c : Cluster) : List (Nat × Task) :=
  c.tasks.filter fun e => dOrd e.2.desc && decide (e.2.state = .dispatched ∨ e.2.state = .finishedSpeculative)

/-- The turn bit of a region flips (R44). -/
def State.flipTurn (s : State) (cl r : Nat) : State :=
  let c := s.cluster cl
  s.setCluster cl { c with turn := SMap.set c.turn r (!SMap.getD c.turn r true) }

/-- Whether an ordered task may join those that its cluster holds against the limit of R47. It does not take the last place while a smaller
ordered task is ready in the cluster: it would lose that place again at once (R47, R51; DESIGN CHOICE, log 32). -/
def Cluster.orderedRoom (c : Cluster) (x : Task) : Bool :=
  !dOrd x.desc || decide (c.orderedHeld.length < 255)
  || (decide (c.orderedHeld.length < 256) && !(c.readyTasks.any fun e => dOrd e.2.desc && orderLt e.2.order x.order))

/-- The ordered task that a cluster at the limit of R47 returns to ready: the largest one, where a ready one is smaller. -/
def Cluster.roomVictim (c : Cluster) : Option Nat :=
  if c.orderedHeld.length < 256 then none
  else match firstBy (fun (a b : Nat × Task) => orderLt b.2.order a.2.order) c.orderedHeld with
    | none => none
    | some big => if c.readyTasks.any fun e => dOrd e.2.desc && orderLt e.2.order big.2.order then some big.1 else none

/-- Dispatches, or marks as held, one task among some ready ones; none when none of them can go on. The choice of a kind flips the turn
bit, whether the task is placed or held (R44). -/
def State.dispatchFrom (s : State) (cl : Nat) : Nat → List (Nat × Task) → Option State
  | 0, _ => none
  | fuel + 1, pool =>
    let c := s.cluster cl
    match s.choose cl pool with
    | none => none
    | some (slot, x, both) =>
      let r := dRegion x.desc
      let rest := pool.filter fun e => e.1 ≠ slot
      let taken (s : State) : State := if both then s.flipTurn cl r else s
      if !c.orderedRoom x then s.dispatchFrom cl fuel rest
      else
        let cores := (s.coreOrder cl r).filter fun g => decide (c.reserved ≠ some g)
        match s.firstFit r (dWin x.desc) (dAccn x.desc) cores with
        | some (g, p) => some (taken (s.placeTask cl slot g p))
        | none =>
          if c.held.isNone then some (taken (s.setCluster cl { c with held := some slot, reserved := none }))
          else s.dispatchFrom cl fuel rest

/-- The core that is reserved for a slice's held task: the one it has while that one qualifies, else the first that does (R44). -/
def State.reserveFor (s : State) (cl r : Nat) : Option Nat :=
  let ok := ((List.range 8).map fun i => cl * 8 + i).filter fun g => s.coreServes g r
  match (s.cluster cl).reserved.filter fun g => ok.contains g with
  | some g => some g
  | none => match ok.find? fun g => decide ((s.core g).resident = some r) with
    | some g => some g
    | none => ok.head?

/-- Ready tasks other than the held one whose regions have thread slots left (R44). -/
def State.dispatchPool (s : State) (cl : Nat) : List (Nat × Task) :=
  let c := s.cluster cl
  c.readyTasks.filter fun e => decide (c.held ≠ some e.1) && s.slotRoom (clusterModule cl) (dRegion e.2.desc)

/-- One choice of a slice; none when there is nothing to do (R44). A cluster at the limit of R47 makes room first. -/
def State.dispatchOnce (s : State) (cl : Nat) : Option State :=
  let c := s.cluster cl
  let pool := s.dispatchPool cl
  let others (s : State) : Option State := s.dispatchFrom cl (pool.length + 1) pool
  let room := c.roomVictim.filter fun n => !s.abortPending (.thread (s.task cl n).thread) || decide ((s.task cl n).state ≠ .dispatched)
  match room, c.held with
  | some n, _ => some (s.abortOrdered cl n abortCAPACITY)
  | none, none => others s
  | none, some h =>
    let x := s.task cl h
    if x.state ≠ .ready ∨ x.heldBack = true then some (s.setCluster cl { c with held := none, reserved := none })
    else
      let r := dRegion x.desc
      let res := s.reserveFor cl r
      let fit := match res with
        | some g =>
          if s.slotRoom (clusterModule cl) r && c.orderedRoom x then
            (s.coreFit g r (dWin x.desc) (dAccn x.desc)).map fun p => (g, p)
          else none
        | none => none
      match fit with
      | some (g, p) => some ((s.setCluster cl { c with held := none, reserved := none }).placeTask cl h g p)
      | none => if res ≠ c.reserved then some (s.setCluster cl { c with reserved := res }) else others s

/-- TASK_DISPATCH (R44). -/
def execTaskDispatch (cl : Nat) (s : State) : Out := .next ((s.dispatchOnce cl).getD s)

/-! ### Staging (R32, R40, R127) -/

/-- Where the bytes of a tile's register image come from: the number of a byte of the packed image, or none past a row's elements. -/
def rowByte (e b : Nat) : Option Nat :=
  let row := (tileDims e).headD 1 * shapeElem e
  let rb := (row + 127) / 128 * 128
  if b % rb < row then some (b / rb * row + b % rb) else none

/-- Bytes of a tile's register image (R127). -/
def registerImage (e : Nat) : Nat :=
  let row := (tileDims e).headD 1 * shapeElem e
  ((tileDims e).drop 1).foldl (· * ·) 1 * ((row + 127) / 128 * 128)

/-- The first of an engine's addresses that raises a cause, for a record's trap value. -/
def State.failedAt (s : State) (a : Agent) (e : Nat) (vas : List Nat) (cause : Nat) : Nat :=
  if cause = causePAGE then
    match (s.translateAll a (laySpace e) (layModule e) permR false (pagesOf vas)).2 with
    | .error p => firstIn p vas
    | .ok _ => vas.headD 0
  else
    match (s.translateAll a (laySpace e) (layModule e) permR false (pagesOf vas)).2 with
    | .ok xs => (vas.find? fun v => s.badMem.contains (xlatLoc xs v)).getD (vas.headD 0)
    | .error _ => vas.headD 0

/-- Whether a record that a cluster's copy engine made waits for a place in the trap queue: the engine takes nothing new (R280). -/
def State.engineHeld (s : State) (cl : Nat) : Bool :=
  s.records.any fun r => decide (r.place = .fresh ∧ (handleKind r.handle = 3 ∨ handleKind r.handle = 5) ∧ r.cluster = cl) && toKerlis r.cause

/-- Staging stops at a fault, with a record of kind 3 (R40, R278). -/
def State.stagingFault (s : State) (t cause tval : Nat) : State :=
  let th := s.thr t
  let x := s.task th.slice th.dslot
  (s.setTask th.slice th.dslot { x with stagingFault := true }).addRecord
    { handle := mkHandle 3 (th.slice * 8) 0 th.dslot 0 0, cause := cause, tval := BitVec.ofNat 64 tval, region := th.region }

/-- Staging of a thread's tiles begins, or begins again: the layout entries of the tiles still to be staged are captured, each as a plain
coherent load reads it; none while one of them waits. A read that squashes the task itself ends there, and an uncorrectable byte is a fault of
the staging (R40, R48, R124, R285). -/
def State.captureTiles (s : State) (t : Nat) : Option State :=
  let th := s.thr t
  let x := s.task th.slice th.dslot
  let a : Agent := { s.agent t with unit := 3 }
  let lays := (List.range 4).filter fun i => x.staged ≤ i && bit (dTile x.desc i) 0
  let r := s.meetEntries a (lays.map fun i => bits (dTile x.desc i) 8 1)
  if !(r.1.thr t).live then some r.1
  else match r.2 with
  | .wait _ => changed s r.1
  | .bad loc => some (r.1.stagingFault t causeDATA (locPa loc))
  | .ok =>
    let s := r.1
    let x := s.task th.slice th.dslot
    some (s.setTask th.slice th.dslot { x with
      captured := some ((List.range 4).map fun i => if lays.contains i then s.tableEntry t (bits (dTile x.desc i) 8 1) else 0) })

/-- The copy engine of a thread's cluster stages input tile i of its task; none while it waits (R32, R40). -/
def State.stageTile (s : State) (t i : Nat) : Option State :=
  let th := s.thr t
  let x := s.task th.slice th.dslot
  let f := dTile x.desc i
  let done (s : State) : State := s.setTask th.slice th.dslot { s.task th.slice th.dslot with staged := i + 1 }
  if !bit f 0 then some (done s)
  else
    let l := bits f 8 1
    let e := (x.captured.getD []).getD i 0
    let at_ := dArg x.desc (bits f 10 9 + 1)
    let first := 16 * bits f 16 11
    let n := registerImage e
    if !layValid e || !layGrants e 1 || !linearFits e at_ (imageBytes e) then some (s.stagingFault t causeLAYOUT l)
    else if winSize t th < first + n / 128 then some (s.stagingFault t causeLAYOUT (2 ^ 63 + first))
    else
      let a : Agent := { s.agent t with unit := 3 }
      let src (b : Nat) : Option Nat := (rowByte e b).bind fun k => imageVa e e at_ k
      let vas := (List.range n).filterMap src
      match s.engineRead a e [] vas with
      | (_, .wait k ts) => changed s (s.waitsFor a k ts)
      | (s, .error c) => some (if !(s.thr t).live then s else s.stagingFault t c (s.failedAt a e vas c))
      | (s, .done bs) =>
        let fill := (List.range n).foldl (fun (acc : List Byte × List Byte) b =>
          match src b, acc.1 with
          | some _, y :: ys => (ys, y :: acc.2)
          | _, ys => (ys, padByte e (b % (((tileDims e).headD 1 * shapeElem e + 127) / 128 * 128) % shapeElem e) :: acc.2)) (bs, [])
        let image := leNat fill.2.reverse
        some (if !(s.thr t).live then s else done ((List.range (n / 128)).foldl (fun s k =>
          s.setVecAt t (first + k) (BitVec.allOnes 32) (BitVec.ofNat 1024 (image / 2 ^ (1024 * k)))) s))

/-- One step of a thread's staging; after the last tile the thread may issue. None while there is nothing to do (R40). -/
def State.stageOnce (s : State) (t : Nat) : Option State :=
  let th := s.thr t
  let x := s.task th.slice th.dslot
  if !th.live || !th.staging || x.stagingFault || s.engineHeld (threadCluster t) then none
  else if 4 ≤ x.staged then some (s.setThr t { th with staging := false })
  else if x.captured.isNone then s.captureTiles t
  else s.stageTile t x.staged

/-- TILE_STAGING (R40). -/
def execTileStaging (t : Nat) (s : State) : Out := .next ((s.stageOnce t).getD s)

/-! ### Stealing of tasks, ageing, and global virtual time (R45 to R48, R259) -/

/-- Whether a task could be placed on some core of a cluster (R37, R38, R46). -/
def State.placeable (s : State) (cl : Nat) (x : Task) : Bool :=
  s.slotRoom (clusterModule cl) (dRegion x.desc)
  && (s.firstFit (dRegion x.desc) (dWin x.desc) (dAccn x.desc)
      ((s.coreOrder cl (dRegion x.desc)).filter fun g => decide ((s.cluster cl).reserved ≠ some g))).isSome

/-- The slices that a stealing slice asks, in order (R46). -/
def stealOrder (cl : Nat) : List Nat :=
  (dieClusters cl).drop 1 ++ ((List.range 128).map fun i => cl / 128 * 128 + i).filter fun c => c / 16 ≠ cl / 16

/-- The oldest ready unordered task of the best effective priority of a slice that a thief could place (R46). -/
def State.stealable (s : State) (thief cl : Nat) : Option (Nat × Task) :=
  let m := clusterModule cl
  let ok := (s.cluster cl).readyTasks.filter fun e => !dOrd e.2.desc && s.placeable thief e.2
  firstBy (fun (a b : Nat × Task) =>
    decide (s.priority m a.2 < s.priority m b.2 ∨ (s.priority m a.2 = s.priority m b.2 ∧ a.2.readySeq < b.2.readySeq))) ok

/-- The first slice of a list that gives a task. -/
def State.findSteal (s : State) (thief : Nat) : List Nat → Option (Nat × Nat × Task)
  | [] => none
  | cl :: cls => match s.stealable thief cl with
    | some e => some (cl, e)
    | none => s.findSteal thief cls

/-- One steal by a slice with a free slot and no ready task that fits; none where there is nothing to steal (R46). The thief needs a free
descriptor slot of its own for the task, which R46 does not say (DESIGN CHOICE, log 31). -/
def State.stealOnce (s : State) (cl : Nat) : Option State :=
  let c := s.cluster cl
  if c.readyTasks.any fun e => s.placeable cl e.2 then none
  else match s.freeSlot cl, s.findSteal cl (stealOrder cl) with
    | some n, some (v, slot, x) =>
      let s := s.freeTask v slot
      let c := s.cluster cl
      let r := dRegion x.desc
      let s := s.setCluster cl { c with
        tasks := SMap.set c.tasks n x, turn := if SMap.has c.turn r then c.turn else SMap.set c.turn r true }
      some ((s.resetCounts v).resetCounts cl)
    | _, _ => none

/-- TASK_STEAL (R46). -/
def execTaskSteal (cl : Nat) (s : State) : Out := .next ((s.stealOnce cl).getD s)

/-- Whether another ageing interval of a ready task is complete and changes its priority (R45). -/
def State.agesNow (s : State) (cl dslot : Nat) : Bool :=
  let x := s.task cl dslot
  let r := s.region (clusterModule cl) (dRegion x.desc)
  let age := 256 * r.f 85 70
  decide (x.state = .ready) && !x.heldBack && SMap.has (s.cluster cl).tasks dslot
  && decide (age ≠ 0 ∧ r.f 69 67 + x.aged < r.f 66 64 ∧ x.aged < (s.ticks - x.readyTick) / age)

/-- AGEING_INTERVAL: a complete interval raises the effective priority by one level, up to CEIL (R45). -/
def State.ageTask (s : State) (cl dslot : Nat) : State :=
  if s.agesNow cl dslot then
    let x := s.task cl dslot
    (s.setTask cl dslot { x with aged := x.aged + 1 }).resetCounts cl
  else s

def execAgeingInterval (cl dslot : Nat) (s : State) : Out := .next (s.ageTask cl dslot)

/-- The ordered tasks of a module: cluster, slot and task. -/
def State.orderedTasks (s : State) (m : Nat) : List (Nat × Nat × Task) :=
  (s.clusters.filter fun e => decide (clusterModule e.1 = m)).flatMap fun e =>
    e.2.tasks.filterMap fun x => if dOrd x.2.desc then some (e.1, x.1, x.2) else none

/-- GVT of a region: the least (TS, tiebreak) of its ordered tasks that have not finished, none where there are none (R48). -/
def State.gvtOf (s : State) (m r : Nat) : Option (Nat × Nat) :=
  firstBy orderLt ((s.orderedTasks m).filterMap fun e =>
    if dRegion e.2.2.desc = r ∧ e.2.2.state ≠ .finishedSpeculative then some e.2.2.order else none)

/-- OLDEST of a package (R259). -/
def State.oldestOf (s : State) (m : Nat) : Option Age :=
  let runs := (s.holders m).map fun h => h.2.1
  let tasks := (s.orderedTasks m).map fun e => e.2.2.age
  let waiting := s.threads.filterMap fun e =>
    if e.2.live && decide (threadModule e.1 = m ∧ e.2.confl ≠ 0) && !e.2.run.active then
      some ((1, e.2.age, e.1 / 16, e.1 % 16) : Age) else none
  firstBy Age.older (runs ++ tasks ++ waiting)

/-- The first finished task of a module below its region's GVT, in ascending order (R48). -/
def State.nextCommit (s : State) (m : Nat) : Option (Nat × Nat × Task) :=
  firstBy (fun (a b : Nat × Nat × Task) => orderLt a.2.2.order b.2.2.order)
    ((s.orderedTasks m).filter fun e => decide (e.2.2.state = .finishedSpeculative)
      && match SMap.getD (s.module m).gvt (dRegion e.2.2.desc) none with
        | none => true
        | some g => orderLt e.2.2.order g)

/-- A finished task commits, and its descriptor slot is free; its held requests are sent from the cluster's list of commits (R48, R265,
R274). -/
def State.commitTask (s : State) (cl slot : Nat) (x : Task) : State :=
  let w : Owner := { thread := x.thread, cluster := cl, region := dRegion x.desc, here := false }
  let s := (s.commitRun w x.run).freeTask cl slot
  if x.run.sends then s.commitLater w x.run else s

/-- Commits finished tasks below GVT, at most `fuel` of them. -/
def State.commitBelow (m : Nat) : Nat → State → State
  | 0, s => s
  | fuel + 1, s => match s.nextCommit m with
    | none => s
    | some (cl, slot, x) => State.commitBelow m fuel (s.commitTask cl slot x)

/-- GVT_RECOMPUTE: GVT of each region and OLDEST, then the commits (R48, R259). -/
def State.gvtRecompute (s : State) (m : Nat) : State :=
  let x := s.module m
  let gvt := x.regions.map fun e => (e.1, s.gvtOf m e.1)
  let s := s.setModule m { x with gvt := gvt, oldest := s.oldestOf m, gvtTick := s.ticks / 256 * 256 }
  State.commitBelow m (s.orderedTasks m).length s

def execGvtRecompute (m : Nat) (s : State) : Out := .next (s.gvtRecompute m)

/-! ### Replies and results that are due (R42, R93, R133, R155, R196) -/

/-- ACCESS_RESPONSE: a parked thread's reply arrives with its DELAY, the destination is written, and the thread wakes (R42, R358). A
TLBINV ends when what translated before is complete (R133), and a DQSTEAL once it has reached the deques (R50). -/
def State.accessResponse (s : State) (t : Nat) (delay : BitVec 16) : State :=
  let th := s.thr t
  if !th.live then s
  else match th.wait with
    | .response bank wb =>
      let s := if bank < noBank ∧ isCcc t = false then s.addDelay t bank delay else s
      s.complete t wb
    | .steal d issued => if issued < s.cycleOf t then s.performSteal t d else s
    | .tlbinv mode ctx => if s.translationsDone (threadModule t) mode ctx then s.complete t .none else s
    | _ => s

def execAccessResponse (t : Nat) (delay : BitVec 16) (s : State) : Out := .next (s.accessResponse t delay)

/-- A result of a unit that is due is written, and its thread wakes (R93, R196). -/
def State.resultDue (s : State) (t : Nat) (u : DivUnit) : State :=
  let th := s.thr t
  match th.wait with
  | .result v due wb => if th.live && decide (v = u ∧ due ≤ s.cycleOf t) then s.complete t wb else s
  | _ => s

def execDivideComplete (t : Nat) (s : State) : Out := .next (s.resultDue t .int)
def execFpDivideComplete (t : Nat) (s : State) : Out := .next (s.resultDue t .fp)
def execVectorDivideComplete (t : Nat) (s : State) : Out := .next (s.resultDue t .vector)

/-- WAITW_TIMEOUT: a WAITW that is over ends (R155). -/
def State.waitwOver (s : State) (t : Nat) : Option State :=
  let th := s.thr t
  match th.wait with
  | .waitw d deadline => if th.live then (s.waitwResult t deadline).map fun v => s.endWaitw t d v else none
  | _ => none

def execWaitwTimeout (t : Nat) (s : State) : Out := .next ((s.waitwOver t).getD s)

/-! ### The side log (R136 to R138, R284, R312) -/

/-- The agent of a side-log entry: its thread, outside any run, or the access processor (R138, R312). -/
def State.logAgent (s : State) (e : LogEntry) : Agent :=
  { thread := e.thread, unit := if e.stream.isSome then 2 else 0, cluster := threadCluster e.thread, ctx := e.ctx,
    heap := (s.region (threadModule e.thread) e.region).space.heap, replay := e.stream.isNone }

/-- The head entry leaves the log: a release store's thread wakes, and a scatter element that is complete counts (R146, R312). -/
def State.retireLog (s : State) (g : Nat) (e : LogEntry) : State :=
  let c := s.core g
  let s := s.setCore g { c with sideLog := c.sideLog.drop 1 }
  let s := if e.rel && decide ((s.thr e.thread).wait = .logged) then s.complete e.thread .none else s
  match e.stream with
  | none => s
  | some (cl, n) =>
    let k := s.cluster cl
    match SMap.get? k.streams n with
    | none => s
    | some x =>
      let more := (s.core g).sideLog.any fun y => decide (y.stream = some (cl, n) ∧ y.elem = e.elem)
      let done := if more || x.skipped.contains e.elem then x.done else x.done + 1
      s.setCluster cl { k with streams := SMap.set k.streams n { x with logged := x.logged - 1, done := done } }

/-- The head entry faults again: a new record of kind 2 (R138, R284). -/
def State.refault (s : State) (g : Nat) (e : LogEntry) (cause va : Nat) : State :=
  let c := s.core g
  (s.setCore g { c with sideLog := { e with recorded := true } :: c.sideLog.drop 1 }).addRecord
    { handle := mkHandle 2 g 0 0 0 0, cause := cause, tval := BitVec.ofNat 64 va, region := e.region }

/-- The bytes that an entry writes, from the bytes before: its own, or each element of its reduction (R138, R150). -/
def LogEntry.put (e : LogEntry) (old : List Byte) : List Byte :=
  match e.red with
  | none => e.cells.map (·.2)
  | some (op, w) => leBytes old.length (redValue op w (leNat old) (leNat (e.cells.map (·.2))))

/-- The thread whose own watches a replay does not fire: the thread of a store; an AP stream is another agent (R138, R155). -/
def LogEntry.writer (e : LogEntry) : Option Nat := if e.stream.isSome then none else some e.thread

/-- The access of a side-log entry is made as the original one would have been, through its translated pages. A store to a peer without an
active lane is checked at its target (R135, R138, R148). -/
def State.replayAccess (s : State) (a : Agent) (e : LogEntry) (xs : SMap Xlat) : State × Reply :=
  let lay := e.entry.toNat
  let d := farOf lay xs (e.vas.headD 0)
  if laySpace lay ≠ 3 then s.updateAt a e.writer lay xs [] (e.cells.map (·.1)) e.put
  else match e.red with
    | some (op, w) => s.serveRed a d.1 d.2 op w (leNat (e.cells.map (·.2)))
    | none => if e.cells = [] then s.serveWrite a d.1 d.2 [] else s.farCells a (farWrites lay xs e.cells)

/-- The trap value of an entry that faults again: the physical address of a request that a peer refused, else the virtual address that failed
(R276, R284). -/
def State.replayFault (s : State) (a : Agent) (e : LogEntry) (xs : SMap Xlat) (c : Nat) : Nat :=
  let lay := e.entry.toNat
  let vas := e.cells.map (·.1)
  let va :=
    if laySpace lay ≠ 3 then s.badFor a lay xs false vas
    else ((farRuns xs false e.cells).find? fun r => decide ((s.farCells a [((farOf lay xs r.1).1, (farOf lay xs r.1).2, r.2)]).2 = .error c)).map (·.1)
  let va := va.getD (e.vas.headD 0)
  if c = causeREMOTE then (farOf lay xs va).2 else va

/-- The head entry of a core's side log is tried, and takes effect as its access would have; none while it has a record or its access
waits (R138, R167). An entry that faults again, at its walk or at its target, stays with a new record (R284). -/
def State.replayOnce (s : State) (g : Nat) : Option State :=
  match (s.core g).sideLog with
  | [] => none
  | e :: _ =>
    if e.recorded then none
    else
      let a := s.logAgent e
      let lay := e.entry.toNat
      let dirty := decide (e.cells ≠ [])
      let pages := pagesOf e.vas
      if s.tableWaits a (laySpace lay) (layModule lay) permW dirty pages ≠ [] then none
      else match s.resolveAll a (s.walkRequests a (laySpace lay) (layModule lay) permW dirty pages) with
      | (_, some (k, ts, _)) => changed s (s.waitsFor a k ts)
      | (s1, none) =>
        match s1.translateAll a (laySpace lay) (layModule lay) permW dirty pages with
        | (s2, .error p) => some (s2.refault g e causePAGE (firstIn p e.vas))
        | (s2, .ok xs) =>
          match s2.replayAccess a e xs with
          | (_, .wait k ts) => changed s (s.waitsFor a k ts)
          | (s3, .error c) => some (s3.refault g e c (s2.replayFault a e xs c))
          | (s3, .done _) => some (s3.retireLog g e)

/-- SIDE_LOG_REPLAY (R138). -/
def execSideLogReplay (g : Nat) (s : State) : Out := .next ((s.replayOnce g).getD s)

/-! ### Delivery of records (R280 to R282) -/

/-- TRAP_QUEUE_ENTRY: a fresh record for Kerlis enters the trap queue of its cluster, which has 64 places for engine-reported
records (R280). -/
def State.trapQueueEntry (s : State) (h : BitVec 64) : Option State :=
  match s.findRecord h with
  | none => none
  | some r =>
    let full := decide (handleKind h ≠ 1 ∧ 64 ≤ (s.records.filter fun q => q.queued r.cluster && decide (handleKind q.handle ≠ 1)).length)
    if r.place = .fresh ∧ toKerlis r.cause = true ∧ full = false then
      some { s with records := s.records.map fun q => if q.handle = h then { q with place := .queue false } else q }
    else none

def execTrapQueueEntry (h : BitVec 64) (s : State) : Out := .next ((s.trapQueueEntry h).getD s)

/-- Where the walk of R281 for a record begins, if the record is on the chain. -/
def Record.walkFrom (r : Record) : Option (Option Nat) :=
  match r.place with
  | .fresh => if toKerlis r.cause then none else some (if r.region = noRegion then none else some r.region)
  | .chain q => some q
  | _ => none

/-- The arguments of a handler task (R281). -/
def handlerDescriptor (d : BitVec 512) (r : Record) (q : Nat) : BitVec 512 :=
  let kind := handleKind r.handle
  let region := if kind = 5 then q else r.region
  let v := putBits d.toNat 191 128 (r.cause + region % 256 * 2 ^ 8 + q % 256 * 2 ^ 16 + kind * 2 ^ 24)
  let v := putBits v 255 192 (if kind = 1 then r.tpc.toNat else 0)
  let v := putBits v 319 256 r.tval.toNat
  BitVec.ofNat 512 (putBits v 383 320 r.handle.toNat)

/-- The walk of R281: the handling region and its task's descriptor, or none where it passes a root. -/
def State.walkChain (s : State) (r : Record) : Nat → Option Nat → Option (Nat × BitVec 512)
  | 0, _ => none
  | _, none => none
  | fuel + 1, some q =>
    let m := clusterModule r.cluster
    let x := s.region m q
    let d := BitVec.ofNat 512 (s.num (locOf m (x.f 383 320)) 64)
    if x.f 383 320 ≠ 0 ∧ bit (x.f 447 384) r.cause = true ∧ s.descriptorOk r.cluster d (fun n => decide (n = q)) = true then some (q, d)
    else s.walkChain r fuel x.parent

/-- The tasks of a root and its descendants that are not aborted yet: cluster and slot. An abort that waits for an MMA is on its way
(R228, R282). -/
def State.failingTasks (s : State) (m root : Nat) : List (Nat × Nat) :=
  let regs := s.family m root
  (s.clusters.filter fun e => decide (clusterModule e.1 = m)).flatMap fun e =>
    e.2.tasks.filterMap fun x =>
      if regs.contains (dRegion x.2.desc)
          && !(decide (x.2.state = .dispatched) && (s.thr x.2.thread).wait.inArray && decide ((s.thr x.2.thread).doomed = some .squash)) then
        some (e.1, x.1) else none

/-- Step 1 of R282: the tasks of a root and its descendants are aborted, images of their residencies discarded, and their streams
cancelled; the root fails once all else has drained. -/
def State.failTasks (s : State) (m root : Nat) : State :=
  let regs := s.family m root
  let s := (s.images.filter fun e => decide (clusterModule e.2.cluster = m) && regs.contains e.2.region).foldl (fun (s : State) e => s.dropImage e.1) s
  let s := (s.failingTasks m root).foldl (fun (s : State) e => if SMap.has (s.cluster e.1).tasks e.2 then s.squashTask e.1 e.2 else s) s
  let lost (r : Record) : Bool := decide (handleId r.handle / 1024 = m) && regs.contains r.region
  { s with
    records := s.records.map fun r => match r.place with
      | .handler _ => if lost r then { r with place := .chain none } else r
      | _ => r
    clusters := s.clusters.map fun (e : Nat × Cluster) =>
      if clusterModule e.1 = m then
        (e.1, { e.2 with streams := e.2.streams.map fun x =>
          (x.1, if regs.contains x.2.region && !x.2.ended then { x.2 with cancel := true, orphan := true } else x.2) })
      else e }

/-- Steps 2 to 5 of R282: STATE 3, the root's MSI-X vector, the records of the failed regions, and their resources. -/
def State.endFail (s : State) (m root : Nat) : State :=
  let regs := s.family m root
  let notify := (s.region m root).f 102 102
  let vector := (s.region m root).f 113 103
  let s := regs.foldl (fun (s : State) r => s.setRcb m (s.region m r).rcb 1033 1032 3) s
  let s := if notify = 1 then s.setModule m { s.module m with msix := (s.module m).msix ++ [vector] } else s
  let s := s.dropRecords fun r => decide (handleId r.handle / 1024 = m) && regs.contains r.region
  let s := regs.foldl (fun (s : State) r => s.freeRegion m r) s
  s.setModule m { s.module m with failing := (s.module m).failing.filter (· ≠ root) }

/-- A root that fails goes on: what its tree has started since is aborted, and once everything has drained as R294 states it has failed.
None while it waits (R282). -/
def State.failStep (s : State) (m root : Nat) : Option State :=
  let regs := s.family m root
  let open_ := s.clusters.any fun e => decide (clusterModule e.1 = m)
    && e.2.streams.any fun x => regs.contains x.2.region && !x.2.ended && !x.2.cancel
  let held := s.images.any fun e => decide (clusterModule e.2.cluster = m) && regs.contains e.2.region
  if s.failingTasks m root ≠ [] ∨ open_ = true ∨ held = true then some (s.failTasks m root)
  else if regs.all fun r => s.quiet m r then
    match s.hubMeets m [] (regs.map fun r => stateLine m (s.region m r).rcb) with
    | (s', true) => changed s s'
    | (s', false) => some (s'.endFail m root)
  else none

/-- A root begins to fail (R282). -/
def State.failRoot (s : State) (m root : Nat) : State :=
  let s := s.setModule m { s.module m with failing := insertNew (s.module m).failing root }
  (s.failStep m root).getD s

/-- HANDLER_ENTRY: the oldest record on the chain of its cluster finds its handler, waits for a descriptor slot, or fails its root; it is
retired when the root has failed. A side-log record of a region that fails already takes its entry with it, so that the drain ends, which
is the model's choice (R281, R282; log 51). -/
def State.handlerEntry (s : State) (h : BitVec 64) : Option State :=
  match s.findRecord h with
  | none => none
  | some r =>
    match r.walkFrom with
    | none => none
    | some from_ =>
      let m := clusterModule r.cluster
      let place (p : Place) (s : State) : State :=
        { s with records := s.records.map fun q => if q.handle = h then { q with place := p } else q }
      let first := (s.records.find? fun q => q.walkFrom.isSome && decide (q.cluster = r.cluster ∧ q.region ≠ noRegion)
        && !s.isFailing m q.region).map (·.handle)
      if r.region = noRegion then (if r.place = .chain none then none else some (place (.chain none) s))
      else if s.isFailing m r.region then (if handleKind h = 2 then some (s.resolve h actDISCARD) else none)
      else if first ≠ some h then none
      else match s.walkChain r 256 from_ with
        | none => some (s.failRoot m ((s.ancestors m 256 r.region).getLastD r.region))
        | some (q, d) =>
          match s.freeSlot r.cluster with
          | none => none
          | some n => some (place (.handler q) (s.enterAt r.cluster n (handlerDescriptor d r q) none 0))

def execHandlerEntry (h : BitVec 64) (s : State) : Out := .next ((s.handlerEntry h).getD s)

/-- TRES_RESUME, TRES_SKIP, TRES_DISCARD, TRES_FORWARD: a pending record is resolved (R283). -/
def execTresResume (h : BitVec 64) (s : State) : Out := .next (s.resolve h actRESUME)
def execTresSkip (h : BitVec 64) (s : State) : Out := .next (s.resolve h actSKIP)
def execTresDiscard (h : BitVec 64) (s : State) : Out := .next (s.resolve h actDISCARD)
def execTresForward (h : BitVec 64) (s : State) : Out := .next (s.resolve h actFORWARD)

/-! ### Evictions (R168, R256, R257) -/

/-- The agent of a die's L2 (R140). -/
def cacheAgent (d : Nat) : Agent := { thread := cccBase + d * 64, unit := 9, cluster := d * 16 }

/-- Whether an eviction of a line waits: its dirty bytes are a coherent write to the home, which an engine or a run may hold (R167,
R168, R261). -/
def State.evictWaits (s : State) (d line : Nat) : Bool :=
  (s.mergeLine (cacheAgent d) none d 0 line (line * 128) (line * 128 + 128)).2.isSome

/-- An eviction that waits for a run asks at the directory (R261). -/
def State.evictAsks (s : State) (d line : Nat) : State :=
  if s.evictWaits d line && !s.xlines.contains line then (s.resolveConflicts (cacheAgent d) reqWrite [tileOf (line * 128)]).1 else s

/-- EVICTION of a line by a die: a directed copy merges its dirty bytes into memory, under the key of the page that it was reached
through, and is removed; a line that a run wrote goes to its home in state W (R140, R168, R257). -/
def State.evict (s : State) (d line : Nat) : State :=
  let s := match SMap.get? (s.die d).directed line with
    | none => s
    | some l => match s.mergeLine (cacheAgent d) none d l.key line (line * 128) (line * 128 + 128) with
      | (_, some _) => s
      | (s, none) => s.setDie d { s.die d with directed := SMap.erase (s.die d).directed line }
  let lines := [line, ((d + 1) * 2 ^ 64 + line * 128) / 128]
  { s with threads := s.threads.map fun (e : Nat × Thread) =>
      let hit := lines.filter fun k => e.2.run.buf.any fun b => decide (b.1 / 128 = k)
      if e.2.run.active && decide (threadDie e.1 = d) then
        (e.1, { e.2 with run := { e.2.run with wlines := hit.foldl insertNew e.2.run.wlines } })
      else e }

def execEviction (d line : Nat) (s : State) : Out := .next (s.evict d line)

end Sys2Proof.Machine
end

