-- ==== Sys2Proof/Machine/Platform.lean ====
section
/-! DEFINITION. Debug and trace events, and the platform: boot, attestation, keys, power, temperature, ageing, soft errors, the host and
the pod (27_debug R345 to R358; 28_platform R359 to R368; 01_organisation R17; 25_fabric R322, R327; 10_consistency R172). -/

namespace Sys2Proof.Machine

/-! ### Debug and trace (R345 to R358) -/

/-- Whether the registers of a core's debug block take writes: its module has booted (R359). -/
def State.blockReady (s : State) (g : Nat) : Bool := (s.module (clusterModule (coreCluster g))).ready

/-- DEBUG_HALT: a write of DCTL.HALT (R345, R347, R359). -/
def execDebugHalt (g : Nat) (s : State) : Out := .next (if s.blockReady g then s.requestStop g 1 0 0 else s)
/-- DEBUG_STEP: a write of DCTL.STEP with a slot, which SSLOT then holds (R345, R359). -/
def execDebugStep (g slot : Nat) (s : State) : Out :=
  let c := s.core g
  .next (if s.blockReady g then State.stepCore (s.setCore g { c with dbg := { c.dbg with sslot := slot % 16 } }) g (slot % 16) else s)
/-- DEBUG_RESUME: a write of DCTL.RESUME (R345, R359). -/
def execDebugResume (g : Nat) (s : State) : Out := .next (if s.blockReady g then s.resumeCore g else s)
/-- CORE_STOP: a stop that was asked for takes effect (R347). -/
def execCoreStop (g : Nat) (s : State) : Out := .next ((s.takeStop g).getD s)

/-- Whether breakpoint n of a core matches a thread at its PC, with its action 0 STOP, 1 TRACE, 2 TRAP (R350). -/
def State.breakAt (s : State) (t n : Nat) : Option Nat :=
  let b := (s.core (threadCore t)).dbg
  let c := (SMap.getD b.ibpc n 0).toNat
  let th := s.thr t
  if b.en && bit c 0 && bit c (4 + threadSlot t)
      && decide (field th.pc.toNat 56 2 = (SMap.getD b.ibpa n 0).toNat ∧ bits c 3 2 ≠ 3 ∧ th.passBreak ≠ some th.pc)
  then some (bits c 3 2) else none

/-- The lowest-numbered breakpoint that matches a thread that is about to issue: its number and action. An instruction that has issued
and is performed later issues no second time (R350). -/
def State.breakMatch (s : State) (t : Nat) : Option (Nat × Nat) :=
  if isCcc t || (s.thr t).parked then none
  else (List.range 4).findSome? fun n => (s.breakAt t n).map fun a => (n, a)

/-- The effect of a match: a stop, a record, or BREAK. A thread that goes on at this PC after a stop or a trap issues there once without a
match (R350). -/
def State.doBreak (s : State) (t n action : Nat) : State :=
  let g := threadCore t
  let s := if action = 1 then s else s.setThr t { s.thr t with passBreak := some (s.thr t).pc }
  if action = 0 then s.stopCore g 3 (threadSlot t) n
  else if action = 1 then s.formRecord g traceBREAK (threadSlot t) n (s.thr t).pc.toNat
  else s.takeTrap t causeBREAK 0 (s.thr t).pc

/-- BREAKPOINT_MATCH (R350). -/
def execBreakpointMatch (t : Nat) (s : State) : Out :=
  .next (match s.breakMatch t with
    | some (n, a) => if (s.thr t).live then s.doBreak t n a else s
    | none => s)

/-- DDATA: an access to the state that DSEL selects, by the host; a value read is returned to it (R349, R359). -/
def execDdata (g : Nat) (wr : Bool) (v : BitVec 64) (s : State) : Out :=
  let m := clusterModule (coreCluster g)
  .next (if !s.blockReady g then s
    else if wr then s.ddataWrite g v
    else let r := s.ddataRead g; r.1.setModule m { r.1.module m with hostRead := some r.2 })

/-- TRACE_FLUSH: a write of TCTL.FLUSH (R354, R359). -/
def execTraceFlush (g : Nat) (s : State) : Out := .next (if s.blockReady g then s.flushTrace g else s)

/-- Cycles between samples of a core, none when sampling is off (R354). -/
def Debug.period (b : Debug) : Option Nat :=
  let p := bits b.tsamp.toNat 31 0
  if p = 0 then none else some (max 64 p)

/-- Whether a core's sample is due (R355). -/
def State.sampleDue (s : State) (g : Nat) : Bool :=
  let b := (s.core g).dbg
  match b.period with
  | none => false
  | some p => decide (b.sampled + p ≤ s.dieCycle (clusterDie (coreCluster g)))

/-- A SAMPLE of the thread that issued in this cycle, with the task that it then ran (R355). -/
def State.takeSample (s : State) (g : Nat) : State :=
  if s.sampleDue g then
    let c := s.core g
    let now := s.dieCycle (clusterDie (coreCluster g))
    let s := s.setCore g { c with dbg := { c.dbg with sampled := now } }
    match c.dbg.issued with
    | some (slot, cyc, pc, task) =>
      if cyc = now then s.formRecord g traceSAMPLE slot task pc.toNat
      else s.formRecord g traceSAMPLE 0 (2 ^ 63) 0
    | none => s.formRecord g traceSAMPLE 0 (2 ^ 63) 0
  else s

/-- TRACE_SAMPLE (R355). -/
def execTraceSample (g : Nat) (s : State) : Out := .next (s.takeSample g)

/-- DLYCLR: a write of the register (R358, R359). -/
def execDlyclr (g : Nat) (v : BitVec 64) (s : State) : Out := .next (if s.blockReady g then s.debugWrite g 0x3F8 v.toNat else s)

/-! ### Boot and attestation (R361, R362) -/

/-- The failures of R361 that the boot medium, a signature, the stacks or a die bring about: ERR and the step. ERR 3 at step 4 follows from
the version of the image. -/
def bootFailures : List (Nat × Nat) := [(1, 2), (2, 3), (2, 4), (4, 5), (5, 6)]

/-- The thread with which Kerlis starts on a CCC (R14, R361; log 2). -/
def kerlisThread (cl : Nat) : Thread :=
  let csr (n : Nat) : Word := Config.kerlisCsr cl n
  { live := true, super := true, pc := Config.kerlisEntry cl,
    cctx := BitVec.ofNat 64 (bits (csr 0).toNat 24 0), cltab := BitVec.ofNat 64 (field (csr 1).toNat 63 14),
    chbase := csr 2, chlimit := csr 3, choff := csr 4 }

/-- Step 6 of R361: every die is at vf0, and Kerlis is loaded on each CCC. -/
def State.bringUp (s : State) (m : Nat) : State :=
  let s := (List.range 8).foldl (fun (s : State) i =>
    let d := m * 8 + i
    s.setDie d { s.die d with cycles := s.dieCycle d, since := s.time, vf := 0, halted := false }) s
  (List.range 128).foldl (fun (s : State) i => s.setThr (cccBase + (m * 128 + i) * 4) (kerlisThread (m * 128 + i))) s

/-- Ticks of a power interval (R365), and of an hour (R367). -/
def powerTicks : Nat := 10000
def hourTicks : Nat := 3600000000000

/-- BOOT: the boot sequence of a module that has been reset begins, with an image of a version, and with the failure that it will meet, if
any (R361). -/
def State.boot (s : State) (m err step version : Nat) : State :=
  let x := s.module m
  if x.stage = 0 ∧ x.ready = false ∧ (err = 0 ∨ bootFailures.contains (err, step) = true) then
    s.setModule m { x with stage := 1, booting := some (err, step, version) }
  else s

/-- The fused minimum after an image of a version has booted: it rises to that version when an image of a version above it has booted twice
in succession (R361). -/
def Module.booted (x : Module) (version : Nat) : Module :=
  let n := if version ≤ x.fused then 0 else if version = x.version then x.higherBoots + 1 else 1
  { x with version := version, fused := if n = 2 then version else x.fused, higherBoots := if n = 2 then 0 else n }

/-- The step of a boot that STAGE names ends: with the failure that it meets, which stops the boot, or with the next step; the last one sets
READY, and the intervals of R365 and R367 begin (R361). -/
def State.bootStep (s : State) (m : Nat) : State :=
  let x := s.module m
  match x.booting with
  | none => s
  | some (err, step, version) =>
    if x.stage = 4 ∧ version < x.fused then s.setModule m { x with err := 3, booting := none }
    else if err ≠ 0 ∧ step = x.stage then s.setModule m { x with err := err, booting := none }
    else if x.stage < 7 then
      let s := if x.stage = 6 then s.bringUp m else s
      s.setModule m { s.module m with stage := x.stage + 1 }
    else s.setModule m { x.booted version with
      booting := none, ready := true, powerTick := s.ticks / powerTicks, ageTick := s.ticks }

def execBoot (m : Nat) (failure : Nat × Nat) (version : Nat) (s : State) : Out := .next (s.boot m failure.1 failure.2 version)

/-- Indices of an identity key (R362). -/
def signatures : Nat := 2 ^ 20

/-- The n bytes of a number, highest first. -/
def beBytes (n v : Nat) : List Byte := (leBytes n v).reverse

/-- The measurement report for a nonce (R362). The two versions are numbers of 4 bytes, the minimum first (PRESUMED, log 26). -/
def State.reportBytes (s : State) (m nonce : Nat) : List Byte :=
  leBytes 32 nonce ++ leBytes 64 (Config.digest m 0).toNat ++ leBytes 64 (Config.digest m 1).toNat ++ leBytes 64 (Config.digest m 2).toNat
  ++ leBytes 4 (s.module m).fused ++ leBytes 4 (s.module m).version ++ leBytes 8 (signatures - (s.module m).signIndex) ++ leBytes 272 0

/-- n bytes of a list, filled with zeros. -/
def takeBytes (bs : List Byte) (n : Nat) : List Byte := (List.range n).map fun i => bs.getD i 0

/-- MEASUREMENT_REPORT: the report and its signature, or an error when no index remains; nothing is signed then (R362). -/
def State.measurementReport (s : State) (m nonce : Nat) : State :=
  let x := s.module m
  if !x.ready then s
  else if signatures ≤ x.signIndex then s.setModule m { x with service := x.service ++ [[]] }
  else
    let r := s.reportBytes m nonce
    let sig := beBytes 4 x.signIndex ++ takeBytes (Config.signature m x.signIndex (leNat r)) 2816
    s.setModule m { x with service := x.service ++ [r ++ sig], signIndex := x.signIndex + 1 }

def execMeasurementReport (m nonce : Nat) (s : State) : Out := .next (s.measurementReport m nonce)

/-- The OID of XMSS-SHAKE256_20_256 in NIST SP 800-208, highest byte first (R362; PRESUMED, log 26). -/
def xmssOid : List Byte := beBytes 4 0x12

/-- IDENTITY_KEY: the 68 bytes of the public key: the OID, then the root and the seed (R362). -/
def execIdentityKey (m : Nat) (s : State) : Out :=
  let x := s.module m
  .next (if x.ready then s.setModule m { x with service := x.service ++ [xmssOid ++ takeBytes (Config.publicKey m) 64] } else s)

/-! ### Memory keys (R363) -/

/-- KEY_LOAD: the management cluster loads a key slot; lines written under another key read as other bytes (R363). -/
def execKeyLoad (m slot key : Nat) (s : State) : Out :=
  let x := s.module m
  .next (if slot = 0 ∨ 64 ≤ slot then s else s.setModule m { x with keys := SMap.set x.keys slot key })

/-! ### Power, temperature and ageing (R365 to R368) -/

/-- A die moves to a VF state: its cores with ARM set TON, THROTTLE records are formed, its clock halts for the transition, and the voltage
that was computed last for the state takes effect (R356, R365, R367). -/
def State.moveVf (s : State) (d vf reason : Nat) : State :=
  let old := (s.die d).vf
  let s := s.cores.foldl (fun (s : State) e =>
    if e.1 < 2 ^ 20 ∧ clusterDie (coreCluster e.1) = d then
      let c := s.core e.1
      let arm := bit c.dbg.tctl.toNat 3
      let s := if arm then s.setCore e.1 { c with dbg := { c.dbg with tctl := c.dbg.tctl ||| 1 } } else s
      s.formRecord e.1 traceTHROTTLE 0 (old + vf * 16 + reason * 256) 0
    else s) s
  let x := s.die d
  let v := match x.volts[vf]? with
    | some v => some v
    | none => x.voltage
  s.setDie d { x with cycles := s.dieCycle d, since := s.time, halted := true, vf := vf, voltage := v }

/-- A die moves down one VF state, but not below vf0. -/
def State.lowerVf (s : State) (d reason : Nat) : State :=
  if (s.die d).vf = 0 then s else s.moveVf d ((s.die d).vf - 1) reason

/-- The die of a module at the lowest VF state, the lower number in a tie (R365). -/
def State.lowestDie (s : State) (m : Nat) : Nat :=
  ((firstBy (fun (a b : Nat × Nat) => decide (a.2 < b.2)) ((List.range 8).map fun i => (m * 8 + i, (s.die (m * 8 + i)).vf))).map (·.1)).getD (m * 8)

/-- POWER_LIMIT_CHECK: PWR is compared with PLIM at the end of an interval; `die` drew the most in it (R365). -/
def State.powerCheck (s : State) (m watts die : Nat) : State :=
  let x := s.module m
  if !x.ready ∨ s.ticks / powerTicks ≤ x.powerTick then s
  else
    let low := if watts + 200 < x.plim then x.low + 1 else 0
    let s := s.setModule m { x with pwr := watts % 65536, powerTick := s.ticks / powerTicks, low := if low = 10 then 0 else low }
    if x.plim + 200 < watts then (List.range 8).foldl (fun (s : State) i => s.lowerVf (m * 8 + i) 1) s
    else if x.plim < watts then s.lowerVf (m * 8 + die % 8) 1
    else if low = 10 then
      let d := s.lowestDie m
      let vf := (s.die d).vf
      if vf < 15 ∧ vf < bits x.vfcap.toNat (4 * (d % 8) + 3) (4 * (d % 8)) then s.moveVf d (vf + 1) 1 else s
    else s

def execPowerLimitCheck (m watts die : Nat) (s : State) : Out := .next (s.powerCheck m watts die)

/-- VF_TRANSITION_END: the die's clock runs again (R365). -/
def execVfTransitionEnd (m die : Nat) (s : State) : Out :=
  let d := m * 8 + die % 8
  let x := s.die d
  .next (if x.halted then s.setDie d { x with halted := false, since := s.time } else s)

/-- The die that a temperature sensor concerns, and its limit in 1/16 of a degree; none for the hub's (R10, R360, R366). -/
def sensorDie (m n : Nat) : Option (Nat × Nat) :=
  if n < 128 then some (m * 8 + n / 16, 105 * 16)
  else if 132 ≤ n ∧ n < 164 then some (m * 8 + (n - 132) / 4, 95 * 16)
  else none

/-- Whether a sensor of a die is hot: it has reached its limit, and not fallen 5 degrees below it since (R366). -/
def State.dieHot (s : State) (d : Nat) : Bool :=
  (s.module (d / 8)).hot.any fun n => decide ((sensorDie (d / 8) n).map (·.1) = some d)

/-- A die with a hot sensor moves down one VF state per 10,000 ticks (R366). -/
def State.heatStep (s : State) (d : Nat) : Option State :=
  let x := s.die d
  let due := match x.heatTick with
    | none => true
    | some t => decide (t + powerTicks ≤ s.ticks)
  if s.dieHot d && due then some (State.lowerVf (s.setDie d { x with heatTick := some s.ticks }) d 2) else none

/-- THERMAL_THROTTLE: a sensor is read, in 1/16 of a degree. From its limit on, until it has fallen 5 degrees below, its die moves down one VF
state per 10,000 ticks (R360, R366). -/
def execThermalThrottle (m : Nat) (reading : Nat × BitVec 16) (s : State) : Out :=
  let sensor := reading.1
  let temp := reading.2
  if 164 ≤ sensor then .next s
  else
    let x := s.module m
    let x := { x with temp := SMap.set x.temp sensor temp }
    .next (match sensorDie m sensor with
      | none => s.setModule m x
      | some (d, limit) =>
        let t := temp.toInt
        let hot := if (limit : Int) ≤ t then insertNew x.hot sensor
          else if t ≤ limit - 80 then x.hot.filter (· ≠ sensor) else x.hot
        let s := s.setModule m { x with hot := hot }
        if (limit : Int) ≤ t then (s.heatStep d).getD s else s)

/-- THERMAL_TRIP: every core of the module stops, its Firn ports go down, a save that was decided ends, ERR is 6 and READY is 0 (R366). -/
def execThermalTrip (m : Nat) (s : State) : Out :=
  let s := s.setModule m { s.module m with tripped := true, err := 6, ready := false, booting := none }
  .next { s with
    present := s.present.filter (· ≠ m)
    clusters := s.clusters.map fun (e : Nat × Cluster) =>
      (e.1, if clusterModule e.1 = m then { e.2 with saving := none, restoring := none, preBusy := false } else e.2) }

/-- The lowest VF state of a MARGINn word that keeps less than 10 mV, in steps of 5 mV (R360, R367). -/
def shortState (margins : BitVec 64) : Option Nat :=
  (List.range 16).find? fun k => decide (bits margins.toNat (4 * k + 3) (4 * k) < 2)

/-- A die is sampled: the margins that its VF states keep under the voltages that firmware has computed, which take effect at the next
transition; where a state cannot keep 10 mV, VFCAP is lowered below it, but not below vf0 (R367). -/
def State.sampleDie (s : State) (m die : Nat) (margins : BitVec 64) (volts : List Nat) : State :=
  let n := die % 8
  let d := m * 8 + n
  let x := s.module m
  let cap := bits x.vfcap.toNat (4 * n + 3) (4 * n)
  let cap := match shortState margins with
    | some k => min cap (k - 1)
    | none => cap
  let s := s.setModule m { x with
    margin := SMap.set x.margin n margins, vfcap := BitVec.ofNat 64 (putBits x.vfcap.toNat (4 * n + 3) (4 * n) cap) }
  s.setDie d { s.die d with volts := volts }

/-- AGEING_SAMPLE (R367). -/
def execAgeingSample (m die : Nat) (margins : BitVec 64) (volts : List Nat) (s : State) : Out := .next (s.sampleDie m die margins volts)

/-- The hourly sampling of every die of a module (R367). -/
def State.ageModule (s : State) (m : Nat) : State :=
  let s := (List.range 8).foldl (fun (s : State) i =>
    s.sampleDie m i (Config.agedMargins (m * 8 + i) s.fresh) (Config.agedVolts (m * 8 + i) s.fresh)) s
  (s.setModule m { s.module m with ageTick := s.ticks }).tick1

/-- A place in a die's SRAM that holds an uncorrectable error: bytes of memory by location; from 2^70 on a lane of a register-store word,
`2^70 + (core * 4096 + register) * 32 + lane`; from 2^71 on an element of a tile, `2^71 + (core * 32 + tile) * 256 + element` (R285). -/
def State.spoil (s : State) (loc : Nat) : State :=
  if loc < 2 ^ 70 then { s with badMem := insertNew s.badMem loc }
  else if loc < 2 ^ 71 then
    let k := (loc - 2 ^ 70) / 32
    { s with badRegs := SMap.set s.badRegs k (SMap.getD s.badRegs k 0 ||| (1#32 <<< (loc % 32))) }
  else
    let k := (loc - 2 ^ 71) / 256
    { s with badAccs := SMap.set s.badAccs k (SMap.getD s.badAccs k 0 ||| (1#256 <<< ((loc - 2 ^ 71) % 256))) }

/-- SOFT_ERROR: an error is counted in SECNT of a die: kind 0 SRAMC, 1 SRAMU, 2 HBMC, 3 HBMU; an uncorrectable one stays where it is
(R285, R368). -/
def execSoftError (m die kind : Nat) (loc : Option Nat) (s : State) : Out :=
  let x := s.module m
  let n := die % 8
  let k := kind % 4
  let v := (SMap.getD x.secnt n 0).toNat
  let c := min 65535 (bits v (16 * k + 15) (16 * k) + 1)
  let s := s.setModule m { x with secnt := SMap.set x.secnt n (BitVec.ofNat 64 (putBits v (16 * k + 15) (16 * k) c)) }
  .next (if k = 1 ∨ k = 3 then (match loc with
    | some l => s.spoil l
    | none => s) else s)

/-! ### The host, and the pod (R6, R17, R172, R322, R327, R359) -/

/-- REGISTER_WRITE: the management cluster writes a register of the control range (R6, R359, R360). -/
def execRegisterWrite (m pa : Nat) (v : BitVec 64) (s : State) : Out :=
  .next (if inCtl pa = true ∧ pa % 8 = 0 then s.ctlWrite m pa .management v else s)

/-- The host's agent: it acts as an engine outside every run. -/
def hostAgent (m : Nat) : Agent := { thread := cccBase, unit := 8, cluster := m * 128 }

/-- Whether the host link offers an access: 8 aligned bytes of the control range, or 1 to 8 bytes of memory; a longer request is several
(R172, R359; log 56). -/
def hostOk (pa n : Nat) : Bool :=
  if inCtl pa then decide (n = 8 ∧ pa % 8 = 0)
  else decide (1 ≤ n ∧ n ≤ 8) && (span pa n).all fun x => assigned x && !inCtl x

/-- The request of a host access at the directories. -/
def hostRequest (m pa n : Nat) (wr : Bool) : Nat × List Nat :=
  (if wr then reqWrite else reqRead, ((span (locOf m pa) n).map tileOf).foldl insertNew [])

/-- What a host access to memory meets in the directory: the state with the runs that give way aborted, and whether it waits for a line in X
or for a run (R166, R261). -/
def State.hostMeets (s : State) (m pa n : Nat) (wr : Bool) : State × Bool :=
  let r := hostRequest m pa n wr
  if (span (locOf m pa) n).any fun l => s.xlines.contains (lineOf l) then (s, true)
  else match s.resolveConflicts (hostAgent m) r.1 r.2 with
    | (_, some _) => (s, true)
    | (s', none) => (s', false)

/-- Whether a host access to memory waits. -/
def State.hostWaits (s : State) (m pa n : Nat) (wr : Bool) : Bool := decide (inCtl pa = false) && (s.hostMeets m pa n wr).2

/-- A host access that waits asks at the directory (R261). -/
def State.hostAsks (s : State) (m pa n : Nat) (wr : Bool) : State :=
  if s.hostWaits m pa n wr && !((span (locOf m pa) n).any fun l => s.xlines.contains (lineOf l)) then
    (s.resolveConflicts (hostAgent m) (hostRequest m pa n wr).1 (hostRequest m pa n wr).2).1
  else s

/-- HOST_ACCESS: an access by the host, to the control range through BAR0 or to memory; a value read is returned (R172, R359). One that the
link does not offer completes as an Unsupported Request. -/
def State.hostAccess (s : State) (m pa n : Nat) (wr : Bool) (v : Word) : State :=
  let answer (s : State) (w : Word) : State := s.setModule m { s.module m with hostRead := some w }
  if hostOk pa n = false then s
  else if inCtl pa then
    if wr then s.ctlWrite m pa .host v else let r := s.ctlRead m pa; answer r.1 r.2
  else if s.hostWaits m pa n wr = true then s
  else
    let locs := span (locOf m pa) n
    let s := (s.hostMeets m pa n wr).1
    if wr then s.setBytes none 0 (cellsAt (locOf m pa) (leBytes n v.toNat))
    else if (s.module m).tripped then
      (answer s (BitVec.ofNat 64 (leNat (locs.map Config.trippedByte)))).tick1
    else if locs.any fun l => s.badMem.contains l then (answer s (BitVec.ofNat 64 ((Config.openWord s.fresh).toNat % 256 ^ n))).tick1
    else answer s (BitVec.ofNat 64 (s.num (locOf m pa) n))

def execHostAccess (m : Nat) (range : Nat × Nat) (wr : Bool) (v : BitVec 64) (s : State) : Out := .next (s.hostAccess m range.1 range.2 wr v)

/-- POD_CONFIGURATION: modules of a pod have their numbers, and its switches their routing tables (R17, R322). -/
def execPodConfiguration (pod : Nat) (mods : List Nat) (s : State) : Out :=
  let news := mods.filter fun m => decide (m / 72 = pod ∧ m ≤ 935)
  .next (if 13 ≤ pod then s
    else
      let s := { s with present := news.foldl insertNew s.present }
      (List.range 16).foldl (fun (s : State) k =>
        let sw := pod * 16 + k
        (s.setSwitch sw { s.switch sw with routes := (List.range 52).map fun i => Config.viaPod (s.fresh * 52 + i) % 13 }).tick1) s)

/-- TENANT_QUOTA: the management cluster sets a tenant's quota on a switch (R327). -/
def execTenantQuota (sw ctx pages : Nat) (s : State) : Out :=
  let w := s.switch sw
  .next (s.setSwitch sw { w with quota := SMap.set w.quota (ctx % 65536) pages })

end Sys2Proof.Machine
end

