-- ==== Sys2Proof/Machine/Turn.lean ====
section
/-! DEFINITION. What a step does next: the events that are due, in one fixed order, the choice of the thread that issues, the fetch of its
instruction, and the advance of time (02_execution_model R41 to R43; 04_formats R52, R53, R68; 07_scalar_control R104; 27_debug R345,
R350; log 4). -/

namespace Sys2Proof.Machine

/-! ### Events that are due (log 4) -/

/-- The next event of a die: a transition ends, the token is granted, a run over a limit of the versioned slice aborts. -/
def State.dieEvent (s : State) (d : Nat) : Option State :=
  let x := s.die d
  if x.halted then some (s.setDie d { x with halted := false, since := s.time })
  else if x.token.isNone && decide (x.tokenQueue ≠ []) then some (s.tokenGrant d)
  else match s.sliceOver d with
    | some h => some (s.abortHolder h abortCAPACITY 2)
    | none => none

/-- The next event of a core: a stop takes effect, the trace encoder writes, a run over a shared limit aborts, the side log replays (R138,
R256, R347, R355). -/
def State.coreEvent (s : State) (g : Nat) : Option State :=
  match s.takeStop g with
  | some s' => some s'
  | none => match s.encoderStep g with
    | some s' => some s'
    | none => match s.coreOver g with
      | some (h, code) => some (s.abortHolder h abortCAPACITY code)
      | none => s.replayOnce g

/-- The next event of a thread: what it waits for is there (R42), or a younger run has joined the tile that it waits for, and gives way (R261).
A WAITW whose timeout runs out in this core cycle ends when the cycle
does (R155). -/
def State.threadEvent (s : State) (t : Nat) : Option State :=
  let th := s.thr t
  if !th.live then none
  else match th.wait with
    | .ready => s.stageOnce t
    | .response _ _ => some (s.accessResponse t (Config.linkDelay s.fresh)).tick1
    | .steal _ _ => changed s (s.accessResponse t 0)
    | .tlbinv _ _ => changed s (s.accessResponse t 0)
    | .result u _ _ => changed s (s.resultDue t u)
    | .mma started _ _ _ _ _ _ _ => changed s (if started then s.mmaComplete t else s.mmaArrayStart t)
    | .waitw _ deadline => if s.waitwResult t deadline = some 0 then none else s.waitwOver t
    | .wfi _ => if s.wfiOver t then some (s.complete t .none) else none
    | .retry (.conflict tile _ kind) => changed s (s.wound (s.waiter t) kind tile)
    | .retry (.fetch _ _ (some (tile, kind))) => changed s (s.wound (s.agent t) kind tile)
    | _ => none

/-- A packet arrives, or is discarded for its header (R323). -/
def State.deliver (s : State) (i : Nat) : Option State :=
  match s.arriving i with
  | none => if (s.net[i]?.map Packet.headerOk).getD true then none else some (s.discardBad i)
  | some p =>
    let delay := Config.linkDelay s.fresh
    match p.kind with
    | 0 => s.deliverRd i p
    | 1 => s.deliverWr i p
    | 2 => s.deliverAmo i p
    | 3 => s.deliverRed i p
    | 4 => s.deliverSend i p
    | 5 => s.deliverMgrant i p
    | 6 => s.deliverMrelease i p
    | 7 => s.deliverMquota i p
    | 8 => s.deliverJoin i p
    | 9 => s.deliverLeave i p
    | 10 => s.deliverFcfg i p
    | 11 => s.deliverFbpoll i p
    | 12 => (s.deliverReply i p delay).map State.tick1
    | 13 => (s.deliverReply i p delay).map State.tick1
    | 14 => s.deliverNak i p
    | 15 => s.deliverFcontrib i p
    | 16 => s.deliverFrack i p
    | 17 => s.deliverFbarr i p
    | 18 => s.deliverFwdraw i p
    | 19 => s.deliverMcdata i p
    | 20 => s.deliverMcresult i p
    | 21 => s.deliverFbrel i p
    | 22 => s.deliverMcack i p
    | _ => none

/-- The next event of an AP stream. -/
def State.streamEvent (s : State) (cl n : Nat) : Option State :=
  match SMap.get? (s.cluster cl).streams n with
  | none => none
  | some o =>
    if o.ends then changed s (s.streamEnd cl n)
    else match o.kind with
      | .gather => changed s (s.gatherRunahead cl n)
      | .scatter => changed s (s.scatterElementWrite cl n)
      | .scatterAdd => changed s (s.scatterElementWrite cl n)
      | .binCount => changed s (s.binningParticle cl n)
      | .binPlace => changed s (s.binningParticle cl n)

/-- The next event of a cluster: its engines, its slice, and its pre-emption. -/
def State.clusterEvent (s : State) (cl : Nat) : Option State :=
  let c := s.cluster cl
  let copies : Option State :=
    if c.copies = [] then none
    else match (if s.engineHeld cl then none else changed s (s.copyAccept cl)) with
      | some s' => some s'
      | none => (List.range c.copies.length).findSome? fun i => changed s (s.copyComplete cl i)
  match (match copies with
    | some s' => some s'
    | none => (List.range c.commits.length).findSome? fun i => s.commitStep cl i) with
  | some s' => some s'
  | none =>
    match (List.range c.nears.length).findSome? fun i => changed s (s.nbmvComplete cl i) with
    | some s' => some s'
    | none =>
      match (if c.starts = [] ∨ s.engineHeld cl = true then none else changed s (s.streamAccept cl)) with
      | some s' => some s'
      | none =>
        match c.streams.findSome? fun e => s.streamEvent cl e.1 with
        | some s' => some s'
        | none =>
          match c.tasks.find? fun e => s.agesNow cl e.1 with
          | some e => some (s.ageTask cl e.1)
          | none =>
            match s.dispatchOnce cl with
            | some s' => some s'
            | none =>
              if c.preBusy then changed s ((s.endSave cl).endRestore cl) else none

/-- The clusters of a module that could steal a task: those beside a slice that holds a ready task (R46). -/
def State.stealEvent (s : State) (m : Nat) : Option State :=
  let ready := s.clusters.any fun e => decide (clusterModule e.1 = m) && e.2.readyTasks.any fun x => !dOrd x.2.desc
  if ready then (List.range 128).findSome? fun i => s.stealOnce (m * 128 + i) else none

/-- The next event of a module: a step of its boot, a launch, a finish, a root that fails, a recomputation of GVT, the power check, the hourly
sampling, a step down for heat, a steal (R28, R29, R46, R48, R282, R361, R365 to R367). -/
def State.moduleEvent (s : State) (m : Nat) : Option State :=
  let x := s.module m
  if x.booting.isSome then some (s.bootStep m)
  else match (if x.launch.isSome then changed s (s.regionLaunch m) else none) with
  | some s' => some s'
  | none => match x.regions.findSome? fun e => if s.finished m e.1 then changed s (s.regionFinish m e.1) else none with
    | some s' => some s'
    | none => match x.failing.findSome? fun q => s.failStep m q with
      | some s' => some s'
      | none =>
        if x.gvtTick + 256 ≤ s.ticks then some (s.gvtRecompute m)
        else if x.ready && decide (x.powerTick < s.ticks / powerTicks) then
          some (s.powerCheck m (Config.measuredWatts s.fresh) (Config.hottestDie s.fresh)).tick1
        else if x.ready && decide (x.ageTick + hourTicks ≤ s.ticks) then some (s.ageModule m)
        else match (List.range 8).findSome? fun i => s.heatStep (m * 8 + i) with
          | some s' => some s'
          | none => s.stealEvent m

/-- The next record that moves: into the trap queue, or along its chain (R280, R281). -/
def State.recordEvent (s : State) : Option State :=
  s.records.findSome? fun r => match s.trapQueueEntry r.handle with
    | some s' => some s'
    | none => s.handlerEntry r.handle

/-- The first event that is due, in the model's order (log 4). -/
def State.nextEvent (s : State) : Option State :=
  match s.dies.findSome? fun e => s.dieEvent e.1 with
  | some s' => some s'
  | none => match s.cores.findSome? fun e => s.coreEvent e.1 with
    | some s' => some s'
    | none => match s.threads.findSome? fun e => s.threadEvent e.1 with
      | some s' => some s'
      | none => match s.egressEvent.or ((List.range s.net.length).findSome? fun i => s.deliver i) with
        | some s' => some s'
        | none => match s.recordEvent with
          | some s' => some s'
          | none => match s.clusters.findSome? fun e => s.clusterEvent e.1 with
            | some s' => some s'
            | none => s.modules.findSome? fun e => s.moduleEvent e.1

/-! ### The thread that issues (R41, R345) -/

/-- Whether a thread may issue: it is not parked, or the reason for which its instruction is to be issued again is over (R41, R42). -/
def State.awake (s : State) (t : Nat) : Bool :=
  match (s.thr t).wait with
  | .ready => true
  | .retry r => s.retryOver t r
  | .apqpop _ _ => s.queueOver t
  | .apqpush _ _ => s.queueOver t
  | _ => false

/-- Whether a core record runs at all: its die is not in a transition, its module not tripped, and it is not being saved (R294, R365,
R366). -/
def State.coreActive (s : State) (g : Nat) : Bool :=
  !(s.die (clusterDie (coreCluster g))).halted && !(s.module (clusterModule (coreCluster g))).tripped
  && decide ((s.cluster (coreCluster g)).saving.map (·.1) ≠ some g)

/-- Whether a core record issues in this cycle (R41, R345). -/
def State.coreIssues (s : State) (g : Nat) : Bool :=
  let c := s.core g
  s.coreActive g && !c.dbg.stopped && decide (c.lastCycle ≠ some (s.dieCycle (clusterDie (coreCluster g))))

/-- Whether the instruction on which a thread is parked is performed now: the reason for which it waits is over. A stopped core's goes on
(R42, R348). -/
def State.performs (s : State) (t : Nat) : Bool :=
  let th := s.thr t
  th.live && th.parked && s.awake t && s.coreActive (threadCore t) && decide (th.woke ≠ some (s.cycleOf t))

/-- Whether a slot qualifies in this cycle (R41): not in the one in which its thread woke (R42); while a step is asked for, only its
slot does (R345). -/
def State.qualifies (s : State) (g slot : Nat) : Bool :=
  let t := slotThread g slot
  let th := s.thr t
  th.live && !th.staging && !th.parked && s.awake t
  && (match (s.core g).dbg.step with
    | some k => decide (k = slot)
    | none => true)
  && (match th.lastIssue with
    | some c => decide (c + 8 ≤ s.cycleOf t)
    | none => true)
  && decide (th.woke ≠ some (s.cycleOf t))

/-- The slot of a core that issues: the first that qualifies after the one that issued last (R41). -/
def State.issueSlot (s : State) (g : Nat) : Option Nat :=
  if s.coreIssues g then
    ((List.range (coreSlots g)).map fun i => ((s.core g).lastSlot + 1 + i) % coreSlots g).find? fun slot => s.qualifies g slot
  else none

/-- The thread whose instruction is performed next: one that is parked on it, else one that issues; units in the order of their numbers,
compute cores before CCCs (log 4). -/
def State.nextIssue (s : State) : Option Nat :=
  match s.threads.find? fun e => s.performs e.1 with
  | some e => some e.1
  | none => s.threads.findSome? fun e =>
      if e.2.live then (s.issueSlot (threadCore e.1)).map fun slot => slotThread (threadCore e.1) slot else none

/-! ### Fetch and decode (R52, R53, R68, R104) -/

/-- What a fetch gives. -/
inductive Fetched where
  | word (w : BitVec 32)
  | trap (x : Trap)
  deriving DecidableEq, Repr

/-- What a thread's fetch meets, as a coherent read of its word through the page tables: lines in X, side-log entries of its own for the page,
or a run at a directory. None where it can be made, or where nothing is fetched: an instruction on which a thread is parked has been
fetched (R53, R152, R167, R170, R261). -/
def State.meetFetch (s : State) (t : Nat) : State × Option Retry :=
  let va := (s.thr t).pc.toNat
  let a := s.agent t
  let pages := [va / 65536]
  if (s.thr t).parked = true ∨ va % 4 ≠ 0 then (s, none)
  else
    let tables := s.tableWaits a fetchSpace 0 permX false pages
    let own := (s.core (threadCore t)).ownPages t a.ctx pages
    if tables ≠ [] ∨ own ≠ [] then (s, some (.fetch tables own none))
    else match s.resolveAll a (s.walkRequests a fetchSpace 0 permX false pages) with
    | (s, some (k, _, tile)) => (s, some (.fetch [] [] (some (tile, k))))
    | (s, none) =>
      match (s.translate a fetchSpace 0 permX false va).2 with
      | none => (s, none)
      | some x =>
        let xs : SMap Xlat := [(va / 65536, x)]
        let lines := s.heldLines a 0 xs (span va 4)
        if lines ≠ [] then (s, some (.fetch lines [] none))
        else match s.resolveAll a (s.accessRequests a reqRead 0 xs (span va 4)) with
        | (s, some (k, _, tile)) => (s, some (.fetch [] [] (some (tile, k))))
        | (s, none) => (s, none)

/-- The fetch of a thread at its PC: a coherent read, which sees what the thread's own run has stored (R53, R104, R285; DEDUCED, log 39). -/
def State.fetch (s : State) (t : Nat) : State × Fetched :=
  let th := s.thr t
  let va := th.pc.toNat
  if th.parked then (s, .word th.word)
  else if va % 4 ≠ 0 then (s, .trap (causeALIGN, th.pc))
  else match s.translate (s.agent t) fetchSpace 0 permX false va with
    | (s, none) => (s, .trap (causePAGE, th.pc))
    | (s, some x) =>
      let loc := x.loc + va % 65536
      if (span loc 4).any fun l => s.badMem.contains l && !s.foreign (s.agent t).ctx l && (s.ownByte (s.agent t) false l).isNone then
        (s, .trap (causeDATA, th.pc))
      else
        let s := s.touchFrame x.key loc (s.agent t).ctx
        let w := BitVec.ofNat 32 (leNat ((span loc 4).map fun l => s.seen (s.agent t) false x.key l))
        (s.setThr t { s.thr t with word := w }, .word w)

/-- The layout indexes that a stream start names, where its own words pass step 1 of R306. -/
def State.streamEntries (s : State) (a : BitVec 6) (kind : StreamKind) : List Nat :=
  let w := (s.sr a).toNat
  if streamWordsOk (s.group a 4) kind then [bits w 7 0, bits w 15 8] ++ (if bit w 32 then [bits w 23 16] else []) else []

/-- The layout indexes that an APBIN names, where its own words and its parameter register pass (R314). -/
def State.binEntries (s : State) (a : BitVec 6) (place : Bool) : List Nat :=
  let g := s.group a 4
  let w := (s.sr a).toNat
  let preg := bits w 35 24
  let v := s.vec preg
  let bad := SMap.getD s.badRegs (threadCore s.cur * 4096 + s.phys s.cur preg) 0 &&& parLanes v
  if binWordsOk g && decide (preg < s.w ∧ bad = 0) && binFieldsOk g place v then
    [bits w 7 0, bits w 15 8] ++ (if place then [bits w 23 16] else [])
  else []

/-- The layout indexes whose entries an instruction reads from its thread's table when it issues: none where a check that comes before the
read fails (R69, R124). -/
def State.entriesOf (s : State) : Instr → List Nat
  | .ld _ l _ _ _ _ => [l.toNat]
  | .lds _ l _ _ _ _ => [l.toNat]
  | .st _ l _ _ _ _ => [l.toNat]
  | .vld _ l _ _ => [l.toNat]
  | .vst _ l _ _ => [l.toNat]
  | .amo _ l _ _ _ => [l.toNat]
  | .red _ l _ _ _ _ => [l.toNat]
  | .pref l _ _ => [l.toNat]
  | .wbr _ l _ => if s.me.run.active then [] else [l.toNat]
  | .invr _ l _ => if s.me.run.active then [] else [l.toNat]
  | .watch _ l _ => [l.toNat]
  | .unwatch l _ => [l.toNat]
  | .nbmv d l c t f =>
    if isCcc s.cur || s.me.near.isSome
      || !(s.nbmvFormChecks s.cur (.nbmv d l c t f) (s.group d 4) (decide (t = 1)) (SMap.getD s.me.fmt f.toNat 0).toNat).toBool then []
    else l.toNat :: if t = 1 then [bits (s.srN (d.toNat + 1)).toNat 7 0] else []
  | .xcopy a _ => if copyWordsOk (s.group a 4) false then [bits (s.sr a).toNat 7 0, bits (s.sr a).toNat 15 8] else []
  | .xmcast a _ => if copyWordsOk (s.group a 4) true then [bits (s.sr a).toNat 7 0] else []
  | .msub a => if (s.sr a).toNat / 2 ^ 37 = 0 then [bits (s.sr a).toNat 23 16] else []
  | .apgather _ a => s.streamEntries a .gather
  | .apscatter _ a => s.streamEntries a .scatter
  | .apscatteradd _ a => s.streamEntries a .scatterAdd
  | .apbin _ a m => s.binEntries a (decide (m = 1))
  | _ => []

/-- What an issue comes to before its instruction runs. -/
inductive Issue where
  /-- Nothing more: a stop, a trap of the fetch or the decoder, or a wait for the word or for a layout entry. -/
  | done (s : State)
  /-- The instruction runs. -/
  | run (i : Instr) (s : State)
  deriving DecidableEq, Repr

/-- The marks of an issue: the slot and the cycle; an ordered task's run begins with its first issue, and a breakpoint that was passed
counts again (R41, R272, R350, R355). An instruction on which the thread was parked is performed without an issue (R42). -/
def State.markIssue (s : State) (t : Nat) : State :=
  let g := threadCore t
  let th := s.thr t
  let now := s.cycleOf t
  if th.parked then { s.setThr t { th with woke := some now } with cur := t }
  else
    let c := s.core g
    let s := s.setCore g { c with
      lastSlot := threadSlot t, lastCycle := some now, dbg := { c.dbg with issued := some (threadSlot t, now, th.pc, th.dslot * 256 + th.region) } }
    let run := if th.ordered && !th.run.active then { th.run with active := true, ordered := true } else th.run
    { s.setThr t { th with lastIssue := some now, run := run, passBreak := none, entries := none, near := none } with cur := t }

/-- Whether an instruction is a PREF, which waits for nothing and raises nothing (R153). -/
def isPref : Instr → Bool
  | .pref _ _ _ => true
  | _ => false

/-- The word fetched runs as an instruction: the decoder's checks 1 to 4, then the read of its layout entries, for which it may have to
wait and which it then keeps (R68, R69, R124). A PREF whose entry cannot be read at once does nothing (R153; DESIGN CHOICE, log 73). -/
def State.runWord (s : State) (w : BitVec 32) : Issue :=
  match decode w with
  | .error _ => .done (s.trap causeILLEGAL (w.setWidth 64))
  | .ok i =>
    let ls := s.entriesOf i
    if ls = [] ∨ s.me.entries.isSome = true then .run i s
    else
      let r := s.meetEntries (s.agent s.cur) ls
      if s.me.live && !r.1.me.live then .done r.1
      else match r.2 with
        | .ok => .run i (r.1.capture ls)
        | .wait w => .done (if isPref i then s.retire else r.1.park (.retry w))
        | .bad x => .done (if isPref i then s.retire else r.1.trap causeDATA (BitVec.ofNat 64 (locPa x)))

/-- A thread that issues sees the PC that DDATA wrote while it was parked (R349). -/
def State.seePc (s : State) (t : Nat) : State :=
  let th := s.thr t
  match th.nextPc with
  | some v => if th.parked then s else s.setThr t { th with pc := v, nextPc := none }
  | none => s

/-- A thread issues: the wait for its word, breakpoints and the fetch come first (R53, R68, R350). -/
def State.beginIssue (s : State) (t : Nat) : Issue :=
  let s := s.seePc t
  let go (s : State) : Issue :=
    match (s.markIssue t).fetch t with
    | (s, .trap x) => .done (s.trapWith x)
    | (s, .word w) => s.runWord w
  match s.meetFetch t with
  | (s', some r) => .done (if (s'.thr t).live then State.park { s' with cur := t } (.retry r) else s')
  | (s', none) =>
    if (s.thr t).live && !(s'.thr t).live then .done s'
    else match s'.breakMatch t with
    | none => go s'
    | some (n, a) => if a = 1 then go (s'.doBreak t n a) else .done (s'.doBreak t n a)

/-- What follows when a thread has issued, or its instruction was performed while it was parked (`issued` = false): a step that was asked
for ends in a stop with the issue (R345, R347). -/
def State.endIssue (s : State) (t : Nat) (issued : Bool) : State :=
  let c := s.core (threadCore t)
  if issued && decide (c.dbg.step = some (threadSlot t) ∧ c.lastCycle = some (s.cycleOf t)) then s.stopCore (threadCore t) 6 (threadSlot t) 0
  else s

/-! ### The advance of time (R4, R20) -/

/-- The next moment at which a core cycle of a die begins. -/
def State.nextCycle (s : State) (d : Nat) : Nat :=
  let x := s.die d
  let u := cycleUnits x.vf
  x.since + ((s.time - x.since) / u + 1) * u

/-- Time moves on to the next tick, or to the next cycle of a die with live threads, whichever is first. -/
def State.advance (s : State) : State :=
  let tick := (s.time / tickUnits + 1) * tickUnits
  let next := s.liveThreads.foldl (fun n e => min n (s.nextCycle (threadDie e.1))) tick
  { s with time := next }

/-- The WAITW of a thread whose timeout runs out in a core cycle ends with 0 when nothing else is left in that cycle (R155). -/
def State.waitwTimesOut (s : State) (t : Nat) : Option State :=
  match (s.thr t).wait with
  | .waitw _ deadline =>
    if s.waitwResult t deadline = some 0 ∧ s.nextCycle (threadDie t) ≤ s.advance.time then s.waitwOver t else none
  | _ => none

/-- What happens when no thread can issue: a sample that is due, a timeout at the end of its core cycle, else time moves on (R155, R355). -/
def State.idle (s : State) : State :=
  match s.cores.find? fun e => s.sampleDue e.1 with
  | some e => s.takeSample e.1
  | none => (s.threads.findSome? fun e => s.waitwTimesOut e.1).getD s.advance

/-- Whether a move from outside waits: DDATA on a locked tile, a host access to a held line, the eviction of one (R166, R167, R349). -/
def State.moveWaits (s : State) : Instr → Bool
  | .eviction d line => s.evictWaits d line
  | .ddata g _ _ => (s.ddataLock g).isSome
  | .hostAccess m (pa, n) wr _ => hostOk pa n && (s.hostWaits m pa n wr || (s.ctlLock m pa).isSome)
  | _ => false

/-- A move from outside that waits at a directory asks there: runs that must give way to it abort, and it keeps its place in the order of
arrival (R261). -/
def State.moveAsks (s : State) : Instr → State
  | .eviction d line => s.evictAsks d line
  | .hostAccess m (pa, n) wr _ => s.hostAsks m pa n wr
  | _ => s

end Sys2Proof.Machine
end

