-- ==== Sys2Proof/Machine/Dispatch.lean ====
section
/-! DEFINITION. One arm for each instruction and event: the call of its meaning. -/

namespace Sys2Proof.Machine

/-- Runs an instruction or an event. -/
def exec (i : Instr) (s : State) : Host.Outcome State Fault Refusal :=
  match i with
  | .add d a b => Sys2Proof.Machine.execAdd d a b s
  | .sub d a b => Sys2Proof.Machine.execSub d a b s
  | .and d a b => Sys2Proof.Machine.execAnd d a b s
  | .or d a b => Sys2Proof.Machine.execOr d a b s
  | .xor d a b => Sys2Proof.Machine.execXor d a b s
  | .sll d a b => Sys2Proof.Machine.execSll d a b s
  | .srl d a b => Sys2Proof.Machine.execSrl d a b s
  | .sra d a b => Sys2Proof.Machine.execSra d a b s
  | .slt d a b => Sys2Proof.Machine.execSlt d a b s
  | .sltu d a b => Sys2Proof.Machine.execSltu d a b s
  | .seq d a b => Sys2Proof.Machine.execSeq d a b s
  | .min d a b => Sys2Proof.Machine.execMin d a b s
  | .max d a b => Sys2Proof.Machine.execMax d a b s
  | .minu d a b => Sys2Proof.Machine.execMinu d a b s
  | .maxu d a b => Sys2Proof.Machine.execMaxu d a b s
  | .mul d a b => Sys2Proof.Machine.execMul d a b s
  | .mulh d a b => Sys2Proof.Machine.execMulh d a b s
  | .mulhu d a b => Sys2Proof.Machine.execMulhu d a b s
  | .div d a b => Sys2Proof.Machine.execDiv d a b s
  | .divu d a b => Sys2Proof.Machine.execDivu d a b s
  | .rem d a b => Sys2Proof.Machine.execRem d a b s
  | .remu d a b => Sys2Proof.Machine.execRemu d a b s
  | .clz d a => Sys2Proof.Machine.execClz d a s
  | .ctz d a => Sys2Proof.Machine.execCtz d a s
  | .popc d a => Sys2Proof.Machine.execPopc d a s
  | .sextb d a => Sys2Proof.Machine.execSextb d a s
  | .sexth d a => Sys2Proof.Machine.execSexth d a s
  | .sextw d a => Sys2Proof.Machine.execSextw d a s
  | .zextw d a => Sys2Proof.Machine.execZextw d a s
  | .addi d a imm => Sys2Proof.Machine.execAddi d a imm s
  | .andi d a imm => Sys2Proof.Machine.execAndi d a imm s
  | .ori d a imm => Sys2Proof.Machine.execOri d a imm s
  | .xori d a imm => Sys2Proof.Machine.execXori d a imm s
  | .slli d a imm => Sys2Proof.Machine.execSlli d a imm s
  | .srli d a imm => Sys2Proof.Machine.execSrli d a imm s
  | .srai d a imm => Sys2Proof.Machine.execSrai d a imm s
  | .slti d a imm => Sys2Proof.Machine.execSlti d a imm s
  | .csel d a b c => Sys2Proof.Machine.execCsel d a b c s
  | .cselz d a b c => Sys2Proof.Machine.execCselz d a b c s
  | .lui d imm => Sys2Proof.Machine.execLui d imm s
  | .fadd d a b => Sys2Proof.Machine.execFadd d a b s
  | .fsub d a b => Sys2Proof.Machine.execFsub d a b s
  | .fmul d a b => Sys2Proof.Machine.execFmul d a b s
  | .fdiv d a b => Sys2Proof.Machine.execFdiv d a b s
  | .fsqrt d a => Sys2Proof.Machine.execFsqrt d a s
  | .fmadd d a b c => Sys2Proof.Machine.execFmadd d a b c s
  | .feq d a b => Sys2Proof.Machine.execFeq d a b s
  | .flt d a b => Sys2Proof.Machine.execFlt d a b s
  | .ftoi d a => Sys2Proof.Machine.execFtoi d a s
  | .itof d a => Sys2Proof.Machine.execItof d a s
  | .br a b n o => Sys2Proof.Machine.execBr a b n o s
  | .jal d imm => Sys2Proof.Machine.execJal d imm s
  | .jalr d a imm => Sys2Proof.Machine.execJalr d a imm s
  | .auipc d imm => Sys2Proof.Machine.execAuipc d imm s
  | .brp a n o => Sys2Proof.Machine.execBrp a n o s
  | .tend => Sys2Proof.Machine.execTend s
  | .yield => Sys2Proof.Machine.execYield s
  | .tspawn d a b => Sys2Proof.Machine.execTspawn d a b s
  | .dqpush a => Sys2Proof.Machine.execDqpush a s
  | .dqpop d => Sys2Proof.Machine.execDqpop d s
  | .dqsplit d a => Sys2Proof.Machine.execDqsplit d a s
  | .dqsteal d => Sys2Proof.Machine.execDqsteal d s
  | .dqcount d => Sys2Proof.Machine.execDqcount d s
  | .sclose => Sys2Proof.Machine.execSclose s
  | .sdrop a => Sys2Proof.Machine.execSdrop a s
  | .sdepth d => Sys2Proof.Machine.execSdepth d s
  | .sopen imm => Sys2Proof.Machine.execSopen imm s
  | .tsignal a b imm => Sys2Proof.Machine.execTsignal a b imm s
  | .ld d l c w r scope => Sys2Proof.Machine.execLd d l c w r scope s
  | .lds d l c w r scope => Sys2Proof.Machine.execLds d l c w r scope s
  | .st d l c w r scope => Sys2Proof.Machine.execSt d l c w r scope s
  | .vld d l c p => Sys2Proof.Machine.execVld d l c p s
  | .vst d l c p => Sys2Proof.Machine.execVst d l c p s
  | .amo d l c k r => Sys2Proof.Machine.execAmo d l c k r s
  | .red d l c k r m => Sys2Proof.Machine.execRed d l c k r m s
  | .fence k scope => Sys2Proof.Machine.execFence k scope s
  | .pref l c v => Sys2Proof.Machine.execPref l c v s
  | .wbr d l c => Sys2Proof.Machine.execWbr d l c s
  | .invr d l c => Sys2Proof.Machine.execInvr d l c s
  | .vadd d a b p => Sys2Proof.Machine.execVadd d a b p s
  | .vsub d a b p => Sys2Proof.Machine.execVsub d a b p s
  | .vmul d a b p => Sys2Proof.Machine.execVmul d a b p s
  | .vmin d a b p => Sys2Proof.Machine.execVmin d a b p s
  | .vmax d a b p => Sys2Proof.Machine.execVmax d a b p s
  | .vminu d a b p => Sys2Proof.Machine.execVminu d a b p s
  | .vmaxu d a b p => Sys2Proof.Machine.execVmaxu d a b p s
  | .vand d a b p => Sys2Proof.Machine.execVand d a b p s
  | .vor d a b p => Sys2Proof.Machine.execVor d a b p s
  | .vxor d a b p => Sys2Proof.Machine.execVxor d a b p s
  | .vsll d a b p => Sys2Proof.Machine.execVsll d a b p s
  | .vsrl d a b p => Sys2Proof.Machine.execVsrl d a b p s
  | .vsra d a b p => Sys2Proof.Machine.execVsra d a b p s
  | .vadds d a b p => Sys2Proof.Machine.execVadds d a b p s
  | .vsubs d a b p => Sys2Proof.Machine.execVsubs d a b p s
  | .vfadd d a b p => Sys2Proof.Machine.execVfadd d a b p s
  | .vfsub d a b p => Sys2Proof.Machine.execVfsub d a b p s
  | .vfmul d a b p => Sys2Proof.Machine.execVfmul d a b p s
  | .vfmin d a b p => Sys2Proof.Machine.execVfmin d a b p s
  | .vfmax d a b p => Sys2Proof.Machine.execVfmax d a b p s
  | .vfabs d a p => Sys2Proof.Machine.execVfabs d a p s
  | .vfneg d a p => Sys2Proof.Machine.execVfneg d a p s
  | .vfma d a b p => Sys2Proof.Machine.execVfma d a b p s
  | .vfms d a b p => Sys2Proof.Machine.execVfms d a b p s
  | .vbadd d a b p => Sys2Proof.Machine.execVbadd d a b p s
  | .vbmul d a b p => Sys2Proof.Machine.execVbmul d a b p s
  | .vbfma d a b p => Sys2Proof.Machine.execVbfma d a b p s
  | .vceq d a b p => Sys2Proof.Machine.execVceq d a b p s
  | .vcne d a b p => Sys2Proof.Machine.execVcne d a b p s
  | .vclt d a b p => Sys2Proof.Machine.execVclt d a b p s
  | .vcle d a b p => Sys2Proof.Machine.execVcle d a b p s
  | .vcltu d a b p => Sys2Proof.Machine.execVcltu d a b p s
  | .vcleu d a b p => Sys2Proof.Machine.execVcleu d a b p s
  | .vfceq d a b p => Sys2Proof.Machine.execVfceq d a b p s
  | .vfclt d a b p => Sys2Proof.Machine.execVfclt d a b p s
  | .vfcle d a b p => Sys2Proof.Machine.execVfcle d a b p s
  | .vfcun d a b p => Sys2Proof.Machine.execVfcun d a b p s
  | .vsel d a b p => Sys2Proof.Machine.execVsel d a b p s
  | .pand d a b => Sys2Proof.Machine.execPand d a b s
  | .por d a b => Sys2Proof.Machine.execPor d a b s
  | .pxor d a b => Sys2Proof.Machine.execPxor d a b s
  | .pnot d a => Sys2Proof.Machine.execPnot d a s
  | .vcvtif d a p => Sys2Proof.Machine.execVcvtif d a p s
  | .vcvtfi d a p => Sys2Proof.Machine.execVcvtfi d a p s
  | .vcvtn d a t => Sys2Proof.Machine.execVcvtn d a t s
  | .vcvtz d a t => Sys2Proof.Machine.execVcvtz d a t s
  | .vcvts d a t => Sys2Proof.Machine.execVcvts d a t s
  | .vcvtw d a t => Sys2Proof.Machine.execVcvtw d a t s
  | .vrcp d a p => Sys2Proof.Machine.execVrcp d a p s
  | .vrsqrt d a p => Sys2Proof.Machine.execVrsqrt d a p s
  | .vexp2 d a p => Sys2Proof.Machine.execVexp2 d a p s
  | .vlog2 d a p => Sys2Proof.Machine.execVlog2 d a p s
  | .vfdiv d a b p => Sys2Proof.Machine.execVfdiv d a b p s
  | .vfsqrt d a p => Sys2Proof.Machine.execVfsqrt d a p s
  | .vredadd d a p => Sys2Proof.Machine.execVredadd d a p s
  | .vredfadd d a p => Sys2Proof.Machine.execVredfadd d a p s
  | .vredmax d a p => Sys2Proof.Machine.execVredmax d a p s
  | .vredfmax d a p => Sys2Proof.Machine.execVredfmax d a p s
  | .vredmin d a p => Sys2Proof.Machine.execVredmin d a p s
  | .vredfmin d a p => Sys2Proof.Machine.execVredfmin d a p s
  | .vscanadd d a p => Sys2Proof.Machine.execVscanadd d a p s
  | .vscanfadd d a p => Sys2Proof.Machine.execVscanfadd d a p s
  | .vperm d a b => Sys2Proof.Machine.execVperm d a b s
  | .vbcast d a p => Sys2Proof.Machine.execVbcast d a p s
  | .vrot d a b => Sys2Proof.Machine.execVrot d a b s
  | .vextr d a b => Sys2Proof.Machine.execVextr d a b s
  | .vinsr d a b => Sys2Proof.Machine.execVinsr d a b s
  | .vmovi d a => Sys2Proof.Machine.execVmovi d a s
  | .vstoi d a => Sys2Proof.Machine.execVstoi d a s
  | .vgath d a b p => Sys2Proof.Machine.execVgath d a b p s
  | .vldx d a b p => Sys2Proof.Machine.execVldx d a b p s
  | .vstx d a b p => Sys2Proof.Machine.execVstx d a b p s
  | .vcompress d a b p => Sys2Proof.Machine.execVcompress d a b p s
  | .vexpand d a b p => Sys2Proof.Machine.execVexpand d a b p s
  | .viota d => Sys2Proof.Machine.execViota d s
  | .vpopc d a => Sys2Proof.Machine.execVpopc d a s
  | .mma e a b f z u => Sys2Proof.Machine.execMma e a b f z u s
  | .acczero e => Sys2Proof.Machine.execAcczero e s
  | .accld e a => Sys2Proof.Machine.execAccld e a s
  | .accst e a => Sys2Proof.Machine.execAccst e a s
  | .acccvt e a f => Sys2Proof.Machine.execAcccvt e a f s
  | .fmtw d a => Sys2Proof.Machine.execFmtw d a s
  | .fmtr d a => Sys2Proof.Machine.execFmtr d a s
  | .nbmv d l c t f => Sys2Proof.Machine.execNbmv d l c t f s
  | .termrd d a => Sys2Proof.Machine.execTermrd d a s
  | .termclr a => Sys2Proof.Machine.execTermclr a s
  | .xcopy a scope => Sys2Proof.Machine.execXcopy a scope s
  | .xmcast a scope => Sys2Proof.Machine.execXmcast a scope s
  | .msub a => Sys2Proof.Machine.execMsub a s
  | .munsub a => Sys2Proof.Machine.execMunsub a s
  | .apgather d a => Sys2Proof.Machine.execApgather d a s
  | .apscatter d a => Sys2Proof.Machine.execApscatter d a s
  | .apscatteradd d a => Sys2Proof.Machine.execApscatteradd d a s
  | .apbin d a m => Sys2Proof.Machine.execApbin d a m s
  | .apqpop d a => Sys2Proof.Machine.execApqpop d a s
  | .apqpush d a => Sys2Proof.Machine.execApqpush d a s
  | .apwait d a => Sys2Proof.Machine.execApwait d a s
  | .apqstat d a => Sys2Proof.Machine.execApqstat d a s
  | .send imm a b => Sys2Proof.Machine.execSend imm a b s
  | .mrecv d a => Sys2Proof.Machine.execMrecv d a s
  | .mpoll d => Sys2Proof.Machine.execMpoll d s
  | .watch d l c => Sys2Proof.Machine.execWatch d l c s
  | .unwatch l c => Sys2Proof.Machine.execUnwatch l c s
  | .waitw d a => Sys2Proof.Machine.execWaitw d a s
  | .barcfg d a => Sys2Proof.Machine.execBarcfg d a s
  | .barrier a => Sys2Proof.Machine.execBarrier a s
  | .barpoll d a => Sys2Proof.Machine.execBarpoll d a s
  | .mgrant d a m => Sys2Proof.Machine.execMgrant d a m s
  | .mrelease d a => Sys2Proof.Machine.execMrelease d a s
  | .mquota d => Sys2Proof.Machine.execMquota d s
  | .fred a k => Sys2Proof.Machine.execFred a k s
  | .fbarrier a => Sys2Proof.Machine.execFbarrier a s
  | .fbarpoll d a => Sys2Proof.Machine.execFbarpoll d a s
  | .csrr d n => Sys2Proof.Machine.execCsrr d n s
  | .csrw a n => Sys2Proof.Machine.execCsrw a n s
  | .ecall => Sys2Proof.Machine.execEcall s
  | .ebreak => Sys2Proof.Machine.execEbreak s
  | .tret => Sys2Proof.Machine.execTret s
  | .rdtime d => Sys2Proof.Machine.execRdtime d s
  | .rdcycle d => Sys2Proof.Machine.execRdcycle d s
  | .rdinsn d => Sys2Proof.Machine.execRdinsn d s
  | .tlbinv a b => Sys2Proof.Machine.execTlbinv a b s
  | .wfi => Sys2Proof.Machine.execWfi s
  | .illegal => Sys2Proof.Machine.execIllegal s
  | .rgnstart m v => Sys2Proof.Machine.execRgnstart m v s
  | .regionLaunch m => Sys2Proof.Machine.execRegionLaunch m s
  | .regionFinish m r => Sys2Proof.Machine.execRegionFinish m r s
  | .taskDispatch cl => Sys2Proof.Machine.execTaskDispatch cl s
  | .tileStaging t => Sys2Proof.Machine.execTileStaging t s
  | .taskSteal cl => Sys2Proof.Machine.execTaskSteal cl s
  | .ageingInterval cl dslot => Sys2Proof.Machine.execAgeingInterval cl dslot s
  | .gvtRecompute m => Sys2Proof.Machine.execGvtRecompute m s
  | .accessResponse t delay => Sys2Proof.Machine.execAccessResponse t delay s
  | .divideComplete t => Sys2Proof.Machine.execDivideComplete t s
  | .fpDivideComplete t => Sys2Proof.Machine.execFpDivideComplete t s
  | .vectorDivideComplete t => Sys2Proof.Machine.execVectorDivideComplete t s
  | .mmaArrayStart t => Sys2Proof.Machine.execMmaArrayStart t s
  | .mmaComplete t => Sys2Proof.Machine.execMmaComplete t s
  | .sideLogReplay g => Sys2Proof.Machine.execSideLogReplay g s
  | .waitwTimeout t => Sys2Proof.Machine.execWaitwTimeout t s
  | .mailboxArrival imm => Sys2Proof.Machine.execMailboxArrival imm s
  | .runAbort t cause code => Sys2Proof.Machine.execRunAbort t cause code s
  | .orderedAbort cl dslot cause code => Sys2Proof.Machine.execOrderedAbort cl dslot cause code s
  | .tokenGrant d => Sys2Proof.Machine.execTokenGrant d s
  | .trapQueueEntry h => Sys2Proof.Machine.execTrapQueueEntry h s
  | .handlerEntry h => Sys2Proof.Machine.execHandlerEntry h s
  | .tresResume h => Sys2Proof.Machine.execTresResume h s
  | .tresSkip h => Sys2Proof.Machine.execTresSkip h s
  | .tresDiscard h => Sys2Proof.Machine.execTresDiscard h s
  | .tresForward h => Sys2Proof.Machine.execTresForward h s
  | .tq d => Sys2Proof.Machine.execTq d s
  | .txdata wr r => Sys2Proof.Machine.execTxdata wr r s
  | .preemptSave cl v => Sys2Proof.Machine.execPreemptSave cl v s
  | .saveImageWrite cl => Sys2Proof.Machine.execSaveImageWrite cl s
  | .preemptRestore cl v => Sys2Proof.Machine.execPreemptRestore cl v s
  | .imageDiscard cl v => Sys2Proof.Machine.execImageDiscard cl v s
  | .copyAccept cl => Sys2Proof.Machine.execCopyAccept cl s
  | .copyComplete cl imm => Sys2Proof.Machine.execCopyComplete cl imm s
  | .nbmvComplete cl imm => Sys2Proof.Machine.execNbmvComplete cl imm s
  | .streamAccept cl => Sys2Proof.Machine.execStreamAccept cl s
  | .gatherRunahead cl slot => Sys2Proof.Machine.execGatherRunahead cl slot s
  | .scatterElementWrite cl slot => Sys2Proof.Machine.execScatterElementWrite cl slot s
  | .binningParticle cl slot => Sys2Proof.Machine.execBinningParticle cl slot s
  | .streamEnd cl slot => Sys2Proof.Machine.execStreamEnd cl slot s
  | .fcolcfg m v => Sys2Proof.Machine.execFcolcfg m v s
  | .firnRd imm => Sys2Proof.Machine.execFirnRd imm s
  | .firnWr imm => Sys2Proof.Machine.execFirnWr imm s
  | .firnAmo imm => Sys2Proof.Machine.execFirnAmo imm s
  | .firnRed imm => Sys2Proof.Machine.execFirnRed imm s
  | .firnSend imm => Sys2Proof.Machine.execFirnSend imm s
  | .firnMgrant imm => Sys2Proof.Machine.execFirnMgrant imm s
  | .firnMrelease imm => Sys2Proof.Machine.execFirnMrelease imm s
  | .firnMquota imm => Sys2Proof.Machine.execFirnMquota imm s
  | .firnJoin imm => Sys2Proof.Machine.execFirnJoin imm s
  | .firnLeave imm => Sys2Proof.Machine.execFirnLeave imm s
  | .firnFcfg imm => Sys2Proof.Machine.execFirnFcfg imm s
  | .firnFbpoll imm => Sys2Proof.Machine.execFirnFbpoll imm s
  | .firnRdata imm delay => Sys2Proof.Machine.execFirnRdata imm delay s
  | .firnAck imm delay => Sys2Proof.Machine.execFirnAck imm delay s
  | .firnNak imm => Sys2Proof.Machine.execFirnNak imm s
  | .stompedPacket imm => Sys2Proof.Machine.execStompedPacket imm s
  | .firnFcontrib imm => Sys2Proof.Machine.execFirnFcontrib imm s
  | .firnFrack imm => Sys2Proof.Machine.execFirnFrack imm s
  | .firnFbarr imm => Sys2Proof.Machine.execFirnFbarr imm s
  | .firnFwdraw imm => Sys2Proof.Machine.execFirnFwdraw imm s
  | .firnMcdata imm => Sys2Proof.Machine.execFirnMcdata imm s
  | .firnMcresult imm => Sys2Proof.Machine.execFirnMcresult imm s
  | .firnFbrel imm => Sys2Proof.Machine.execFirnFbrel imm s
  | .firnMcack imm => Sys2Proof.Machine.execFirnMcack imm s
  | .firnSwfail m sw => Sys2Proof.Machine.execFirnSwfail m sw s
  | .debugHalt g => Sys2Proof.Machine.execDebugHalt g s
  | .debugStep g slot => Sys2Proof.Machine.execDebugStep g slot s
  | .debugResume g => Sys2Proof.Machine.execDebugResume g s
  | .coreStop g => Sys2Proof.Machine.execCoreStop g s
  | .breakpointMatch t => Sys2Proof.Machine.execBreakpointMatch t s
  | .ddata g wr v => Sys2Proof.Machine.execDdata g wr v s
  | .traceFlush g => Sys2Proof.Machine.execTraceFlush g s
  | .traceSample g => Sys2Proof.Machine.execTraceSample g s
  | .dlyclr g v => Sys2Proof.Machine.execDlyclr g v s
  | .boot m failure version => Sys2Proof.Machine.execBoot m failure version s
  | .measurementReport m nonce => Sys2Proof.Machine.execMeasurementReport m nonce s
  | .identityKey m => Sys2Proof.Machine.execIdentityKey m s
  | .keyLoad m slot key => Sys2Proof.Machine.execKeyLoad m slot key s
  | .powerLimitCheck m watts die => Sys2Proof.Machine.execPowerLimitCheck m watts die s
  | .thermalThrottle m reading => Sys2Proof.Machine.execThermalThrottle m reading s
  | .thermalTrip m => Sys2Proof.Machine.execThermalTrip m s
  | .ageingSample m die margins volts => Sys2Proof.Machine.execAgeingSample m die margins volts s
  | .softError m die kind loc => Sys2Proof.Machine.execSoftError m die kind loc s
  | .wfiWake t => Sys2Proof.Machine.execWfiWake t s
  | .registerWrite m pa v => Sys2Proof.Machine.execRegisterWrite m pa v s
  | .eviction d line => Sys2Proof.Machine.execEviction d line s
  | .hostAccess m range wr v => Sys2Proof.Machine.execHostAccess m range wr v s
  | .switchReplacement sw => Sys2Proof.Machine.execSwitchReplacement sw s
  | .podConfiguration pod mods => Sys2Proof.Machine.execPodConfiguration pod mods s
  | .tenantQuota sw ctx pages => Sys2Proof.Machine.execTenantQuota sw ctx pages s
  | .vfTransitionEnd m die => Sys2Proof.Machine.execVfTransitionEnd m die s

end Sys2Proof.Machine
end

