-- ==== Sys2Proof/Machine/Step.lean ====
section
/-! DEFINITION. One step of the machine: a move from outside, else an event that is due, else an issue, else time moves on (log 4); and the
placing of one instruction where the next step fetches it. -/

namespace Sys2Proof.Machine

/-- The thread issues and its instruction runs. -/
def State.issue (s : State) (t : Nat) : Out :=
  match s.beginIssue t with
  | .done s' => .next (s'.endIssue t !(s.thr t).parked)
  | .run i s' =>
    match exec i s' with
    | .next s'' => .next (s''.endIssue t !(s.thr t).parked)
    | .fault r => .fault r
    | .refused r => .refused r

/-- A step without a move from outside. -/
def State.turn (s : State) : Out :=
  match s.nextEvent with
  | some s' => .next s'
  | none =>
    match s.nextIssue with
    | some t => s.issue t
    | none => .next s.idle

/-- One step. -/
def step (s : State) : Host.Outcome State Fault Refusal :=
  match s.agenda with
  | i :: rest => if s.moveWaits i then (s.moveAsks i).turn else exec i { s with agenda := rest }
  | [] => s.turn

/-! ### Placing an instruction (log 5) -/

/-- The bytes that a placed instruction needs beside its own: an entry of the context table for context 0, and a page table of four
levels that maps its page with X permission. -/
def fetchTables : List (Nat × Byte) :=
  cellsAt 0x00100000 (leBytes 8 (0x00200000 + 1))
  ++ cellsAt (0x00200000 + 8 * 2) (leBytes 8 (0x00600000 + 1))
  ++ cellsAt 0x00600000 (leBytes 8 (0x00601000 + 1))
  ++ cellsAt 0x00601000 (leBytes 8 (0x00602000 + 1))
  ++ cellsAt 0x00602000 (leBytes 8 (0x00700000 * 4 + 1 + 8 + 32))

/-- The state with an instruction stored where a compute thread of its own fetches next: thread slot 0 of core 0 of module 0 (log 5). -/
def State.withFetchWord (s : State) (nbits w : Nat) : State :=
  let th : Thread := { live := true, pc := 0x0000010000000000, gens := freshGens, winStart := 0, winRegs := 64 }
  let word := leBytes 4 (w % 2 ^ nbits % 2 ^ 32)
  { s with
    threads := [(0, th)], modules := [(0, { ctxtab := 0x00100000, gvtTick := s.ticks })]
    mem := Memory.setAll s.mem (fetchTables ++ cellsAt 0x00700000 word)
    agenda := [], net := [], egress := [], dies := [], cores := [], clusters := [], records := [] }

end Sys2Proof.Machine
end

