-- ==== Sys2Proof/Safety.lean ====
section
/-! DEFINITION. What counts as a safe run, and the words in which statements say what a step changed and what it left alone. -/

namespace Sys2Proof.Machine

/-! ### Safe runs -/

/-- The outcome is a next state. -/
def goesOn (o : Out) : Prop := ∃ t, o = .next t

/-- The instruction is performed: `exec` answers a next state, and that state is as `P` says. -/
def Does (i : Instr) (s : State) (P : State → Prop) : Prop := ∃ t, exec i s = .next t ∧ P t

/-- The states of a run: `n` steps from a state. -/
def runs : Nat → State → State → Prop
  | 0, s, t => t = s
  | n + 1, s, t => ∃ u, step s = .next u ∧ runs n u t

/-- A state is safe for ever: every run from it can go on. -/
def Safe (s : State) : Prop := ∀ n t, runs n s t → goesOn (step t)

/-- Memory is in its one canonical form. -/
def State.MemoryOk (s : State) : Prop := Memory.wf s.mem = true

/-- A map lists its keys in rising order, each once. -/
def SMap.Ok {α : Type} (m : SMap α) : Prop := (m.map Prod.fst).Pairwise (· < ·)

/-- The state is in its one canonical form: memory, and the maps of threads, cores, clusters, dies, modules and switches. -/
structure State.Canonical (s : State) : Prop where
  mem : s.MemoryOk
  threads : s.threads.Ok
  cores : s.cores.Ok
  clusters : s.clusters.Ok
  dies : s.dies.Ok
  modules : s.modules.Ok
  switches : s.switches.Ok

/-! ### Memory -/

/-- Reading any byte of memory gives what it gave before. -/
def SameBytes (s t : State) : Prop := ∀ loc, Memory.get t.mem loc = Memory.get s.mem loc

/-- Reading a byte outside a list of locations gives what it gave before. -/
def SameBytesBut (locs : List Nat) (s t : State) : Prop := ∀ loc, loc ∉ locs → Memory.get t.mem loc = Memory.get s.mem loc

/-! ### Frames -/

/-- Nothing but the thread `u` differs: every other thread, and every other part of the state, is as before. -/
structure OnlyThread (u : Nat) (s t : State) : Prop where
  others : ∀ v, v ≠ u → t.thr v = s.thr v
  rest : { t with threads := s.threads } = s
  bytes : SameBytes s t

/-- Nothing but the threads, and the counter of arrivals, differs. -/
structure OnlyThreadAndOrder (u : Nat) (s t : State) : Prop where
  others : ∀ v, v ≠ u → t.thr v = s.thr v
  rest : { t with threads := s.threads, fresh := s.fresh } = s
  bytes : SameBytes s t

/-- Nothing but the thread `u` and the record of core `g` differs. -/
structure OnlyThreadAndCore (u g : Nat) (s t : State) : Prop where
  others : ∀ v, v ≠ u → t.thr v = s.thr v
  cores : ∀ h, h ≠ g → t.core h = s.core h
  rest : { t with threads := s.threads, cores := s.cores } = s
  bytes : SameBytes s t

/-- Nothing but the thread `u` and the record of cluster `cl` differs. -/
structure OnlyThreadAndCluster (u cl : Nat) (s t : State) : Prop where
  others : ∀ v, v ≠ u → t.thr v = s.thr v
  clusters : ∀ h, h ≠ cl → t.cluster h = s.cluster h
  rest : { t with threads := s.threads, clusters := s.clusters } = s
  bytes : SameBytes s t

/-- Nothing but the thread `u` and the record of module `m` differs. -/
structure OnlyThreadAndModule (u m : Nat) (s t : State) : Prop where
  others : ∀ v, v ≠ u → t.thr v = s.thr v
  modules : ∀ h, h ≠ m → t.module h = s.module h
  rest : { t with threads := s.threads, modules := s.modules } = s
  bytes : SameBytes s t

/-- Nothing but the record of module `m` differs. -/
structure OnlyModule (m : Nat) (s t : State) : Prop where
  others : ∀ h, h ≠ m → t.module h = s.module h
  rest : { t with modules := s.modules } = s
  bytes : SameBytes s t

/-- Nothing but the record of cluster `cl` differs. -/
structure OnlyCluster (cl : Nat) (s t : State) : Prop where
  others : ∀ h, h ≠ cl → t.cluster h = s.cluster h
  rest : { t with clusters := s.clusters } = s
  bytes : SameBytes s t

/-- Nothing but the record of core `g` differs. -/
structure OnlyCore (g : Nat) (s t : State) : Prop where
  others : ∀ h, h ≠ g → t.core h = s.core h
  rest : { t with cores := s.cores } = s
  bytes : SameBytes s t

/-- Nothing but the record of die `d` differs. -/
structure OnlyDie (d : Nat) (s t : State) : Prop where
  others : ∀ h, h ≠ d → t.die h = s.die h
  rest : { t with dies := s.dies } = s
  bytes : SameBytes s t

/-! ### A completed instruction -/

/-- The thread `b` is the thread `a` after an instruction that is complete and wrote scalars: `w` gives the new value of each scalar
that is written, `f` the flags that are ORed into FFLAGS. Its PC moved on by 4 and the instruction counts (R288). Predicates, format
registers, generators, mode, and all the rest are as before. -/
structure Completed (w : Nat → Option Word) (f : BitVec 5) (a b : Thread) : Prop where
  scalars : ∀ n, n ≠ 0 → b.s n = (w n).getD (a.s n)
  zero : b.s 0 = 0
  flags : b.fflags = a.fflags ||| f
  pc : b.pc = a.pc + 4
  counted : b.insn = a.insn + 1
  awake : b.wait = .ready
  rest : { b with sreg := a.sreg, fflags := a.fflags, pc := a.pc, insn := a.insn, wait := a.wait, woke := a.woke } = a

/-- One scalar is written. -/
def one (d : BitVec 6) (v : Word) : Nat → Option Word := fun n => if n = d.toNat then some v else none

/-- Three consecutive scalars are written (R112). -/
def three (d : BitVec 6) (u v w : Word) : Nat → Option Word := fun n =>
  if n = d.toNat then some u else if n = d.toNat + 1 then some v else if n = d.toNat + 2 then some w else none

/-- No scalar is written. -/
def none_ : Nat → Option Word := fun _ => none

/-- The instruction of the thread that issues is complete, wrote scalars and flags of its thread, and changed nothing else. -/
def Wrote (w : Nat → Option Word) (f : BitVec 5) (s t : State) : Prop :=
  OnlyThread s.cur s t ∧ Completed w f s.me (t.thr s.cur)

/-- A control transfer of the thread that issues is complete: as `Completed`, with another next PC. -/
structure Jumped (w : Nat → Option Word) (pc : Word) (s t : State) : Prop where
  frame : OnlyThread s.cur s t
  scalars : ∀ n, n ≠ 0 → (t.thr s.cur).s n = (w n).getD (s.me.s n)
  zero : (t.thr s.cur).s 0 = 0
  pc : (t.thr s.cur).pc = pc
  counted : (t.thr s.cur).insn = s.me.insn + 1
  awake : (t.thr s.cur).wait = .ready
  rest : { t.thr s.cur with sreg := s.me.sreg, pc := s.me.pc, insn := s.me.insn, wait := s.me.wait } = s.me

/-- The thread `b` is the thread `a`, parked: only what it waits for differs; its PC stays at the instruction (R42). -/
structure ParkedThread (w : Wait) (a b : Thread) : Prop where
  waits : b.wait = w
  rest : { b with wait := a.wait } = a

/-- The thread that issues is parked, and nothing else changed. -/
def Parked (w : Wait) (s t : State) : Prop := OnlyThread s.cur s t ∧ ParkedThread w s.me (t.thr s.cur)

/-! ### Vector registers -/

/-- No lane of some window registers of the thread that issues is uncorrectable (R285). -/
def Clean (s : State) (regs : List (Nat × BitVec 32)) : Prop :=
  ∀ r ∈ regs, SMap.getD s.badRegs (threadCore s.cur * 4096 + s.phys s.cur r.1) 0 &&& r.2 = 0

/-- The instruction of the thread that issues is complete and wrote window register r: each lane of the mask holds `f` of its number,
the other lanes and every other register of the core keep their values. Scalars, predicates, flags, format registers, every other
thread and core and all of memory are as before; the lanes written are no longer uncorrectable (R285). -/
structure WroteVec (r : Nat) (mask : BitVec 32) (f : Nat → W32) (s t : State) : Prop where
  lanes : ∀ i, i < 32 → lane (t.vecAt s.cur r) i = if mask.getLsbD i then f i else lane (s.vecAt s.cur r) i
  others : ∀ k, k ≠ s.phys s.cur r →
    SMap.getD (t.core (threadCore s.cur)).store k 0 = SMap.getD (s.core (threadCore s.cur)).store k 0
  core : { t.core (threadCore s.cur) with
    store := (s.core (threadCore s.cur)).store, dirty := (s.core (threadCore s.cur)).dirty } = s.core (threadCore s.cur)
  thread : { t.thr s.cur with
    pc := s.me.pc, insn := s.me.insn, wait := s.me.wait, run := { (t.thr s.cur).run with undoRegs := s.me.run.undoRegs } } = s.me
  pc : (t.thr s.cur).pc = s.me.pc + 4
  counted : (t.thr s.cur).insn = s.me.insn + 1
  awake : (t.thr s.cur).wait = .ready
  threads : ∀ v, v ≠ s.cur → t.thr v = s.thr v
  cores : ∀ h, h ≠ threadCore s.cur → t.core h = s.core h
  bad : ∀ k, SMap.getD t.badRegs k 0 =
    if k = threadCore s.cur * 4096 + s.phys s.cur r then SMap.getD s.badRegs k 0 &&& ~~~mask else SMap.getD s.badRegs k 0
  rest : { t with threads := s.threads, cores := s.cores, badRegs := s.badRegs } = s
  bytes : SameBytes s t

/-- The instruction of the thread that issues is complete and wrote a predicate; p0 is never written (R56). -/
structure WrotePred (d : BitVec 6) (v : BitVec 32) (s t : State) : Prop where
  frame : OnlyThread s.cur s t
  preds : ∀ n, n ≠ 0 → (t.thr s.cur).p n = if n = d.toNat then v else s.me.p n
  ones : (t.thr s.cur).p 0 = BitVec.allOnes 32
  pc : (t.thr s.cur).pc = s.me.pc + 4
  counted : (t.thr s.cur).insn = s.me.insn + 1
  awake : (t.thr s.cur).wait = .ready
  rest : { t.thr s.cur with preg := s.me.preg, pc := s.me.pc, insn := s.me.insn, wait := s.me.wait } = s.me

/-! ### Traps -/

/-- The thread t has raised a precise trap outside every run: it is trapped at its PC, the record of kind 1 with the cause, the PC, the
trap value and the PC at which RESUME continues is the last one pending, and nothing else of any thread changed (R277). Core records
may hold a trace record more (R355). -/
structure Trapped (u cause : Nat) (tval tnpc : Word) (s t : State) : Prop where
  thread : ParkedThread .trapped (s.thr u) (t.thr u)
  others : ∀ v, v ≠ u → t.thr v = s.thr v
  record : t.records = s.records ++ [{ handle := threadHandle u, cause := cause, tpc := (s.thr u).pc, tval := tval, tnpc := tnpc
                                       region := s.recordRegion u }]
  cores : ∀ g, { t.core g with dbg := (s.core g).dbg } = s.core g
  rest : { t with threads := s.threads, cores := s.cores, records := s.records } = s
  bytes : SameBytes s t

end Sys2Proof.Machine
end

