-- ==== Sys2Proof/Certificates/Slice0/Obligations.lean ====
section
/-! DEFINITION. The statements for the provers, in the order of the manual's chapters. -/

open Sys2Proof Sys2Proof.Machine
/-! ### The machine: reset, steps, encodings (chapters 01, 04) -/

namespace Claim

/-- What reset leaves (R6, R56): no thread, no region, no task, no page or object of a switch, and nothing pending or in flight; no token is
held, no module has booted. That scalars, predicates and time are zero then is the model's choice (DESIGN CHOICE, log 1), and so is that memory lists
nothing (DESIGN CHOICE, log 6). -/
def ResetState : Prop :=
  State.reset.threads = [] ∧ State.reset.records = [] ∧ State.reset.net = [] ∧ State.reset.mem = [] ∧ State.reset.images = [] ∧
  (∀ t, (State.reset.thr t).live = false ∧ ∀ n, (State.reset.thr t).s n = 0) ∧
  (∀ t n, n ≠ 0 → (State.reset.thr t).p n = 0) ∧
  (∀ m, (State.reset.module m).regions = [] ∧ (State.reset.module m).rgnNum = 0 ∧ (State.reset.module m).ready = false) ∧
  (∀ g, (State.reset.core g).resident = none ∧ (State.reset.core g).deque = [] ∧ (State.reset.core g).present = 0) ∧
  (∀ c, (State.reset.cluster c).tasks = [] ∧ (State.reset.cluster c).copies = [] ∧ (State.reset.cluster c).streams = [] ∧
    (State.reset.cluster c).preBusy = false) ∧
  (∀ w, (State.reset.switch w).failed = false ∧ (State.reset.switch w).pages = [] ∧ (State.reset.switch w).objects = [] ∧
    (State.reset.switch w).tags = []) ∧
  (∀ d, (State.reset.die d).token = none ∧ (State.reset.die d).cycles = 0) ∧ State.reset.time = 0 ∧ State.reset.egress = [] ∧
  State.reset.xlines = [] ∧ State.reset.dirQueue = []

/-- A step runs the decoded instruction (R52, R68): with no move from outside and no event due, where thread t is the one that issues, its
fetch meets nothing, no breakpoint matches and the word fetched at its PC decodes to i, the step is `exec i` at the state that the fetch
leaves, followed by the end of the issue. An instruction that reads layout entries and has not read them yet runs with the entries that its
thread's table then holds, once they can be read (R124). Where no engine holds a line, no run is open and nothing waits at a directory, a fetch
meets nothing but its thread's own side log, and entries whose bytes are good are read at once (how a fetch waits is log 39). -/
def StepRunsDecoded : Prop :=
  (∀ (s u : State) (t : Nat) (w : BitVec 32) (i : Instr),
    s.agenda = [] → s.nextEvent = none → s.nextIssue = some t → (s.thr t).nextPc = none → s.meetFetch t = (s, none) →
    s.breakMatch t = none → (s.markIssue t).fetch t = (u, .word w) → decode w = .ok i →
    i.wellFormed = true ∧ (s.markIssue t).cur = t ∧ (s.markIssue t).mem = s.mem ∧
    (u.entriesOf i = [] ∨ u.me.entries.isSome = true →
      step s = (match exec i u with
        | .next r => .next (r.endIssue t !(s.thr t).parked)
        | .fault r => .fault r
        | .refused r => .refused r)) ∧
    ∀ v : State, u.entriesOf i ≠ [] → u.me.entries = none → u.meetEntries (u.agent u.cur) (u.entriesOf i) = (v, .ok) →
      (u.me.live = true → v.me.live = true) →
      step s = (match exec i (v.capture (u.entriesOf i)) with
        | .next r => .next (r.endIssue t !(s.thr t).parked)
        | .fault r => .fault r
        | .refused r => .refused r)) ∧
  (∀ (u : State) (t : Nat), u.xlines = [] → (∀ m, u.holders m = []) → u.dirQueue = [] → (u.core (threadCore t)).sideLog = [] →
    u.meetFetch t = (u, none)) ∧
  (∀ (u : State) (a : Agent) (ls : List Nat), u.xlines = [] → (∀ m, u.holders m = []) → u.dirQueue = [] → u.badMem = [] →
    u.meetEntries a ls = (u, .ok)) ∧
  ∀ (u : State) (ls : List Nat) (l : Nat), l ∈ ls →
    (u.capture ls).layoutEntry u.cur l = u.tableEntry u.cur l

/-- A word that does not decode raises ILLEGAL precisely with the word as the trap value (R68, R69). -/
def UndecodedWordTraps : Prop :=
  ∀ (s u : State) (t : Nat) (w : BitVec 32) (r : Reject),
    s.agenda = [] → s.nextEvent = none → s.nextIssue = some t → (s.thr t).nextPc = none → s.meetFetch t = (s, none) → s.breakMatch t = none →
    (s.markIssue t).fetch t = (u, .word w) → decode w = .error r →
    step s = .next ((u.trap causeILLEGAL (w.setWidth 64)).endIssue t !(s.thr t).parked)

end Claim

/-- A step runs the decoded instruction, or traps on a word that does not decode: `Claim.StepRunsDecoded`, `Claim.UndecodedWordTraps`. -/
def Obligations.StepRunsDecoded : Prop := Claim.StepRunsDecoded ∧ Claim.UndecodedWordTraps

namespace Claim

/-- Words written out from the encoding strips of R54, one or more of each format, with what each stands for: R, Q, I, S, B, J, U, M, V and X; each
word's fields stand from the strip's left to its right. -/
def DecodeSamples : Prop :=
  decode 0x04206188 = .ok (.srai 3 3 4) ∧            -- SRAI s3, s3, 4 (R97)
  decode 0x00002012 = .ok (.jalr 0 1 0) ∧            -- JALR s0, s1, 0 (R103)
  decode 0b0000000_000011_000010_000001_0000001 = .ok (.add 1 2 3) ∧
  decode 0b0000000_000001_000010_000011_0000010 = .ok (.mul 3 2 1) ∧
  decode 0b1111111111111_000001_000010_0000100 = .ok (.addi 2 1 0x1FFF) ∧
  decode 0b0000000_000000_000000_000000_1111010 = .ok .ecall ∧
  decode 0b0000001_000000_000000_000000_1111010 = .ok .ebreak ∧
  decode 0b0000010_000000_000000_000000_1111010 = .ok .tret ∧
  decode 0 = .ok .illegal ∧
  decode 0b0000001_000110_000101_000100_0000001 = .ok (.sub 4 5 6) ∧                -- R: SUB s4, s5, s6
  decode 0b0_000100_000011_000010_000001_0001010 = .ok (.csel 1 2 3 4) ∧            -- Q: CSEL s1, s2, s3, s4
  decode 0b0_000100_000011_000010_000001_0001101 = .ok (.fmadd 1 2 3 4) ∧           -- Q: FMADD s1, s2, s3, s4
  decode 0b0000000_001001_001000_000101_1101000 = .ok (.send 5 8 9) ∧               -- S: SEND s8, s9, 5
  decode 0b1111111101_001_000010_000001_0010000 = .ok (.br 1 2 1 0x3FD) ∧           -- B: off10 = -3, cond 1, b = s2, a = s1
  decode 0b1111111111111111111_000001_0010001 = .ok (.jal 1 0x7FFFF) ∧              -- J: JAL s1 with imm19 = -1
  decode 0b0000000000000000101_000010_0001011 = .ok (.lui 2 5) ∧                    -- U: LUI s2, 5
  decode 0b00_0_10_000100_00000011_000001_0100000 = .ok (.ld 1 3 4 2 0 0) ∧         -- M: LD.W s1, L3, s4
  decode 0b11_111_000100_00000001_001000_0100101 = .ok (.amo 8 1 4 7 3) ∧           -- M: AMO.CAS.AR s8, L1, s4
  decode 0b0000_011_000010_000001_000011_0110000 = .ok (.vadd 3 1 2 3) ∧            -- V: VADD v3, v1, v2, p3
  decode 0b000001_10_001011_001010_00010_1010000 = .ok (.mma 2 10 11 2 1 0)         -- X: MMA.ZERO acc2, s10, s11, fmt2

end Claim

/-- Words written out from the encoding strips decode to their instructions: `Claim.DecodeSamples`. -/
def Obligations.DecodeSamples : Prop := Claim.DecodeSamples

namespace Claim

/-- Decode and encode agree, one way: the word of every well-formed instruction decodes to that instruction, with every operand at every
value the encoding admits (R54 to R68). -/
def DecodeEncode : Prop := ∀ i : Instr, i.wellFormed = true → decode (encode i) = .ok i

/-- Decode and encode agree, the other way: a word that decodes is the word of a well-formed instruction, so two different words never
decode to one instruction, and no zero-class bit of a word is dropped (R55, R68). -/
def EncodeDecode : Prop := ∀ (w : BitVec 32) (i : Instr), decode w = .ok i → i.wellFormed = true ∧ encode i = w

end Claim

/-- Decode and encode agree on every well-formed instruction and on every word: `Claim.DecodeEncode`, `Claim.EncodeDecode`. -/
def Obligations.DecodeEncode : Prop := Claim.DecodeEncode ∧ Claim.EncodeDecode

namespace Claim

/-- The machine after reset is in canonical form: memory, and the maps of threads, cores, clusters, dies, modules and switches. -/
def ResetCanonical : Prop := State.reset.Canonical

end Claim

/-- The state after reset, and its canonical form: `Claim.ResetState`, `Claim.ResetCanonical`. -/
def Obligations.ResetState : Prop := Claim.ResetState ∧ Claim.ResetCanonical

namespace Claim

/-- Every step keeps the state in canonical form, from any such state, whatever the step is: an issue, an event, or a move from outside.
Memory lists its bytes by rising location, none equal to what an unlisted one reads as, and no unit of the machine is listed twice. -/
def StepKeepsCanonical : Prop := ∀ s t : State, s.Canonical → step s = .next t → t.Canonical

end Claim

/-- Every step keeps the canonical form of the state: `Claim.StepKeepsCanonical`. -/
def Obligations.StepKeepsCanonical : Prop := Claim.StepKeepsCanonical

namespace Claim

/-- Every instruction and every event of the table ends in a next state from every state, and so does every step: no state is stuck. -/
def EveryRunGoesOn : Prop := (∀ (i : Instr) (s : State), goesOn (exec i s)) ∧ ∀ s : State, Safe s

end Claim

/-- No state is stuck: every instruction, event and step has a next state: `Claim.EveryRunGoesOn`. -/
def Obligations.EveryRunGoesOn : Prop := Claim.EveryRunGoesOn

namespace Claim

/-- A byte of memory that is written reads back, and writing leaves every other byte as it was, in memory of the canonical form. -/
def MemoryReadsBack : Prop :=
  ∀ (m : Memory) (a : Nat) (b : Byte), Memory.wf m = true →
    Memory.wf (Memory.set m a b) = true ∧ Memory.get (Memory.set m a b) a = b ∧
    ∀ c, c ≠ a → Memory.get (Memory.set m a b) c = Memory.get m c

end Claim

/-! ### Scalar integer (chapter 07) -/

namespace Claim

/-- Opcode 0x01 (R94): the value of s[d] over the integers, the PC moves on by 4, and no other scalar, flag, register or byte changes.
A destination of s0 is discarded. -/
def ScalarArithmetic : Prop :=
  ∀ (d a b : BitVec 6) (s : State),
    let x := (s.sr a).toNat
    let y := (s.sr b).toNat
    let X := (s.sr a).toInt
    let Y := (s.sr b).toInt
    Does (.add d a b) s (Wrote (one d (BitVec.ofNat 64 (x + y))) 0 s) ∧
    Does (.sub d a b) s (Wrote (one d (BitVec.ofInt 64 (x - y : Int))) 0 s) ∧
    Does (.and d a b) s (Wrote (one d (BitVec.ofNat 64 (x &&& y))) 0 s) ∧
    Does (.or d a b) s (Wrote (one d (BitVec.ofNat 64 (x ||| y))) 0 s) ∧
    Does (.xor d a b) s (Wrote (one d (BitVec.ofNat 64 (x ^^^ y))) 0 s) ∧
    Does (.sll d a b) s (Wrote (one d (BitVec.ofNat 64 (x * 2 ^ (y % 64)))) 0 s) ∧
    Does (.srl d a b) s (Wrote (one d (BitVec.ofNat 64 (x / 2 ^ (y % 64)))) 0 s) ∧
    Does (.sra d a b) s (Wrote (one d (BitVec.ofInt 64 (X / 2 ^ (y % 64)))) 0 s) ∧
    Does (.slt d a b) s (Wrote (one d (if X < Y then 1 else 0)) 0 s) ∧
    Does (.sltu d a b) s (Wrote (one d (if x < y then 1 else 0)) 0 s) ∧
    Does (.seq d a b) s (Wrote (one d (if x = y then 1 else 0)) 0 s) ∧
    Does (.min d a b) s (Wrote (one d (BitVec.ofInt 64 (min X Y))) 0 s) ∧
    Does (.max d a b) s (Wrote (one d (BitVec.ofInt 64 (max X Y))) 0 s) ∧
    Does (.minu d a b) s (Wrote (one d (BitVec.ofNat 64 (min x y))) 0 s) ∧
    Does (.maxu d a b) s (Wrote (one d (BitVec.ofNat 64 (max x y))) 0 s)

/-- The products of R95, and the one-operand forms of R96: CLZ, CTZ and POPC by what they count, the extensions by value. -/
def ScalarProductsAndCounts : Prop :=
  ∀ (d a b : BitVec 6) (s : State),
    let x := (s.sr a).toNat
    let y := (s.sr b).toNat
    let X := (s.sr a).toInt
    let Y := (s.sr b).toInt
    Does (.mul d a b) s (Wrote (one d (BitVec.ofInt 64 (X * Y))) 0 s) ∧
    Does (.mulh d a b) s (Wrote (one d (BitVec.ofInt 64 (X * Y / 2 ^ 64))) 0 s) ∧
    Does (.mulhu d a b) s (Wrote (one d (BitVec.ofNat 64 (x * y / 2 ^ 64))) 0 s) ∧
    (∃ n, n ≤ 64 ∧ x < 2 ^ (64 - n) ∧ (n < 64 → 2 ^ (63 - n) ≤ x) ∧ Does (.clz d a) s (Wrote (one d (BitVec.ofNat 64 n)) 0 s)) ∧
    (∃ n, n ≤ 64 ∧ (∀ i, i < n → x.testBit i = false) ∧ (n < 64 → x.testBit n = true) ∧
      Does (.ctz d a) s (Wrote (one d (BitVec.ofNat 64 n)) 0 s)) ∧
    Does (.popc d a) s (Wrote (one d (BitVec.ofNat 64 ((Finset.range 64).filter fun i => x.testBit i).card)) 0 s) ∧
    Does (.sextb d a) s (Wrote (one d (BitVec.ofInt 64 (BitVec.ofNat 8 x).toInt)) 0 s) ∧
    Does (.sexth d a) s (Wrote (one d (BitVec.ofInt 64 (BitVec.ofNat 16 x).toInt)) 0 s) ∧
    Does (.sextw d a) s (Wrote (one d (BitVec.ofInt 64 (BitVec.ofNat 32 x).toInt)) 0 s) ∧
    Does (.zextw d a) s (Wrote (one d (BitVec.ofNat 64 (x % 2 ^ 32))) 0 s)

/-- The immediate forms, the selections, LUI and AUIPC (R97, R98). -/
def ScalarImmediates : Prop :=
  ∀ (d a b c n : BitVec 6) (i : BitVec 13) (j : BitVec 19) (s : State),
    let x := (s.sr a).toNat
    let X := (s.sr a).toInt
    Does (.addi d a i) s (Wrote (one d (BitVec.ofInt 64 (X + i.toInt))) 0 s) ∧
    Does (.andi d a i) s (Wrote (one d (s.sr a &&& BitVec.ofInt 64 i.toInt)) 0 s) ∧
    Does (.ori d a i) s (Wrote (one d (s.sr a ||| BitVec.ofInt 64 i.toInt)) 0 s) ∧
    Does (.xori d a i) s (Wrote (one d (s.sr a ^^^ BitVec.ofInt 64 i.toInt)) 0 s) ∧
    Does (.slli d a n) s (Wrote (one d (BitVec.ofNat 64 (x * 2 ^ n.toNat))) 0 s) ∧
    Does (.srli d a n) s (Wrote (one d (BitVec.ofNat 64 (x / 2 ^ n.toNat))) 0 s) ∧
    Does (.srai d a n) s (Wrote (one d (BitVec.ofInt 64 (X / 2 ^ n.toNat))) 0 s) ∧
    Does (.slti d a i) s (Wrote (one d (if X < i.toInt then 1 else 0)) 0 s) ∧
    Does (.csel d a b c) s (Wrote (one d (if s.sr c = 0 then s.sr b else s.sr a)) 0 s) ∧
    Does (.cselz d a b c) s (Wrote (one d (if s.sr c = 0 then s.sr a else s.sr b)) 0 s) ∧
    Does (.lui d j) s (Wrote (one d (BitVec.ofInt 64 (j.toInt * 2 ^ 13))) 0 s) ∧
    Does (.auipc d j) s (Wrote (one d (BitVec.ofInt 64 (s.me.pc.toInt + j.toInt * 2 ^ 13))) 0 s)

/-- The opcode and the function value of each word of R94, R96 and R98, with its operand fields: f7 [31:25], b [24:19], a [18:13], d [12:7] and
op [6:0]; CSEL and CSELZ have f1 [31] and c [30:25], LUI and AUIPC imm19 [31:13]. -/
def ScalarWords : Prop :=
  ∀ (d a b c : BitVec 6) (j : BitVec 19),
    let r (op f7 : Nat) (b : BitVec 6) : Nat := f7 * 2 ^ 25 + b.toNat * 2 ^ 19 + a.toNat * 2 ^ 13 + d.toNat * 2 ^ 7 + op
    let word (i : Instr) : Nat := (encode i).toNat
    word (.add d a b) = r 1 0 b ∧ word (.sub d a b) = r 1 1 b ∧ word (.and d a b) = r 1 2 b ∧ word (.or d a b) = r 1 3 b ∧
    word (.xor d a b) = r 1 4 b ∧ word (.sll d a b) = r 1 5 b ∧ word (.srl d a b) = r 1 6 b ∧ word (.sra d a b) = r 1 7 b ∧
    word (.slt d a b) = r 1 8 b ∧ word (.sltu d a b) = r 1 9 b ∧ word (.seq d a b) = r 1 10 b ∧ word (.min d a b) = r 1 11 b ∧
    word (.max d a b) = r 1 12 b ∧ word (.minu d a b) = r 1 13 b ∧ word (.maxu d a b) = r 1 14 b ∧
    word (.clz d a) = r 3 0 0 ∧ word (.ctz d a) = r 3 1 0 ∧ word (.popc d a) = r 3 2 0 ∧ word (.sextb d a) = r 3 3 0 ∧
    word (.sexth d a) = r 3 4 0 ∧ word (.sextw d a) = r 3 5 0 ∧ word (.zextw d a) = r 3 6 0 ∧
    word (.csel d a b c) = r 0x0A c.toNat b ∧ word (.cselz d a b c) = 2 ^ 31 + r 0x0A c.toNat b ∧
    word (.lui d j) = j.toNat * 2 ^ 13 + d.toNat * 2 ^ 7 + 0x0B ∧ word (.auipc d j) = j.toNat * 2 ^ 13 + d.toNat * 2 ^ 7 + 0x13

end Claim

/-- Scalar integer instructions: results, frame and words: `Claim.ScalarArithmetic`, `Claim.ScalarProductsAndCounts`,
`Claim.ScalarImmediates`, `Claim.ScalarWords`. -/
def Obligations.ScalarResults : Prop := Claim.ScalarArithmetic ∧ Claim.ScalarProductsAndCounts ∧ Claim.ScalarImmediates ∧ Claim.ScalarWords

namespace Claim

/-- The quotient and the remainder of R95, over the integers, with the results for a zero divisor. -/
def quotient (x y : Int) (none : Word) : Word := if y = 0 then none else BitVec.ofInt 64 (Int.tdiv x y)

/-- The remainder of R95: the dividend where the divisor is zero. -/
def remainder (x y : Int) : Word := if y = 0 then BitVec.ofInt 64 x else BitVec.ofInt 64 (x - y * Int.tdiv x y)

/-- Cycles of a divide (R93): 8 + ceil(q / 4) with q the length of the quotient's magnitude in bits; 8 where the divisor is zero. -/
def divideCycles (x y : Int) : Nat := if y = 0 then 8 else 8 + (Nat.size (Int.tdiv x y).natAbs + 3) / 4

/-- A divide parks its thread on the divider with its result and the cycle in which it is due, and changes nothing else (R93, R95). -/
def DividesPark : Prop :=
  ∀ (d a b : BitVec 6) (s : State),
    let x : Int := (s.sr a).toNat
    let y : Int := (s.sr b).toNat
    let X := (s.sr a).toInt
    let Y := (s.sr b).toInt
    let now := s.cycleOf s.cur
    Does (.div d a b) s (Parked (.result .int (now + divideCycles X Y) (.scalar d (quotient X Y (BitVec.allOnes 64)))) s) ∧
    Does (.divu d a b) s (Parked (.result .int (now + divideCycles x y) (.scalar d (quotient x y (BitVec.allOnes 64)))) s) ∧
    Does (.rem d a b) s (Parked (.result .int (now + divideCycles X Y) (.scalar d (remainder X Y))) s) ∧
    Does (.remu d a b) s (Parked (.result .int (now + divideCycles x y) (.scalar d (remainder x y))) s)

/-- The corners of R95: a zero divisor gives 2^64 - 1 and the dividend, and -2^63 divided by -1 gives 2^63 with remainder 0. -/
def DivideCorners : Prop :=
  (∀ x : Word, divSigned x 0 = BitVec.ofNat 64 (2 ^ 64 - 1) ∧ divUnsigned x 0 = BitVec.ofNat 64 (2 ^ 64 - 1)
    ∧ remSigned x 0 = x ∧ remUnsigned x 0 = x) ∧
  divSigned (BitVec.ofInt 64 (-2 ^ 63)) (BitVec.ofInt 64 (-1)) = BitVec.ofNat 64 (2 ^ 63) ∧
  remSigned (BitVec.ofInt 64 (-2 ^ 63)) (BitVec.ofInt 64 (-1)) = 0 ∧
  ∀ x y : Word, y ≠ 0 → ¬ (x = BitVec.ofInt 64 (-2 ^ 63) ∧ y = BitVec.ofInt 64 (-1)) →
    x.toInt = (divSigned x y).toInt * y.toInt + (remSigned x y).toInt ∧ |(remSigned x y).toInt| < |y.toInt| ∧
    ((remSigned x y).toInt = 0 ∨ ((remSigned x y).toInt < 0 ↔ x.toInt < 0))

end Claim

/-! ### Scalar FP32, divides that complete, control transfer (chapter 07) -/

namespace Claim

/-- The rational value of a finite number. -/
def rational : Machine.Num → Option ℚ
  | .fin neg m e => some ((if neg then -1 else 1) * (m : ℚ) * 2 ^ e)
  | _ => none

/-- The sums and the products that the FP32 instructions round are exact over the rationals (R99, R100, R189). -/
def ExactArithmetic : Prop :=
  ∀ (x y : Machine.Num) (p q : ℚ), rational x = some p → rational y = some q →
    rational (x.add y) = some (p + q) ∧ rational (x.mul y) = some (p * q) ∧ rational x.neg = some (-p)

/-- RoundRNE to FP32 (R99, R190): where the result is finite, no finite FP32 number lies nearer to the value, and the result is a
number of the value's sign; a value that is an FP32 number gives that number, with no flag. -/
def RoundToNearest : Prop :=
  ∀ (neg : Bool) (m : Nat) (e : Int) (r : ℚ), rational (num32 (round32 (.fin neg m e)).1) = some r →
    let v : ℚ := (if neg then -1 else 1) * (m : ℚ) * 2 ^ e
    (∀ (y : W32) (q : ℚ), rational (num32 y) = some q → |r - v| ≤ |q - v|) ∧
    (r = v ↔ (round32 (.fin neg m e)).2.getLsbD 0 = false) ∧
    (round32 (.fin neg m e)).1.getLsbD 31 = neg

/-- A result and its flags are the value v rounded once with RoundRNE to FP32 (R99, R190). At or above the midpoint (2^24 - 1/2) * 2^104 between
the largest finite number and 2^128 the result is infinite, with OF and NX. Below, it is a finite number to which none is nearer, of an even
mantissa where another is as near; NX is set exactly where it is not v, and UF with it exactly where v is below 2^-126 in magnitude. -/
structure Rounds (v : ℝ) (r : W32 × BitVec 5) : Prop where
  overflow : (33554431 : ℝ) * 2 ^ (103 : ℤ) ≤ |v| → (∃ n, num32 r.1 = .inf n ∧ (n = true ↔ v < 0)) ∧ r.2 = flagOF ||| flagNX
  finite : |v| < (33554431 : ℝ) * 2 ^ (103 : ℤ) → ∃ q : ℚ, rational (num32 r.1) = some q ∧
    (∀ (y : W32) (p : ℚ), rational (num32 y) = some p → |(q : ℝ) - v| ≤ |(p : ℝ) - v| ∧
      (p ≠ q → |(p : ℝ) - v| = |(q : ℝ) - v| → r.1.getLsbD 0 = false)) ∧
    ((q : ℝ) = v → r.2 = 0) ∧ ((q : ℝ) ≠ v → (2 : ℝ) ^ (-126 : ℤ) ≤ |v| → r.2 = flagNX) ∧
    ((q : ℝ) ≠ v → |v| < (2 : ℝ) ^ (-126 : ℤ) → r.2 = flagUF ||| flagNX)

/-- On finite operands FADD, FSUB, FMUL, FMADD, FDIV by a number that is not zero, and FSQRT of one that is not negative round the exact sum,
difference, product, product and sum, quotient and root once, and their flags are those of that rounding; so does every rounding of a
finite value (R99, R100). -/
def FloatRoundings : Prop :=
  (∀ (neg : Bool) (m : Nat) (e : Int), Rounds ((if neg then -1 else 1) * (m : ℝ) * 2 ^ e) (round32 (.fin neg m e))) ∧
  ∀ (x y z : W32) (p q r : ℚ), rational (num32 x) = some p → rational (num32 y) = some q → rational (num32 z) = some r →
    Rounds ((p : ℝ) + q) (fadd32 x y) ∧ Rounds ((p : ℝ) - q) (fsub32 x y) ∧ Rounds ((p : ℝ) * q) (fmul32 x y) ∧
    Rounds ((p : ℝ) * q + r) (fmadd32 x y z) ∧ (q ≠ 0 → Rounds ((p : ℝ) / q) (fdiv32 x y)) ∧ (0 ≤ p → Rounds (Real.sqrt p) (fsqrt32 x))

/-- FADD, FSUB, FMUL and FMADD write the exact result rounded once, with bits [63:32] zero, and OR the flags of the operation, which
`Claim.FloatRoundings` and `Claim.FloatSpecialCases` give, into FFLAGS; nothing else changes (R99, R100). -/
def FloatArithmetic : Prop :=
  ∀ (d a b c : BitVec 6) (s : State),
    let x := num32 (s.fp a)
    let y := num32 (s.fp b)
    let z := num32 (s.fp c)
    Does (.fadd d a b) s (Wrote (one d ((rne32 (x.add y)).setWidth 64)) (fadd32 (s.fp a) (s.fp b)).2 s) ∧
    Does (.fsub d a b) s (Wrote (one d ((rne32 (x.add y.neg)).setWidth 64)) (fsub32 (s.fp a) (s.fp b)).2 s) ∧
    Does (.fmul d a b) s (Wrote (one d ((rne32 (x.mul y)).setWidth 64)) (fmul32 (s.fp a) (s.fp b)).2 s) ∧
    Does (.fmadd d a b c) s (Wrote (one d ((rne32 ((x.mul y).add z)).setWidth 64)) (fmadd32 (s.fp a) (s.fp b) (s.fp c)).2 s)

/-- FDIV and FSQRT park their thread for 20 cycles with the rounded result and its flags, and change nothing else (R93, R100). -/
def FloatDividesPark : Prop :=
  ∀ (d a b : BitVec 6) (s : State),
    let now := s.cycleOf s.cur
    let q := fdiv32 (s.fp a) (s.fp b)
    let r := fsqrt32 (s.fp a)
    Does (.fdiv d a b) s (Parked (.result .fp (now + 20) (.flagged d (q.1.setWidth 64) q.2)) s) ∧
    Does (.fsqrt d a) s (Parked (.result .fp (now + 20) (.flagged d (r.1.setWidth 64) r.2)) s) ∧
    q.1 = rne32 ((num32 (s.fp a)).div (num32 (s.fp b))) ∧ r.1 = rne32 (num32 (s.fp a)).sqrt

/-- The special cases of R100 and the flags of R99: every NaN result is 0x7FC0_0000; NV is set by a signalling NaN and by an operation on
no NaN that gives one, DZ by a finite nonzero number over zero, and inf times zero sets NV in FMADD whatever the addend. -/
def FloatSpecialCases : Prop :=
  ∀ (x y z : W32),
    (isNan x = true ∨ isNan y = true → (fadd32 x y).1 = nan32 ∧ (fsub32 x y).1 = nan32 ∧ (fmul32 x y).1 = nan32 ∧ (fdiv32 x y).1 = nan32) ∧
    (isNan x = true → (fsqrt32 x).1 = nan32) ∧
    ((isSnan x || isSnan y) = true → (fadd32 x y).2.getLsbD 4 = true ∧ (fmul32 x y).2.getLsbD 4 = true ∧ (fdiv32 x y).2.getLsbD 4 = true) ∧
    (num32 x = .inf false → num32 y = .inf true → (fadd32 x y).1 = nan32 ∧ (fadd32 x y).2 = flagNV) ∧
    (∀ s t e, num32 x = .inf s → num32 y = .fin t 0 e →
      (fmul32 x y).1 = nan32 ∧ (fmul32 x y).2 = flagNV ∧ (fmadd32 x y z).1 = nan32 ∧ (fmadd32 x y z).2.getLsbD 4 = true) ∧
    (∀ s m e t f, num32 x = .fin s m e → m ≠ 0 → num32 y = .fin t 0 f →
      num32 (fdiv32 x y).1 = .inf (s != t) ∧ (fdiv32 x y).2 = flagDZ) ∧
    (∀ s t e f, num32 x = .fin s 0 e → num32 y = .fin t 0 f → (fdiv32 x y).1 = nan32 ∧ (fdiv32 x y).2 = flagNV) ∧
    (∀ m e, num32 x = .fin true m e → m ≠ 0 → (fsqrt32 x).1 = nan32 ∧ (fsqrt32 x).2 = flagNV) ∧
    (fsqrt32 0x80000000).1 = 0x80000000

end Claim

/-- Scalar FP32 arithmetic: exact values, rounding, flags, special cases: `Claim.ExactArithmetic`, `Claim.RoundToNearest`,
`Claim.FloatRoundings`, `Claim.FloatArithmetic`, `Claim.FloatSpecialCases`. -/
def Obligations.FloatResults : Prop :=
  Claim.ExactArithmetic ∧ Claim.RoundToNearest ∧ Claim.FloatRoundings ∧ Claim.FloatArithmetic ∧ Claim.FloatSpecialCases

namespace Claim

/-- A rational number rounded toward zero. -/
def towardZero (q : ℚ) : Int := if 0 ≤ q then ⌊q⌋ else ⌈q⌉

/-- FEQ, FLT, FTOI and ITOF by the values that they compare or convert (R101). -/
def FloatComparesAndConversions : Prop :=
  ∀ (d a b : BitVec 6) (s : State),
    let x := s.fp a
    let y := s.fp b
    let nv (c : Bool) : BitVec 5 := if c then flagNV else 0
    (isNan x = true ∨ isNan y = true →
      Does (.feq d a b) s (Wrote (one d 0) (nv (isSnan x || isSnan y)) s) ∧ Does (.flt d a b) s (Wrote (one d 0) flagNV s)) ∧
    (∀ p q, rational (num32 x) = some p → rational (num32 y) = some q →
      Does (.feq d a b) s (Wrote (one d (if p = q then 1 else 0)) 0 s) ∧ Does (.flt d a b) s (Wrote (one d (if p < q then 1 else 0)) 0 s)) ∧
    (∀ n, num32 x = .inf n → num32 y ≠ .nan →
      Does (.feq d a b) s (Wrote (one d (if num32 y = .inf n then 1 else 0)) 0 s) ∧
      Does (.flt d a b) s (Wrote (one d (if n = true ∧ num32 y ≠ .inf true then 1 else 0)) 0 s)) ∧
    (∀ p n, rational (num32 x) = some p → num32 y = .inf n →
      Does (.feq d a b) s (Wrote (one d 0) 0 s) ∧ Does (.flt d a b) s (Wrote (one d (if n then 0 else 1)) 0 s)) ∧
    (isNan x = true → Does (.ftoi d a) s (Wrote (one d 0) flagNV s)) ∧
    (∀ n, num32 x = .inf n →
      Does (.ftoi d a) s (Wrote (one d (BitVec.ofInt 64 (if n then -2 ^ 63 else 2 ^ 63 - 1))) flagNV s)) ∧
    (∀ p, rational (num32 x) = some p →
      Does (.ftoi d a) s (
        if 2 ^ 63 ≤ p then Wrote (one d (BitVec.ofInt 64 (2 ^ 63 - 1))) flagNV s
        else if p < -2 ^ 63 then Wrote (one d (BitVec.ofInt 64 (-2 ^ 63))) flagNV s
        else Wrote (one d (BitVec.ofInt 64 (towardZero p))) (if (towardZero p : ℚ) = p then 0 else flagNX) s)) ∧
    (let X := (s.sr a).toInt
     let r := rne32 (.fin (decide (X < 0)) X.natAbs 0)
     Does (.itof d a) s (Wrote (one d (r.setWidth 64)) (if rational (num32 r) = some (X : ℚ) then 0 else flagNX) s))

/-- The words of FEQ, FLT, FTOI and ITOF: f7 [31:25], b [24:19], a [18:13], d [12:7], op [6:0]; a word of FTOI's or ITOF's opcode whose b field is
not zero, and one with another f7, does not decode (R101, R55, R60). -/
def FloatWords : Prop :=
  (∀ (d a b : BitVec 6),
    let r (op f7 b : Nat) : Nat := f7 * 2 ^ 25 + b * 2 ^ 19 + a.toNat * 2 ^ 13 + d.toNat * 2 ^ 7 + op
    (encode (.feq d a b)).toNat = r 0x0E 0 b.toNat ∧ (encode (.flt d a b)).toNat = r 0x0E 1 b.toNat ∧
    (encode (.ftoi d a)).toNat = r 0x0F 0 0 ∧ (encode (.itof d a)).toNat = r 0x0F 1 0) ∧
  ∀ w : BitVec 32,
    (w.toNat % 128 = 0x0E → 2 ≤ w.toNat / 2 ^ 25 → (decode w).isOk = false) ∧
    (w.toNat % 128 = 0x0F → 2 ≤ w.toNat / 2 ^ 25 ∨ w.toNat / 2 ^ 19 % 64 ≠ 0 → (decode w).isOk = false)

end Claim

/-- FEQ, FLT, FTOI and ITOF: `Claim.FloatComparesAndConversions`, `Claim.FloatWords`. -/
def Obligations.FloatComparesAndConversions : Prop := Claim.FloatComparesAndConversions ∧ Claim.FloatWords

namespace Claim

/-- DIVIDE_COMPLETE, FP_DIVIDE_COMPLETE and VECTOR_DIVIDE_COMPLETE: a live thread parked on the unit wakes once the result is due, its
destination and flags are written in that step, its PC moves on, and before that nothing changes (R93, R196). -/
def DividesComplete : Prop :=
  ∀ (t due : Nat) (wb : Writeback) (s : State), (s.thr t).live = true →
    (due ≤ s.cycleOf t →
      ((s.thr t).wait = .result .int due wb → Does (.divideComplete t) s fun r => r = s.complete t wb) ∧
      ((s.thr t).wait = .result .fp due wb → Does (.fpDivideComplete t) s fun r => r = s.complete t wb) ∧
      ((s.thr t).wait = .result .vector due wb → Does (.vectorDivideComplete t) s fun r => r = s.complete t wb)) ∧
    (s.cycleOf t < due →
      ((s.thr t).wait = .result .int due wb → Does (.divideComplete t) s fun r => r = s) ∧
      ((s.thr t).wait = .result .fp due wb → Does (.fpDivideComplete t) s fun r => r = s) ∧
      ((s.thr t).wait = .result .vector due wb → Does (.vectorDivideComplete t) s fun r => r = s))

end Claim

/-- Divides and square roots park and complete with their result: `Claim.DividesPark`, `Claim.DivideCorners`, `Claim.DividesComplete`,
`Claim.FloatDividesPark`. -/
def Obligations.Divisions : Prop := Claim.DividesPark ∧ Claim.DivideCorners ∧ Claim.DividesComplete ∧ Claim.FloatDividesPark

namespace Claim

/-- What a parked thread's completion writes (R42, R93): the scalars and the flags, the next PC, one instruction more; the thread is
awake, and no other thread, register or byte changes. -/
def CompletionWrites : Prop :=
  ∀ (t : Nat) (d : BitVec 6) (u v w : Word) (f : BitVec 5) (s : State),
    let two : Nat → Option Word := fun n => if n = d.toNat + 1 then some v else if n = d.toNat then some u else none
    (OnlyThread t s (s.complete t .none) ∧ Completed none_ 0 (s.thr t) ((s.complete t .none).thr t)) ∧
    (OnlyThread t s (s.complete t (.scalar d u)) ∧ Completed (one d u) 0 (s.thr t) ((s.complete t (.scalar d u)).thr t)) ∧
    (OnlyThread t s (s.complete t (.flagged d u f)) ∧ Completed (one d u) f (s.thr t) ((s.complete t (.flagged d u f)).thr t)) ∧
    (OnlyThread t s (s.complete t (.pair d u v)) ∧ Completed two 0 (s.thr t) ((s.complete t (.pair d u v)).thr t)) ∧
    (OnlyThread t s (s.complete t (.triple d u v w)) ∧
      Completed (three d u v w) 0 (s.thr t) ((s.complete t (.triple d u v w)).thr t))

/-- A comparison of BR (R102). -/
def compares (n : BitVec 3) (x y : Word) : Prop :=
  (n = 0 ∧ x = y) ∨ (n = 1 ∧ x ≠ y) ∨ (n = 2 ∧ x.toInt < y.toInt) ∨ (n = 3 ∧ y.toInt ≤ x.toInt)
  ∨ (n = 4 ∧ x.toNat < y.toNat) ∨ (n = 5 ∧ y.toNat ≤ x.toNat)

/-- A condition of BRP (R102). -/
def tests (n : BitVec 3) (p : BitVec 32) : Prop :=
  (n = 0 ∧ ∃ i, p.getLsbD i = true) ∨ (n = 1 ∧ ∀ i, i < 32 → p.getLsbD i = true) ∨ (n = 2 ∧ ∀ i, p.getLsbD i = false)

/-- PC + 4 times a signed offset, modulo 2^64 (R102 to R104). -/
def target (pc : Word) (o : Int) : Word := BitVec.ofInt 64 (pc.toNat + 4 * o)

/-- BR, BRP and JAL: the next PC, the link, and nothing else (R102, R103). -/
def Branches : Prop :=
  ∀ (d a b : BitVec 6) (n : BitVec 3) (o : BitVec 10) (i : BitVec 19) (s : State),
    (compares n (s.sr a) (s.sr b) → Does (.br a b n o) s (Jumped none_ (target s.me.pc o.toInt) s)) ∧
    (¬ compares n (s.sr a) (s.sr b) → Does (.br a b n o) s (Jumped none_ (s.me.pc + 4) s)) ∧
    (tests n (s.pr a.toNat) → Does (.brp a n o) s (Jumped none_ (target s.me.pc o.toInt) s)) ∧
    (¬ tests n (s.pr a.toNat) → Does (.brp a n o) s (Jumped none_ (s.me.pc + 4) s)) ∧
    Does (.jal d i) s (Jumped (one d (s.me.pc + 4)) (target s.me.pc i.toInt) s)

/-- The words of JAL and JALR: imm19 [31:13], d [12:7], op 0x11; imm13 [31:19], a [18:13], d [12:7], op 0x12. JALR s0, s1, 0 is 0x0000_2012, and
writes nothing (R103, R57). -/
def JumpWords : Prop :=
  (∀ (d a : BitVec 6) (i : BitVec 13) (j : BitVec 19),
    (encode (.jal d j)).toNat = j.toNat * 2 ^ 13 + d.toNat * 2 ^ 7 + 0x11 ∧
    (encode (.jalr d a i)).toNat = i.toNat * 2 ^ 19 + a.toNat * 2 ^ 13 + d.toNat * 2 ^ 7 + 0x12) ∧
  encode (.jalr 0 1 0) = 0x00002012 ∧
  ∀ s : State, (s.sr 1).toNat % 4 = 0 → Does (.jalr 0 1 0) s (Jumped none_ (s.sr 1) s)

/-- JALR: the target is computed from s[a] as it was before; an aligned one is the next PC and the link is written; one that is no multiple
of 4 raises ALIGN precisely with the target, and neither d nor the PC changes (R103). -/
def IndirectJump : Prop :=
  ∀ (d a : BitVec 6) (i : BitVec 13) (s : State),
    let t := BitVec.ofInt 64 ((s.sr a).toNat + i.toInt)
    (t.toNat % 4 = 0 → Does (.jalr d a i) s (Jumped (one d (s.me.pc + 4)) t s)) ∧
    (t.toNat % 4 ≠ 0 → s.me.run.active = false → s.me.run.ordered = false →
      Does (.jalr d a i) s (Trapped s.cur causeALIGN t s.me.pc s))

end Claim

/-- Branches, JAL and JALR: `Claim.Branches`, `Claim.JumpWords`, `Claim.IndirectJump`. -/
def Obligations.ControlTransfers : Prop := Claim.Branches ∧ Claim.JumpWords ∧ Claim.IndirectJump

/-! ### Tasks, signals, deques, mailboxes, barriers (chapters 02, 07) -/

namespace Claim

/-- The thread that issues is in no run. -/
def NoRun (s : State) : Prop := s.me.run.active = false ∧ s.me.run.ordered = false

/-- A release of the thread that issues finds nothing outstanding: no posted access, no reported error, no side-log entry of its own
(R144). -/
def Settled (s : State) : Prop :=
  s.me.posted = 0 ∧ s.me.postedErr = none ∧ (s.core (threadCore s.cur)).hasLogOf s.cur = false

/-- The instruction of the thread that issues joins the requests that its run holds, writes the scalars of w, is complete, and changes nothing
else: its thread wakes at once (R111). -/
structure HeldWith (r : HeldReq) (w : Nat → Option Word) (s t : State) : Prop where
  frame : OnlyThread s.cur s t
  held : (t.thr s.cur).run.held = s.me.run.held ++ [r]
  run : { (t.thr s.cur).run with held := s.me.run.held } = s.me.run
  thread : Completed w 0 s.me { t.thr s.cur with run := s.me.run }

/-- The core's deque becomes q, its thread wrote the scalars of w and is complete, and nothing else changes. -/
structure DequeIs (q : List DqEntry) (w : Nat → Option Word) (s t : State) : Prop where
  frame : OnlyThreadAndCore s.cur (threadCore s.cur) s t
  core : t.core (threadCore s.cur) = { s.core (threadCore s.cur) with deque := q }
  thread : Completed w 0 s.me (t.thr s.cur)

/-- The fixed-latency deque instructions (R49, R112), by what the deque holds before and after, and what the destination group receives. -/
def DequeOperations : Prop :=
  ∀ (d a : BitVec 6) (s : State), isCcc s.cur = false →
    let q := s.deque
    let e : DqEntry := { lo := s.sr a, hi := s.srN (a.toNat + 1), tag := (s.srN (a.toNat + 2)).setWidth 16 }
    let out (e : DqEntry) (k : Nat) := three d e.lo (e.lo + BitVec.ofNat 64 k) (e.tag.setWidth 64)
    (e.hi.toNat ≤ e.lo.toNat → Does (.dqpush a) s (Wrote none_ 0 s)) ∧
    (e.lo.toNat < e.hi.toNat → q.length < 64 → Does (.dqpush a) s (DequeIs (q ++ [e]) none_ s)) ∧
    (e.lo.toNat < e.hi.toNat → 64 ≤ q.length → NoRun s → Does (.dqpush a) s (Trapped s.cur causeQUOTA 0 s.me.pc s)) ∧
    (q = [] → Does (.dqpop d) s (Wrote (three d 0 0 0) 0 s) ∧ Does (.dqsplit d a) s (Wrote (three d 0 0 0) 0 s)) ∧
    (∀ r x, q = r ++ [x] → Does (.dqpop d) s (DequeIs r (three d x.lo x.hi (x.tag.setWidth 64)) s)) ∧
    (s.sr a = 0 → Does (.dqsplit d a) s (Wrote (three d 0 0 0) 0 s)) ∧
    (∀ r x, q = r ++ [x] → x.lo.toNat < x.hi.toNat → s.sr a ≠ 0 →
      let k := min (s.sr a).toNat (x.hi.toNat - x.lo.toNat)
      (k < x.hi.toNat - x.lo.toNat →
        Does (.dqsplit d a) s (DequeIs (r ++ [{ x with lo := x.lo + BitVec.ofNat 64 k }]) (out x k) s)) ∧
      (k = x.hi.toNat - x.lo.toNat → Does (.dqsplit d a) s (DequeIs r (three d x.lo x.hi (x.tag.setWidth 64)) s))) ∧
    Does (.dqcount d) s (Wrote (one d (BitVec.ofNat 64 q.length)) 0 s)

/-- DQSTEAL parks its thread, and acts on the deques after the cycle of its issue, so that a deque's own operations of that cycle come first
(R49): with no victim in reach the group receives zeros; a victim loses the upper half of its first entry that splits (R50, R112). The
response counts in bank 63 of the thief's core (R358). -/
def DequeSteal : Prop :=
  (∀ (d : BitVec 6) (s : State), isCcc s.cur = false → Does (.dqsteal d) s (Parked (.steal d (s.cycleOf s.cur)) s)) ∧
  ∀ (u issued : Nat) (d : BitVec 6) (delay : BitVec 16) (s : State), (s.thr u).live = true → (s.thr u).wait = .steal d issued →
    (s.cycleOf u ≤ issued → Does (.accessResponse u delay) s fun t => t = s) ∧
    (issued < s.cycleOf u → s.victim u = none → Does (.accessResponse u delay) s fun t =>
      (∀ g, { t.core g with dbg := (s.core g).dbg } = s.core g) ∧ (∀ v, v ≠ u → t.thr v = s.thr v) ∧
      Completed (three d 0 0 0) 0 (s.thr u) (t.thr u) ∧
      (isCcc u = false → SMap.getD (t.core (threadCore u)).dbg.dcnt 63 0 = SMap.getD (s.core (threadCore u)).dbg.dcnt 63 0 + 1) ∧
      { t with threads := s.threads, cores := s.cores, fresh := s.fresh } = s ∧ SameBytes s t) ∧
    (issued < s.cycleOf u → ∀ g p x q, s.victim u = some g → (s.core g).deque = p ++ x :: q → (∀ y ∈ p, y.splits = false) →
      x.splits = true → Does (.accessResponse u delay) s fun t =>
        let mid := x.lo + BitVec.ofNat 64 ((x.hi.toNat - x.lo.toNat) / 2)
        { t.core g with dbg := (s.core g).dbg } = { s.core g with deque := p ++ { x with hi := mid } :: q } ∧
        Completed (three d mid x.hi (x.tag.setWidth 64)) 0 (s.thr u) (t.thr u) ∧
        (∀ h, h ≠ g → { t.core h with dbg := (s.core h).dbg } = s.core h) ∧ (∀ v, v ≠ u → t.thr v = s.thr v) ∧
        { t with threads := s.threads, cores := s.cores, fresh := s.fresh } = s ∧ SameBytes s t)

end Claim

/-- The range deque: push, pop, split, count and steal: `Claim.DequeOperations`, `Claim.DequeSteal`. -/
def Obligations.RangeDeque : Prop := Claim.DequeOperations ∧ Claim.DequeSteal

namespace Claim

/-- TSPAWN whose word names a slice of the module and whose register holds an acceptable descriptor: the thread is parked with the code of
R108 — the slot it took, -1 where the slice refuses it, -2 where no slice has room — and in the last two cases nothing is entered. -/
def Spawn : Prop :=
  ∀ (d a b : BitVec 6) (cl : Nat) (s : State), NoRun s → Settled s →
    (s.sr a).toNat < s.w → Clean s [((s.sr a).toNat, 0xFFFF)] →
    (s.sr b).toNat < 2 ^ 17 → selectCluster s.cur (s.sr b).toNat = some cl →
    let desc := (s.vec (s.sr a).toNat).setWidth 512
    dEntry desc < 2 ^ 57 → dAccn desc ≤ 32 →
    (s.descriptorOk cl desc (s.mayReach s.cur) = false →
      Does (.tspawn d a b) s (Parked (.response 63 (.scalar d (BitVec.ofInt 64 (-1)))) s)) ∧
    (s.descriptorOk cl desc (s.mayReach s.cur) = true → s.firstFree (if dCntv desc then [cl] else dieClusters cl) = none →
      Does (.tspawn d a b) s (Parked (.response 63 (.scalar d (BitVec.ofInt 64 (-2)))) s)) ∧
    (∀ c n, s.firstFree (if dCntv desc then [cl] else dieClusters cl) = some (c, n) →
      s.descriptorOk cl desc (s.mayReach s.cur) = true →
      Does (.tspawn d a b) s fun t =>
        ParkedThread (.response 63 (.scalar d (BitVec.ofNat 64 (c * 1024 + n)))) s.me (t.thr s.cur) ∧
        (∀ v, v ≠ s.cur → t.thr v = s.thr v) ∧ (∀ h, h ≠ c → t.cluster h = s.cluster h) ∧
        (t.task c n).desc = desc ∧ (t.task c n).home = c ∧
        (t.task c n).state = (if dCntv desc = true ∧ (s.counter c (dCnt desc)).value ≠ 0 then .waiting else .ready) ∧
        (∀ k, k ≠ n → t.task c k = s.task c k) ∧ (∀ g, { t.core g with dbg := (s.core g).dbg } = s.core g) ∧
        { t with threads := s.threads, clusters := s.clusters, cores := s.cores, fresh := s.fresh } = s ∧ SameBytes s t)

/-- TSPAWN inside a run, but that of an ordered descriptor in an ordered run, is held with the descriptor and the slice it names, writes -3
and wakes at once; nothing is entered (R111). -/
def SpawnHeld : Prop :=
  ∀ (d a b : BitVec 6) (cl : Nat) (s : State), (s.sr a).toNat < s.w → Clean s [((s.sr a).toNat, 0xFFFF)] →
    (s.sr b).toNat < 2 ^ 17 → selectCluster s.cur (s.sr b).toNat = some cl →
    let desc := (s.vec (s.sr a).toNat).setWidth 512
    dEntry desc < 2 ^ 57 → dAccn desc ≤ 32 → s.me.run.active = true → (s.me.run.ordered = false ∨ dOrd desc = false) →
    Does (.tspawn d a b) s
      (HeldWith { instr := .tspawn d a b, args := [desc.toNat, cl] } (one d (BitVec.ofInt 64 (-3))) s)

/-- The precise traps of TSPAWN, before any request leaves the core (R107, R108): an index past the window, a selector of another module
or with bits above, a descriptor with ENTRY[63:57] or with more than 32 tiles. That they are raised in this order, and that REMOTE_DENIED
records bits [16:0] of the word, is the model's choice (log 15). -/
def SpawnTraps : Prop :=
  ∀ (d a b : BitVec 6) (s : State), NoRun s →
    let r := (s.sr a).toNat
    let sel := (s.sr b).toNat
    (s.w ≤ r → Does (.tspawn d a b) s fun t =>
      ∃ v, Trapped s.cur causeLAYOUT v s.me.pc s t ∧ v.getLsbD 63 = true ∧ (r < 2 ^ 63 → v.toNat = 2 ^ 63 + r)) ∧
    (r < s.w → Clean s [(r, 0xFFFF)] → 2 ^ 17 ≤ sel ∨ selectCluster s.cur sel = none →
      Does (.tspawn d a b) s (Trapped s.cur causeREMOTE (BitVec.ofNat 64 (sel % 2 ^ 17)) s.me.pc s)) ∧
    (∀ cl, r < s.w → Clean s [(r, 0xFFFF)] → sel < 2 ^ 17 → selectCluster s.cur sel = some cl →
      2 ^ 57 ≤ dEntry ((s.vec r).setWidth 512) ∨ 32 < dAccn ((s.vec r).setWidth 512) →
      Does (.tspawn d a b) s (Trapped s.cur causeILLEGAL ((encode (.tspawn d a b)).setWidth 64) s.me.pc s))

end Claim

/-- TSPAWN: entry, refusals, the held form and traps: `Claim.Spawn`, `Claim.SpawnHeld`, `Claim.SpawnTraps`. -/
def Obligations.SpawningTasks : Prop := Claim.Spawn ∧ Claim.SpawnHeld ∧ Claim.SpawnTraps

namespace Claim

/-- The value of a counter after a delta, and whether a decrement passed zero (R35, R109). -/
def signalled (v : Nat) (delta : Int) : Nat := (min (max ((v : Int) + delta) 0) 16777215).toNat

/-- TSIGNAL: the counter's new value saturates at both ends, UNDER records a decrement below zero, a bound counter that comes to zero
readies its task and unbinds, and the thread is parked for the acknowledgement; the region check comes first, and a delta of zero changes
nothing (R35, R109). -/
def Signal : Prop :=
  ∀ (a b : BitVec 6) (i : BitVec 13) (cl c : Nat) (s : State), NoRun s → Settled s →
    (s.sr a).toNat < 2 ^ 29 → c = (s.sr a).toNat % 4096 →
    selectCluster s.cur ((s.sr a).toNat / 4096) = some cl →
    let k := s.counter cl c
    let delta := (s.sr b + BitVec.ofInt 64 i.toInt).toInt
    let v := signalled k.value delta
    (s.signalOk s.cur cl c = false →
      Does (.tsignal a b i) s (Trapped s.cur causeREMOTE (BitVec.ofNat 64 ((s.sr a).toNat / 4096)) s.me.pc s)) ∧
    (s.signalOk s.cur cl c = true → delta = 0 → Does (.tsignal a b i) s (Parked (.response 63 .none) s)) ∧
    (s.signalOk s.cur cl c = true → delta ≠ 0 → k.value ≤ 16777215 → Does (.tsignal a b i) s fun t =>
      ParkedThread (.response 63 .none) s.me (t.thr s.cur) ∧ (∀ u, u ≠ s.cur → t.thr u = s.thr u) ∧
      (∀ h, h ≠ cl → t.cluster h = s.cluster h) ∧ (∀ n, n ≠ c → t.counter cl n = s.counter cl n) ∧
      (t.counter cl c).value = v ∧ (t.counter cl c).status = k.status ∧
      (t.counter cl c).under = (k.under || decide ((k.value : Int) + delta < 0)) ∧
      (t.counter cl c).bound = (if k.value ≠ 0 ∧ v = 0 then none else k.bound) ∧
      (∀ slot, k.bound = some slot → k.value ≠ 0 → v = 0 → (t.task cl slot).state = .ready) ∧
      (∀ slot, k.bound ≠ some slot → t.task cl slot = s.task cl slot) ∧
      (∀ g, { t.core g with dbg := (s.core g).dbg } = s.core g) ∧
      { t with threads := s.threads, cores := s.cores, clusters := s.clusters, fresh := s.fresh } = s ∧ SameBytes s t)

/-- TSIGNAL inside a run is held with the counter and the delta, and wakes at once; no counter changes (R111). -/
def SignalHeld : Prop :=
  ∀ (a b : BitVec 6) (i : BitVec 13) (cl : Nat) (s : State), s.me.run.active = true →
    (s.sr a).toNat < 2 ^ 29 → selectCluster s.cur ((s.sr a).toNat / 4096) = some cl →
    Does (.tsignal a b i) s (HeldWith { instr := .tsignal a b i, args :=
      [cl, (s.sr a).toNat % 4096, (s.sr b + BitVec.ofInt 64 i.toInt).toNat, (s.sr a).toNat / 4096] } none_ s)

/-- TSIGNAL with a selector of another module, or with s[a][63:29] not zero, raises REMOTE_DENIED and changes nothing (R107, R109). -/
def SignalDenied : Prop :=
  ∀ (a b : BitVec 6) (i : BitVec 13) (s : State), NoRun s →
    2 ^ 29 ≤ (s.sr a).toNat ∨ selectCluster s.cur ((s.sr a).toNat / 4096) = none →
    Does (.tsignal a b i) s (Trapped s.cur causeREMOTE (BitVec.ofNat 64 ((s.sr a).toNat / 4096 % 2 ^ 17)) s.me.pc s)

end Claim

/-- TSIGNAL: dependence counters, readiness, the held form and denial: `Claim.Signal`, `Claim.SignalHeld`, `Claim.SignalDenied`. -/
def Obligations.SignallingCounters : Prop := Claim.Signal ∧ Claim.SignalHeld ∧ Claim.SignalDenied

namespace Claim

/-- TEND of an unordered task and YIELD: the thread leaves its slot, its scalars and window with it; the task is gone, or ready again with
the entry, the arguments and CNTV of R106; memory does not change (R105, R106). The deque and the mailboxes stay as they are, also when the
thread was the last one on its core (log 34). -/
def TaskEndAndYield : Prop :=
  ∀ s : State, isCcc s.cur = false → NoRun s → s.me.depth = 0 → s.me.ordered = false →
    let cl := s.me.slice
    let n := s.me.dslot
    let x := s.task cl n
    Does .tend s (fun t =>
      (t.thr s.cur).live = false ∧ SMap.has (t.cluster cl).tasks n = false ∧ (∀ v, v ≠ s.cur → t.thr v = s.thr v) ∧
      (∀ c k, (c, k) ≠ (cl, n) → t.task c k = s.task c k) ∧
      (∀ g, (t.core g).store = (s.core g).store ∧ (t.core g).deque = (s.core g).deque ∧ (t.core g).mail = (s.core g).mail ∧
        (t.core g).sideLog = (s.core g).sideLog) ∧
      t.records = s.records ∧ t.modules = s.modules ∧ SameBytes s t) ∧
    Does .yield s (fun t =>
      (t.thr s.cur).live = false ∧ (∀ v, v ≠ s.cur → t.thr v = s.thr v) ∧
      (∀ c k, (c, k) ≠ (cl, n) → t.task c k = s.task c k) ∧
      (t.task cl n).state = .ready ∧ (t.task cl n).aged = 0 ∧ (t.task cl n).readyTick = s.ticks ∧
      dEntry (t.task cl n).desc = (s.me.pc + 4).toNat ∧
      (∀ i, 1 ≤ i → i ≤ 4 → dArg (t.task cl n).desc i = (s.srN i).toNat) ∧ dCntv (t.task cl n).desc = false ∧
      (t.task cl n).desc.extractLsb' 395 117 = x.desc.extractLsb' 395 117 ∧ dRegion (t.task cl n).desc = dRegion x.desc ∧
      t.records = s.records ∧ t.modules = s.modules ∧ SameBytes s t)

end Claim

/-- TEND and YIELD free the thread slot: `Claim.TaskEndAndYield`. -/
def Obligations.TaskEndAndYield : Prop := Claim.TaskEndAndYield

namespace Claim

/-- SEND, MRECV and MPOLL (R113 to R115). A SEND takes its place among the packets when it issues, at its source where that has 256 packets
that its destination has not acknowledged (R324); one whose release waits for R144 is gated there; inside a run it is held (R111). The trap
value of REMOTE_DENIED is the whole of s[a] (log 80). -/
def Mailboxes : Prop :=
  ∀ (i : BitVec 5) (d a b : BitVec 6) (s : State),
    let g := threadCore s.cur
    let c := s.core g
    let dest := (s.sr a).toNat
    (NoRun s → dest < 936 * 1024 → Does (.send i a b) s fun t =>
      (t.thr s.cur).wait = .send ∧ { t.thr s.cur with wait := s.me.wait, seqs := s.me.seqs } = s.me ∧
      (∀ v, v ≠ s.cur → t.thr v = s.thr v) ∧ { t with threads := s.threads, net := s.net, egress := s.egress } = s ∧
      ∃ p q, p.kind = 4 ∧ p.thread = s.cur ∧ p.from_ = threadModule s.cur ∧ p.dest = dest / 1024 ∧ p.addr = dest ∧ p.aux = i.toNat ∧
        p.payload = leBytes 8 (s.sr b).toNat ∧ p.gate = decide (s.releaseStatus s.cur true ≠ .go) ∧ (Settled s → p.gate = false) ∧
        { q with seq := p.seq, cls := p.cls, len := p.len, plane := p.plane, route := p.route, via := p.via } = p ∧
        ((∀ x ∈ s.egress, x.before p = false) → unackedIn s.net s.cur false p.dest < 256 → t.net = s.net ++ [q] ∧ t.egress = s.egress) ∧
        ((∃ x ∈ s.egress, x.before p = true) ∨ 256 ≤ unackedIn s.net s.cur false p.dest →
          t.net = s.net ∧ t.egress = s.egress ++ [p])) ∧
    (s.me.run.active = true → dest < 936 * 1024 → Does (.send i a b) s
      (HeldWith { instr := .send i a b, args := [dest, i.toNat, (s.sr b).toNat] } none_ s)) ∧
    (NoRun s → 936 * 1024 ≤ dest → Does (.send i a b) s (Trapped s.cur causeREMOTE (s.sr a) s.me.pc s)) ∧
    (isCcc s.cur = false → c.present.getLsbD a.toNat = true → a.toNat < 32 → Does (.mrecv d a) s fun t =>
      OnlyThreadAndCore s.cur g s t ∧ Completed (one d (SMap.getD c.mail a.toNat 0)) 0 s.me (t.thr s.cur) ∧
      (∀ m, m ≠ a.toNat → SMap.getD (t.core g).mail m 0 = SMap.getD c.mail m 0) ∧
      (∀ m, m ≠ a.toNat → (t.core g).present.getLsbD m = c.present.getLsbD m) ∧
      ((∀ q ∈ c.inbound, q.1 ≠ a.toNat) → (t.core g).present.getLsbD a.toNat = false ∧ (t.core g).inbound = c.inbound) ∧
      (∀ p q v, c.inbound = p ++ (a.toNat, v) :: q → (∀ y ∈ p, y.1 ≠ a.toNat) →
        (t.core g).present.getLsbD a.toNat = true ∧ SMap.getD (t.core g).mail a.toNat 0 = v ∧ (t.core g).inbound = p ++ q)) ∧
    (isCcc s.cur = false → c.present.getLsbD a.toNat = false → Does (.mrecv d a) s fun t =>
      OnlyThreadAndOrder s.cur s t ∧ ParkedThread (.mrecv d a.toNat s.fresh) s.me (t.thr s.cur)) ∧
    (isCcc s.cur = false → Does (.mpoll d) s
      (Wrote (one d (BitVec.ofNat 64 (c.present.toNat + c.inbound.length * 2 ^ 32))) 0 s))

end Claim

/-- SEND, MRECV and MPOLL: `Claim.Mailboxes`. -/
def Obligations.Mailboxes : Prop := Claim.Mailboxes

namespace Claim

/-- BARCFG, BARRIER and BARPOLL (R116 to R119): the result codes in the order of the checks, the object that a code 0 leaves, an arrival
that is not the last, the last arrival with the wake of the phase's threads, and the poll. The model chose who owns the object that a CCC
thread configures, and that user code there with RGNV 0 gets code 1 (log 65); that BARPOLL reads all ones for a number of 4096 or above is
its reading (log 49), and the trap value of REMOTE_DENIED its choice (log 80). -/
def Barriers : Prop :=
  ∀ (d a : BitVec 6) (s : State),
    let m := threadModule s.cur
    let x := (s.sr a).toNat
    let n := x % 4096
    let count := (s.srN (a.toNat + 1)).toNat
    let ctr := (s.srN (a.toNat + 2)).toNat
    let must := (s.srN (a.toNat + 3)).toNat
    let own := s.execRegion s.cur
    let sel := selectCluster s.cur (ctr / 4096 % 2 ^ 17)
    let parks (code : Nat) := Does (.barcfg d a) s (Parked (.response 63 (.scalar d (BitVec.ofNat 64 code))) s)
    let may := (s.actsFor s.cur).isSome = true ∨ s.supervisor s.cur = true
    let free := may ∧ ∀ b, s.barrier m n = some b → (b.owner = own ∨ s.supervisor s.cur = true) ∧ b.arrivals = 0
    let shape := x < 4096 ∧ (ctr / 2 ^ 29) % 2 ^ 34 = 0 ∧ must = 0
    (∀ b, s.barrier m n = some b → b.owner ≠ own → s.supervisor s.cur = false → parks 1) ∧
    (s.actsFor s.cur = none → s.supervisor s.cur = false → parks 1) ∧
    (free → 16384 < count → parks 2) ∧
    (free → count ≤ 16384 → ¬ shape → parks 3) ∧
    (∀ b, s.barrier m n = some b → may → b.owner = own ∨ s.supervisor s.cur = true → b.arrivals ≠ 0 → count ≤ 16384 → shape → ctr < 2 ^ 63 → parks 4) ∧
    (free → count ≤ 16384 → shape → 2 ^ 63 ≤ ctr →
      sel = none → parks 5) ∧
    (free → count ≤ 16384 → shape → (ctr < 2 ^ 63 ∨ sel.isSome = true) → Does (.barcfg d a) s fun t =>
      OnlyThreadAndModule s.cur m s t ∧ ParkedThread (.response 63 (.scalar d 0)) s.me (t.thr s.cur) ∧
      t.barrier m n = (if count = 0 then none else some { owner := own, count := count, arrivals := 0, phase := 0,
                                                           ctr := if ctr < 2 ^ 63 then none else sel.map (· * 4096 + ctr % 4096) }) ∧
      { t.module m with barriers := (s.module m).barriers } = s.module m ∧ ∀ k, k ≠ n → t.barrier m k = s.barrier m k) ∧
    (∀ b, s.barrier m x = some b → x < 4096 → s.mayArrive s.cur b = true → NoRun s → Settled s → b.arrivals + 1 < b.count →
      Does (.barrier a) s fun t =>
        ParkedThread (.barrier x b.phase) s.me (t.thr s.cur) ∧ (∀ v, v ≠ s.cur → t.thr v = s.thr v) ∧
        t.barrier m x = some { b with arrivals := b.arrivals + 1 } ∧ (∀ k, k ≠ x → t.barrier m k = s.barrier m k) ∧
        (∀ g, { t.core g with dbg := (s.core g).dbg } = s.core g) ∧
        { t with threads := s.threads, cores := s.cores, modules := s.modules } = s ∧ SameBytes s t) ∧
    (∀ b, s.barrier m x = some b → x < 4096 → s.mayArrive s.cur b = true → NoRun s → Settled s → b.count ≤ b.arrivals + 1 →
      s.me.live = true → s.threads.Ok → Does (.barrier a) s fun t =>
        t.barrier m x = some { b with arrivals := 0, phase := (b.phase + 1) % 2 ^ 32 } ∧
        Completed none_ 0 s.me (t.thr s.cur) ∧
        (∀ v, v ≠ s.cur → (s.thr v).live = true → threadModule v = m → (s.thr v).wait = .barrier x b.phase →
          Completed none_ 0 (s.thr v) (t.thr v)) ∧
        (∀ v, v ≠ s.cur → ((s.thr v).live = false ∨ threadModule v ≠ m ∨ (s.thr v).wait ≠ .barrier x b.phase) → t.thr v = s.thr v) ∧
        (b.ctr = none → t.clusters = s.clusters) ∧ SameBytes s t) ∧
    ((4096 ≤ x ∨ s.barrier m x = none) → NoRun s → Does (.barrier a) s (Trapped s.cur causeREMOTE (s.sr a) s.me.pc s)) ∧
    (∀ b, s.barrier m x = some b → s.mayArrive s.cur b = false →
      (NoRun s → Does (.barrier a) s (Trapped s.cur causeREMOTE (s.sr a) s.me.pc s)) ∧
      Does (.barpoll d a) s (Parked (.response 63 (.scalar d (BitVec.ofNat 64 (2 ^ 64 - 1)))) s)) ∧
    (∀ b, s.barrier m x = some b → x < 4096 → s.mayArrive s.cur b = true →
      Does (.barpoll d a) s (Parked (.response 63 (.scalar d (BitVec.ofNat 64 (b.phase * 2 ^ 32 + b.arrivals)))) s)) ∧
    ((4096 ≤ x ∨ s.barrier m x = none) → Does (.barpoll d a) s (Parked (.response 63 (.scalar d (BitVec.ofNat 64 (2 ^ 64 - 1)))) s))

end Claim

/-- Barrier objects: configuration, arrival, completion and polling: `Claim.Barriers`. -/
def Obligations.Barriers : Prop := Claim.Barriers

/-! ### Transactions and ordered tasks (chapter 19) -/

namespace Claim

/-- The explicit transaction of the thread that issues is open; a thread that issues is not parked on an MMA. -/
def InTransaction (s : State) : Prop :=
  s.me.live = true ∧ s.me.run.active = true ∧ s.me.run.ordered = false ∧ s.me.wait.inArray = false

/-- SOPEN (R262, R264, R268): the outermost one saves the checkpoint, the fallback target and the age, and opens the run; a nested one only
counts; after three conflicts it needs the token; while another thread holds the token it waits, with the age of its issue. -/
def TransactionOpens : Prop :=
  ∀ (i : BitVec 13) (s : State), isCcc s.cur = false →
    let th := s.me
    let d := threadDie s.cur
    let age := if th.confl = 0 ∧ th.wait ≠ .retry .tokenBusy then s.ticks else th.age
    let opened (irrev : Bool) (t : State) : Prop :=
      OnlyThread s.cur s t ∧ t.thr s.cur = { th with
        depth := 1, irrev := irrev, fallback := target th.pc i.toInt, age := age
        pc := th.pc + 4, insn := th.insn + 1, wait := .ready
        run := { active := true, ckpt := { sreg := th.sreg, preg := th.preg, fmt := th.fmt, fflags := th.fflags, xclip := th.xclip,
                                           gens := th.gens } } }
    (th.depth = 0 → th.run.active = false → th.confl < 3 → (s.die d).token = none → Does (.sopen i) s (opened false)) ∧
    (th.depth = 0 → th.run.active = false → 3 ≤ th.confl → (s.die d).token = some s.cur → s.otherExplicit s.cur = false →
      Does (.sopen i) s (opened true)) ∧
    (0 < th.depth ∨ th.run.active = true → th.depth < 16 → Does (.sopen i) s fun t =>
      OnlyThread s.cur s t ∧
      t.thr s.cur = { th with depth := th.depth + 1, pc := th.pc + 4, insn := th.insn + 1, wait := .ready }) ∧
    (th.depth = 0 → th.run.active = false → th.confl < 3 → (s.die d).token.isSome = true →
      Does (.sopen i) s fun t => OnlyThread s.cur s t ∧ t.thr s.cur = { th with age := age, wait := .retry .tokenBusy }) ∧
    (th.depth = 0 → th.run.active = false → 3 ≤ th.confl → (s.die d).token = some s.cur → s.otherExplicit s.cur = true →
      Does (.sopen i) s (Parked (.retry .tokenDrain) s)) ∧
    (th.depth = 0 → th.run.active = false → 3 ≤ th.confl → (s.die d).token ≠ some s.cur → Does (.sopen i) s fun t =>
      ParkedThread (.retry .token) th (t.thr s.cur) ∧ (∀ v, v ≠ s.cur → t.thr v = s.thr v) ∧
      s.cur ∈ (t.die d).tokenQueue ∧ (∀ v ∈ (s.die d).tokenQueue, v ∈ (t.die d).tokenQueue) ∧
      { t with threads := s.threads, dies := s.dies } = s ∧ SameBytes s t)

/-- SCLOSE (R265, R268): with DEPTH 0 it raises ILLEGAL; a nested one only counts; the outermost one commits: every byte that the run wrote
enters memory, no other byte changes, and CAUSE, CODE, CONFL and IRREV are clear; requests that the run held and releases in it are made after
that, and the thread waits for them: its sets and what RUNST shows of the transaction are cleared when they are over (step 7). SDEPTH writes
DEPTH, IRREV and ORD (R271). -/
def TransactionCloses : Prop :=
  ∀ (d : BitVec 6) (s : State), isCcc s.cur = false →
    let th := s.me
    (th.depth = 0 → NoRun s → Does .sclose s (Trapped s.cur causeILLEGAL ((encode .sclose).setWidth 64) th.pc s)) ∧
    (1 < th.depth ∨ (th.depth = 1 ∧ th.run.active = true ∧ th.run.ordered = true) → Does .sclose s fun t =>
      OnlyThread s.cur s t ∧
      t.thr s.cur = { th with depth := th.depth - 1, pc := th.pc + 4, insn := th.insn + 1, wait := .ready }) ∧
    (th.depth = 1 → th.run.ordered = false → th.run.rel = false → th.run.log = [] → th.run.held = [] → th.run.keys = [] →
      s.lineKey = [] → SMap.Ok th.run.buf → (∀ e ∈ th.run.buf, e.1 < 2 ^ 62) → s.MemoryOk → Does .sclose s fun t =>
        t.thr s.cur = { th with
          run := {}, depth := 0, cause := 0, code := 0, confl := 0, irrev := false, wait := .response noBank .none } ∧
        (∀ v, v ≠ s.cur → t.thr v = s.thr v) ∧
        (∀ loc, Memory.get t.mem loc = (SMap.get? th.run.buf loc).getD (Memory.get s.mem loc)) ∧
        (t.module (threadModule s.cur)).commitSeq = (s.module (threadModule s.cur)).commitSeq + 1 ∧
        t.cores = s.cores ∧ t.records = s.records ∧ t.net = s.net) ∧
    (th.depth = 1 → th.run.ordered = false → th.run.held ≠ [] ∨ th.run.rel = true → Does .sclose s fun t =>
      t.thr s.cur = { th with wait := .commit, run := { reads := th.run.reads, writes := th.run.writes, comms := th.run.comms } } ∧
      (∀ v, v ≠ s.cur → t.thr v = s.thr v) ∧ t.net = s.net ∧ t.records = s.records ∧
      (t.cluster (threadCluster s.cur)).commits = (s.cluster (threadCluster s.cur)).commits ++
        [{ owner := { thread := s.cur, cluster := threadCluster s.cur, region := th.region }, held := th.run.held, rel := th.run.rel
           relLog := th.run.relLog }]) ∧
    (∀ w : Owner, w.here = true → (s.thr w.thread).wait = .commit →
      let x := s.thr w.thread
      let y := (s.endCommit w none).thr w.thread
      Completed none_ 0 { x with run := {}, depth := 0, cause := 0, code := 0, confl := 0, irrev := false } y ∧
      ((s.endCommit w none).die (threadDie w.thread)).token ≠ some w.thread ∧ SameBytes s (s.endCommit w none)) ∧
    Does (.sdepth d) s (Wrote (one d (BitVec.ofNat 64 (th.depth + (if th.irrev then 256 else 0)
      + (if th.run.active = true ∧ th.run.ordered = true then 65536 else 0)))) 0 s)

end Claim

/-- Explicit transactions open and commit: `Claim.TransactionOpens`, `Claim.TransactionCloses`. -/
def Obligations.TransactionsOpenAndClose : Prop := Claim.TransactionOpens ∧ Claim.TransactionCloses

namespace Claim

/-- An abort of an explicit transaction, RUN_ABORT (R262, R268): the scalars, predicates, format registers, FFLAGS, XCLIP and generators are
those of the checkpoint, every register and tile that the run wrote has its old value, the thread stands at the fallback target with the
status word's CAUSE, CODE and CONFL, and no byte of memory changes; the record of an assist that was open in the run is gone (log 41). While
the thread is parked on an MMA the abort waits for the cycle in which the MMA writes its tile (R228), and the first one stands (log 40). SDROP is an abort with EXPLICIT and its
code, and does nothing outside a transaction (R270); a seventeenth SOPEN is one with CAPACITY (R268). -/
def TransactionAborts : Prop :=
  ∀ (t cause code : Nat) (a : BitVec 6) (i : BitVec 13) (s : State),
    let th := s.thr t
    let k := th.run.ckpt
    (th.live = true → th.run.active = true → th.run.ordered = false → th.run.undoRegs.Ok → th.run.undoTiles.Ok → th.wait.inArray = false →
      Does (.runAbort t cause code) s fun r =>
        r.thr t = { th with
          sreg := k.sreg, preg := k.preg, fmt := k.fmt, fflags := k.fflags, xclip := k.xclip, gens := k.gens
          pc := th.fallback, wait := .ready, run := {}, depth := 0, irrev := false, cause := cause, code := code
          confl := if cause = abortCONFLICT then min (th.confl + 1) 15 else 0, doomed := none, nextPc := none } ∧
        (∀ v, v ≠ t → r.thr v = s.thr v) ∧
        (∀ n, SMap.getD (r.core (threadCore t)).store n 0 =
          (SMap.get? th.run.undoRegs n).getD (SMap.getD (s.core (threadCore t)).store n 0)) ∧
        (∀ n, r.tileAt (threadCore t) n = (SMap.get? th.run.undoTiles n).getD (s.tileAt (threadCore t) n)) ∧
        (∀ g, g ≠ threadCore t → r.core g = s.core g) ∧
        r.records = (if th.wait = .trapped then s.records.filter (fun q => !q.ofThread t) else s.records) ∧
        { r with threads := s.threads, cores := s.cores, clusters := s.clusters, dies := s.dies, records := s.records
                 dirQueue := s.dirQueue } = s ∧ SameBytes s r) ∧
    (th.live = true → th.run.active = true → th.run.ordered = false → th.wait.inArray = true → Does (.runAbort t cause code) s fun r =>
      OnlyThread t s r ∧ r.thr t = { th with doomed := if th.doomed = none then some (.abort cause code) else th.doomed }) ∧
    (InTransaction s → isCcc s.cur = false →
      exec (.sdrop a) s = exec (.runAbort s.cur abortEXPLICIT ((s.sr a).toNat % 256)) s ∧
      (16 ≤ s.me.depth → exec (.sopen i) s = exec (.runAbort s.cur abortCAPACITY 5) s)) ∧
    (isCcc s.cur = false → NoRun s → s.me.depth = 0 → Does (.sdrop a) s (Wrote none_ 0 s))

/-- A precise trap inside an explicit transaction: the transaction aborts with FAULT and the cause as its code, and the record names the
fallback target as the PC at which RESUME goes on (R263). ASSIST is no FAULT: the run stays open, which is the model's reading (R226, R263;
log 41). -/
def TrapInTransaction : Prop :=
  ∀ (cause : Nat) (tval : Word) (s : State), InTransaction s → s.me.wait ≠ .trapped →
    let t := s.trap cause tval
    (cause ≠ causeASSIST →
      (t.thr s.cur).wait = .trapped ∧ (t.thr s.cur).pc = s.me.fallback ∧ (t.thr s.cur).cause = abortFAULT ∧ (t.thr s.cur).code = cause ∧
      (t.thr s.cur).depth = 0 ∧ (t.thr s.cur).run = {} ∧ (t.thr s.cur).sreg = s.me.run.ckpt.sreg ∧
      t.records = s.records ++ [{ handle := threadHandle s.cur, cause := cause, tpc := s.me.pc, tval := tval, tnpc := s.me.fallback
                                  region := s.recordRegion s.cur }] ∧ SameBytes s t) ∧
    (cause = causeASSIST → Trapped s.cur cause tval s.me.pc s t)

/-- TOKEN_GRANT gives a free token to the thread that asked first, whose IRREV then reads 1 (R264, R268, R271); ORDERED_ABORT discards an
ordered run: its thread is gone, its task is ready again, and after FAULT it is held back with a record of kind 4 (R273); while the thread is
parked on an MMA the abort waits for the tile (R228). -/
def TokenAndOrderedAbort : Prop :=
  (∀ (d t : Nat) (q : List Nat) (s : State), (s.die d).token = none → (s.die d).tokenQueue = t :: q →
    Does (.tokenGrant d) s fun r =>
      r.die d = { s.die d with token := some t, tokenQueue := q } ∧ (∀ h, h ≠ d → r.die h = s.die h) ∧
      r.thr t = { s.thr t with irrev := true } ∧ (∀ v, v ≠ t → r.thr v = s.thr v) ∧
      { r with threads := s.threads, dies := s.dies } = s ∧ SameBytes s r) ∧
  ∀ (cl slot cause code : Nat) (s : State), SMap.has (s.cluster cl).tasks slot = true → dOrd (s.task cl slot).desc = true →
    (s.task cl slot).state = .dispatched → (s.thr (s.task cl slot).thread).run.children = [] →
    let x := s.task cl slot
    let th := s.thr x.thread
    (th.wait.inArray = false → Does (.orderedAbort cl slot cause code) s fun r =>
      let kept := if th.wait = .trapped then s.records.filter (fun q => !q.ofThread x.thread) else s.records
      (r.thr x.thread).live = false ∧ (∀ v, v ≠ x.thread → r.thr v = s.thr v) ∧
      (r.task cl slot).desc = x.desc ∧ (r.task cl slot).state = .ready ∧ (r.task cl slot).run = {} ∧ (r.task cl slot).aged = 0 ∧
      (r.task cl slot).heldBack = decide (cause = abortFAULT) ∧ (∀ c k, (c, k) ≠ (cl, slot) → r.task c k = s.task c k) ∧
      (r.records = if cause = abortFAULT then
        kept ++ [{ handle := mkHandle 4 (cl * 8) 0 slot 0 0, cause := code, region := dRegion x.desc }] else kept) ∧
      SameBytes s r) ∧
    (th.wait.inArray = true → cause ≠ abortFAULT → Does (.orderedAbort cl slot cause code) s fun r =>
      OnlyThread x.thread s r ∧ r.thr x.thread = { th with doomed := if th.doomed = none then some (.abort cause 0) else th.doomed })

end Claim

/-- Runs abort: SDROP, traps, the token, ordered tasks: `Claim.TransactionAborts`, `Claim.TrapInTransaction`,
`Claim.TokenAndOrderedAbort`. -/
def Obligations.TransactionsAbort : Prop := Claim.TransactionAborts ∧ Claim.TrapInTransaction ∧ Claim.TokenAndOrderedAbort

/-! ### Memory spaces and memory instructions (chapters 08, 09) -/

namespace Claim

/-- Byte j of a number. -/
def byteOf (v : Nat) (j : Nat) : Byte := BitVec.ofNat 8 (v / 2 ^ (8 * j))

/-- The address of an element (R125): for a valid tiled entry with every coordinate inside its dimension, base plus the element size times
the first coordinate plus each stride times its own, exclusive-ored with the low bits of the second coordinate where the entry swizzles; a
coordinate at or past its dimension raises LAYOUT_BOUNDS with the index; a misaligned address raises ALIGN with the address. -/
def ElementAddress : Prop :=
  ∀ (e l n al x0 x1 x2 x3 : Nat), layKind e = 4 →
    let xs := [x0, x1, x2, x3]
    let off := x0 * layEsize e + x1 * layStride e 1 + x2 * layStride e 2 + x3 * layStride e 3
    let va := (layBase e + (if layPbits e = 0 then off else off ^^^ ((x1 % 2 ^ layPbits e) * 2 ^ layPlow e))) % 2 ^ 64
    let inside := x0 < layDim e 0 ∧ x1 < layDim e 1 ∧ x2 < layDim e 2 ∧ x3 < layDim e 3
    (¬ inside → elementAddress e l xs n al = .error (causeLAYOUT, BitVec.ofNat 64 l)) ∧
    (inside → x0 * layEsize e + n ≤ layDim e 0 * layEsize e →
      (va % al ≠ 0 → elementAddress e l xs n al = .error (causeALIGN, BitVec.ofNat 64 va)) ∧
      (va % al = 0 → 2 ^ 57 ≤ va → elementAddress e l xs n al = .error (causePAGE, BitVec.ofNat 64 va)) ∧
      (va % al = 0 → va < 2 ^ 57 → elementAddress e l xs n al = .ok va))

/-- The order of the checks of a scalar access (R141): the coordinate group, the entry's validity and its permissions raise LAYOUT_BOUNDS with
the layout index before any address is formed; the instruction traps precisely with what the checks raise. -/
def AccessChecksTrap : Prop :=
  ∀ (d : BitVec 6) (l : BitVec 8) (c : BitVec 6) (w : BitVec 2) (r : BitVec 1) (sc : BitVec 2) (s : State), NoRun s →
    let e := s.layoutEntry s.cur l.toNat
    let n := 2 ^ w.toNat
    let bounds := Trapped s.cur causeLAYOUT (l.setWidth 64) s.me.pc s
    (layValid e = false ∨ 64 ≤ c.toNat + layKind e - 1 → Does (.ld d l c w r sc) s bounds ∧ Does (.lds d l c w r sc) s bounds ∧
      Does (.st d l c w r sc) s bounds) ∧
    (layValid e = true → layAccess e % 2 = 0 → Does (.ld d l c w r sc) s bounds ∧ Does (.lds d l c w r sc) s bounds) ∧
    (layValid e = true → layAccess e / 2 % 2 = 0 → Does (.st d l c w r sc) s bounds) ∧
    (∀ x, s.elementAccess s.cur l.toNat c.toNat 1 n n = .error x →
      Does (.ld d l c w r sc) s (Trapped s.cur x.1 x.2 s.me.pc s) ∧ Does (.lds d l c w r sc) s (Trapped s.cur x.1 x.2 s.me.pc s)) ∧
    (∀ x, s.elementAccess s.cur l.toNat c.toNat 2 n n = .error x → Does (.st d l c w r sc) s (Trapped s.cur x.1 x.2 s.me.pc s))

end Claim

/-- The address of a layout access, and the checks that trap: `Claim.ElementAddress`, `Claim.AccessChecksTrap`. -/
def Obligations.AddressesAndChecks : Prop := Claim.ElementAddress ∧ Claim.AccessChecksTrap

namespace Claim

/-- Nothing stands in the way of an access of the thread that issues: no run is open and nothing waits at a directory, no side-log page is
live, no line is held in X, no watch entry is armed, no byte is uncorrectable, and the frame belongs to its context. -/
structure Clear (s : State) (loc : Nat) : Prop where
  runs : ∀ m, s.holders m = []
  noRun : NoRun s
  log : ∀ ctx pages, (s.core (threadCore s.cur)).livePages ctx pages = []
  lines : s.xlines = []
  watches : ∀ e ∈ s.dies, e.2.dwc = []
  bad : s.badMem = []
  queue : s.dirQueue = []
  frame : inHbm (locPa loc) = true → SMap.get? s.frameOwner (loc / 65536) = some (s.agent s.cur).ctx

/-- An access through the heap window of a DEVICE entry (R121, R129, R141): with nothing in its way it is made at the physical address
VA + HOFF of the thread's module under key 0, and the state is as it was but for the pass of the watch entries, which is used up. -/
def HeapWindowAccess : Prop :=
  ∀ (r : Req) (va : Nat) (s : State), laySpace r.entry = 0 → layDirected r.entry = false →
    (∀ v ∈ r.vas, v / 65536 = va / 65536) → va ∈ r.vas → (∀ v ∈ r.bytes, v / 65536 = va / 65536) →
    let h := (s.agent s.cur).heap
    let page := (va / 65536 * 65536 + h.2.2) % 2 ^ 64
    let m := threadModule s.cur
    h.1 ≤ va / 65536 * 65536 → va / 65536 * 65536 < h.2.1 → inHbm page = true → h.2.2 % 65536 = 0 → Clear s (locOf m page) →
    ∃ xs, s.meet s.cur r = (s.setMe { s.me with passWatch := if s.me.passWatch = some s.me.pc then none else s.me.passWatch }, .here xs) ∧
      isDirected r.entry xs = false ∧
      ∀ v, v / 65536 = va / 65536 → xlatLoc xs v = locOf m (page + v % 65536) ∧ xlatKey xs v = 0

/-- LD and LDS of 2^w bytes (R141, R142, R145): where the access is made, the thread is parked with the little-endian number of the bytes that
it saw, zero-extended, or sign-extended from its width; nothing else differs from the state after the access's checks. -/
def Loads : Prop :=
  ∀ (d : BitVec 6) (l : BitVec 8) (c : BitVec 6) (w : BitVec 2) (r : BitVec 1) (sc : BitVec 2) (s : State),
    let n := 2 ^ w.toNat
    ∀ e va, s.elementAccess s.cur l.toNat c.toNat 1 n n = .ok (e, va) →
    ∀ u xs, s.meet s.cur { entry := e, need := permR, vas := [va], bytes := (List.range n).map (va + ·) } = (u, .here xs) →
    u.cur = s.cur →
    inCtl (locPa (xlatLoc xs va)) = false →
    let seen (j : Nat) : Byte := u.seen (u.agent u.cur) (directedAt e xs (va + j)) (xlatKey xs (va + j)) (xlatLoc xs (va + j))
    ∃ v v' : Word,
      (∀ j, j < n → byteOf v.toNat j = seen j ∧ byteOf v'.toNat j = seen j) ∧ v.toNat < 2 ^ (8 * n) ∧
      (∀ i, 8 * n ≤ i → i < 64 → v'.getLsbD i = (seen (n - 1)).getLsbD 7) ∧
      Does (.ld d l c w r sc) s (Parked (.response (bankOf (xlatLoc xs va)) (.scalar d v)) u) ∧
      Does (.lds d l c w r sc) s (Parked (.response (bankOf (xlatLoc xs va)) (.scalar d v')) u)

/-- A line is stored under the key with which it is written now (R363). -/
def SameKey (s : State) (key loc : Nat) : Prop := SMap.getD s.lineKey (lineOf loc) 0 = s.keyNow loc key

/-- The bytes of a store are in memory: byte j of v at the location of address va + j, and no other byte of memory changed. -/
structure Stored (xs : SMap Xlat) (va n v : Nat) (s t : State) : Prop where
  written : ∀ j, j < n → Memory.get t.mem (xlatLoc xs (va + j)) = byteOf v j
  others : SameBytesBut ((List.range n).map fun j => xlatLoc xs (va + j)) s t
  threads : ∀ u, u ≠ s.cur → t.thr u = s.thr u
  rest : { t with threads := s.threads, mem := s.mem, badMem := s.badMem, clusters := s.clusters } = s

/-- ST of 2^w bytes to coherent memory outside every run (R141, R142, R146): the low bytes of s[d] are at the element's location, lowest
first; the thread is parked until the response; no other byte of memory changes, and in HBM no cluster either. -/
def Stores : Prop :=
  ∀ (d : BitVec 6) (l : BitVec 8) (c : BitVec 6) (w : BitVec 2) (r : BitVec 1) (sc : BitVec 2) (s : State),
    let n := 2 ^ w.toNat
    NoRun s → (r = 1 → Settled s) →
    ∀ e va, s.elementAccess s.cur l.toNat c.toNat 2 n n = .ok (e, va) →
    let vas := (List.range n).map (va + ·)
    ∀ u xs, s.meet s.cur { entry := e, kind := reqWrite, hit := kindWrite, need := permW, logs := true, vas := va :: vas, bytes := vas } =
      (u, .here xs) →
    u.MemoryOk → u.cur = s.cur → u.me.run.active = false → inCtl (locPa (xlatLoc xs va)) = false → isDirected e xs = false →
    (∀ j, j < n → SameKey u (xlatKey xs (va + j)) (xlatLoc xs (va + j)) ∧ inCtl (locPa (xlatLoc xs (va + j))) = false) →
    Does (.st d l c w r sc) s fun t =>
      Stored xs va n (s.sr d).toNat u t ∧ ParkedThread (.response (bankOf (xlatLoc xs va)) .none) u.me (t.thr s.cur) ∧
      (inCsm (locPa (xlatLoc xs va)) = false → inCsm (locPa (xlatLoc xs (va + n - 1))) = false → t.clusters = u.clusters)

/-- What an AMO writes from the old value and its operands, none where a CAS fails (R149). -/
def amoWrites (k n old x y : Nat) : Option Nat :=
  let s (v : Nat) : Int := (BitVec.ofNat n v).toInt
  [some ((old + x) % 2 ^ n), some (old &&& x), some (old ||| x), some (old ^^^ x), some (if s x < s old then x else old),
   some (if s old < s x then x else old), some x, if old = x then some y else none].getD k none

/-- AMO and RED complete on an element of the heap window with nothing in their way (R129, R149, R150): an AMO parks its thread with the old
value, zero-extended, and the new value is in memory; a RED with ADD, MIN, MAX or OR leaves the reduction there; no other byte changes. -/
def HeapWindowAtomics : Prop :=
  ∀ (d : BitVec 6) (l : BitVec 8) (c : BitVec 6) (k : BitVec 3) (q : BitVec 2) (r m : BitVec 1) (s : State),
    NoRun s → Settled s → s.MemoryOk → s.lineKey = [] → laySpace (s.layoutEntry s.cur l.toNat) = 0 →
    let h := (s.agent s.cur).heap
    let page (va : Nat) := (va / 65536 * 65536 + h.2.2) % 2 ^ 64
    let loc (va : Nat) := locOf (threadModule s.cur) (page va + va % 65536)
    let window (va : Nat) : Prop := h.1 ≤ va / 65536 * 65536 ∧ va / 65536 * 65536 < h.2.1 ∧ inHbm (page va) = true ∧ h.2.2 % 65536 = 0 ∧
      Clear s (locOf (threadModule s.cur) (page va))
    (∀ e va w, s.atomicAccess s.cur l.toNat c.toNat 7 (fun w => decide (w = 4 ∨ w = 8)) = .ok (e, va, w) → window va →
      let old := s.num (loc va) w
      Does (.amo d l c k q) s fun t =>
        (t.thr s.cur).wait = .response (bankOf (loc va)) (.scalar d (BitVec.ofNat 64 old)) ∧ (t.thr s.cur).pc = s.me.pc ∧
        t.num (loc va) w = (amoWrites k.toNat (8 * w) old ((s.sr d).toNat % 2 ^ (8 * w)) ((s.srN (d.toNat + 1)).toNat % 2 ^ (8 * w))).getD old ∧
        SameBytesBut ((List.range w).map (loc va + ·)) s t) ∧
    (∀ e va w, s.atomicAccess s.cur l.toNat c.toNat 2 (redWidthOk k.toNat (decide (m = 1))) = .ok (e, va, w) → window va →
      let old := s.num (loc va) w
      let x := (s.sr d).toNat % 2 ^ (8 * w)
      let z (v : Nat) : Int := (BitVec.ofNat (8 * w) v).toInt
      Does (.red d l c k r m) s fun t =>
        (t.thr s.cur).wait = .response (bankOf (loc va)) .none ∧ (t.thr s.cur).pc = s.me.pc ∧ SameBytesBut ((List.range w).map (loc va + ·)) s t ∧
        (k = 0 → t.num (loc va) w = (old + x) % 2 ^ (8 * w)) ∧ (k = 1 → t.num (loc va) w = if z x < z old then x else old) ∧
        (k = 2 → t.num (loc va) w = if z old < z x then x else old) ∧ (k = 7 → t.num (loc va) w = old ||| x))

end Claim

/-- Scalar loads and stores, and AMO and RED where nothing is in their way: `Claim.MemoryReadsBack`, `Claim.HeapWindowAccess`, `Claim.Loads`,
`Claim.Stores`, `Claim.HeapWindowAtomics`. -/
def Obligations.LoadsAndStores : Prop :=
  Claim.MemoryReadsBack ∧ Claim.HeapWindowAccess ∧ Claim.Loads ∧ Claim.Stores ∧ Claim.HeapWindowAtomics

namespace Claim

/-- An access inside a run reads and writes the run's own bytes: a store changes no byte of memory, and each of its bytes stands in the run's
buffer (R143, R262). -/
def StoresInARun : Prop :=
  ∀ (d : BitVec 6) (l : BitVec 8) (c : BitVec 6) (w : BitVec 2) (r : BitVec 1) (sc : BitVec 2) (s : State),
    let n := 2 ^ w.toNat
    r = 0 → ∀ e va, s.elementAccess s.cur l.toNat c.toNat 2 n n = .ok (e, va) →
    let vas := (List.range n).map (va + ·)
    ∀ u xs, s.meet s.cur { entry := e, kind := reqWrite, hit := kindWrite, need := permW, logs := true, vas := va :: vas, bytes := vas } =
      (u, .here xs) →
    u.cur = s.cur → u.me.run.active = true → inCtl (locPa (xlatLoc xs va)) = false → isDirected e xs = false →
    Does (.st d l c w r sc) s fun t =>
      SameBytes u t ∧ (∀ v, v ≠ s.cur → t.thr v = u.thr v) ∧ { t with threads := u.threads } = u ∧
      (t.thr s.cur).wait = .response (bankOf (xlatLoc xs va)) .none ∧
      { t.thr s.cur with wait := u.me.wait, run := u.me.run } = u.me ∧
      ∀ j, j < n → SMap.get? (t.thr s.cur).run.buf (xlatLoc xs (va + j)) = some (byteOf (s.sr d).toNat j)

end Claim

/-- A store in a run is held until the commit: `Claim.StoresInARun`. -/
def Obligations.StoresInARun : Prop := Claim.StoresInARun

namespace Claim

/-- VLD (R147): each lane whose mask bit is 1 receives the four bytes at its own element; the other lanes keep their values, since the
register is written under the mask when the response arrives. VST: each such lane is stored there, and no other byte of memory changes. -/
def VectorLoadsAndStores : Prop :=
  ∀ (d : BitVec 6) (l : BitVec 8) (c : BitVec 6) (p : BitVec 3) (s : State),
    let mask := s.pr p.toNat
    let bytes (e : Nat) (cs : List Nat) : List Nat :=
      (activeLanes mask).flatMap fun i => (List.range 4).map fun j => elementByte e cs (4 * i + j)
    (∀ e va cs, s.vectorAccess s.cur l.toNat c.toNat 1 mask = .ok (e, va, cs) →
      let at_ (i j : Nat) : Nat := elementByte e cs (4 * i + j)
      ∀ u xs, s.meet s.cur { entry := e, need := permR, vas := va :: bytes e cs, bytes := bytes e cs } = (u, .here xs) → u.cur = s.cur →
      ∃ v : Vec,
        (∀ i j, i < 32 → mask.getLsbD i = true → j < 4 → byteOf (lane v i).toNat j =
          u.seen (u.agent u.cur) (directedAt e xs (at_ i j)) (xlatKey xs (at_ i j)) (xlatLoc xs (at_ i j))) ∧
        Does (.vld d l c p) s (Parked (.response (bankOf (xlatLoc xs va)) (.vector d mask v)) u)) ∧
    (∀ e va cs, s.vectorAccess s.cur l.toNat c.toNat 2 mask = .ok (e, va, cs) →
      let at_ (i j : Nat) : Nat := elementByte e cs (4 * i + j)
      let vas := bytes e cs
      ∀ u xs, s.meet s.cur { entry := e, kind := reqWrite, hit := kindWrite, need := permW, logs := true, vas := va :: vas, bytes := vas } =
        (u, .here xs) →
      u.cur = s.cur → u.me.run.active = false → Clean s [(d.toNat, mask)] → u.MemoryOk → inCtl (locPa (xlatLoc xs va)) = false →
      isDirected e xs = false → (vas.map (xlatLoc xs)).Nodup →
      (∀ v ∈ vas, SameKey u (xlatKey xs v) (xlatLoc xs v) ∧ inCtl (locPa (xlatLoc xs v)) = false) →
      Does (.vst d l c p) s fun t =>
        (∀ i j, i < 32 → mask.getLsbD i = true → j < 4 →
          Memory.get t.mem (xlatLoc xs (at_ i j)) = byteOf (lane (s.v d) i).toNat j) ∧
        SameBytesBut (vas.map (xlatLoc xs)) u t ∧ ParkedThread (.response (bankOf (xlatLoc xs va)) .none) u.me (t.thr s.cur) ∧
        (∀ v, v ≠ s.cur → t.thr v = u.thr v) ∧
        { t with threads := u.threads, mem := u.mem, badMem := u.badMem, clusters := u.clusters } = u)

end Claim

/-- VLD and VST: `Claim.VectorLoadsAndStores`. -/
def Obligations.VectorLoadsAndStores : Prop := Claim.VectorLoadsAndStores

namespace Claim

/-- AMO (R149): the old value returns zero-extended, and the new one is in memory; a CAS that fails changes no byte, and outside CSM nothing
but its thread. -/
def Atomics : Prop :=
  ∀ (d : BitVec 6) (l : BitVec 8) (c : BitVec 6) (k : BitVec 3) (r : BitVec 2) (s : State), NoRun s → Settled s →
    ∀ e va w, s.atomicAccess s.cur l.toNat c.toNat 7 (fun w => decide (w = 4 ∨ w = 8)) = .ok (e, va, w) → (w = 4 ∨ w = 8) →
    let vas := (List.range w).map (va + ·)
    ∀ u xs, s.meet s.cur { amoReq e va w with stores := s.amoStores e va w k.toNat ((s.sr d).toNat % 2 ^ (8 * w)) } = (u, .here xs) →
    u.MemoryOk → u.cur = s.cur → u.me.run.active = false → isDirected e xs = false →
    (∀ j, j < w → SameKey u (xlatKey xs (va + j)) (xlatLoc xs (va + j)) ∧ inCtl (locPa (xlatLoc xs (va + j))) = false) →
    let old := leNat (vas.map fun v => Memory.get u.mem (xlatLoc xs v))
    let x := (s.sr d).toNat % 2 ^ (8 * w)
    let y := (s.srN (d.toNat + 1)).toNat % 2 ^ (8 * w)
    Does (.amo d l c k r) s fun t =>
      ParkedThread (.response (bankOf (xlatLoc xs va)) (.scalar d (BitVec.ofNat 64 old))) u.me (t.thr s.cur) ∧
      (∀ v, amoWrites k.toNat (8 * w) old x y = some v → Stored xs va w v u t) ∧
      (amoWrites k.toNat (8 * w) old x y = none → SameBytes u t ∧ (∀ v, v ≠ s.cur → t.thr v = u.thr v) ∧
        { t with threads := u.threads, clusters := u.clusters } = u ∧
        ((∀ j, j < w → inCsm (locPa (xlatLoc xs (va + j))) = false) → t.clusters = u.clusters))

/-- RED outside every run (R150): the element holds the reduction of its old value and the operand; nothing returns. -/
def Reductions : Prop :=
  ∀ (d : BitVec 6) (l : BitVec 8) (c : BitVec 6) (k : BitVec 3) (r m : BitVec 1) (s : State), NoRun s → Settled s →
    ∀ e va w, s.atomicAccess s.cur l.toNat c.toNat 2 (redWidthOk k.toNat (decide (m = 1))) = .ok (e, va, w) → (w = 2 ∨ w = 4 ∨ w = 8) →
    let vas := (List.range w).map (va + ·)
    ∀ u xs, s.meet s.cur { entry := e, kind := reqWrite, hit := kindWrite, need := permW, logs := true, vas := [va], bytes := vas } =
      (u, .here xs) →
    u.MemoryOk → u.cur = s.cur → u.me.run.active = false → isDirected e xs = false →
    (∀ j, j < w → SameKey u (xlatKey xs (va + j)) (xlatLoc xs (va + j)) ∧ inCtl (locPa (xlatLoc xs (va + j))) = false) →
    let old := leNat (vas.map fun v => Memory.get u.mem (xlatLoc xs v))
    let x := (s.sr d).toNat % 2 ^ (8 * w)
    let z (v : Nat) : Int := (BitVec.ofNat (8 * w) v).toInt
    Does (.red d l c k r m) s fun t =>
      ParkedThread (.response (bankOf (xlatLoc xs va)) .none) u.me (t.thr s.cur) ∧
      ∃ v, Stored xs va w v u t ∧
        (k = 0 → v = (old + x) % 2 ^ (8 * w)) ∧ (k = 1 → v = if z x < z old then x else old) ∧
        (k = 2 → v = if z old < z x then x else old) ∧ (k = 7 → v = old ||| x) ∧
        (k = 3 → v = (rne32 ((num32 (BitVec.ofNat 32 old)).add (num32 (BitVec.ofNat 32 x)))).toNat) ∧
        (k = 4 → v = (min32 (BitVec.ofNat 32 old) (BitVec.ofNat 32 x)).toNat) ∧
        (k = 5 → v = (max32 (BitVec.ofNat 32 old) (BitVec.ofNat 32 x)).toNat) ∧
        (k = 6 → v = rne16 ((num16 old).add (num16 x)))

end Claim

/-- AMO and RED: `Claim.Atomics`, `Claim.Reductions`. -/
def Obligations.AtomicsAndReductions : Prop := Claim.Atomics ∧ Claim.Reductions

namespace Claim

/-- A page walk of four levels (R130): each pointer leads to the next table, and the leaf of level 0 is what the walk ends at. -/
def PageWalk : Prop :=
  ∀ (m va t3 t2 t1 t0 : Nat) (s : State),
    let w (t i : Nat) : Nat := s.num (locOf m (t + 8 * i)) 8
    let pointer (v t : Nat) : Prop := v = t + 1 ∧ t % 256 = 0 ∧ t < 2 ^ 52
    let ok (t i : Nat) : Prop := inHbm (t + 8 * i) = true
    t3 % 2 ^ 21 = 0 → t2 % 4096 = 0 → t1 % 4096 = 0 → t0 % 256 = 0 →
    ok t3 (bits va 56 39) → ok t2 (bits va 38 30) → ok t1 (bits va 29 21) → ok t0 (bits va 20 16) →
    pointer (w t3 (bits va 56 39)) t2 → pointer (w t2 (bits va 38 30)) t1 → pointer (w t1 (bits va 29 21)) t0 →
    let leaf := w t0 (bits va 20 16)
    (leafOk 0 leaf = true → s.walk m va 3 t3 = some (0, leaf, t0 + 8 * bits va 20 16)) ∧
    (leaf % 2 = 0 → s.walk m va 3 t3 = none)

/-- What a translation changes (R131, R132): where it fails, nothing; where it succeeds, no byte of memory but those of the leaf that the
walk ends at, which then has ACC, and D for a write, where it is written at all; and outside memory only the TLBs. -/
def TranslationFrame : Prop :=
  ∀ (a : Agent) (space mf need : Nat) (dirty : Bool) (va : Nat) (s : State), s.MemoryOk → s.lineKey = [] →
    let r := s.translate a space mf need dirty va
    (r.2 = none → r.1 = s) ∧
    (∀ g, { r.1.core g with tlb := (s.core g).tlb } = s.core g) ∧
    (∀ c, { r.1.cluster c with tlb := (s.cluster c).tlb } = s.cluster c) ∧
    r.1.threads = s.threads ∧ r.1.modules = s.modules ∧ r.1.records = s.records ∧ r.1.net = s.net ∧
    (s.walkContext a.module a.ctx va = none → SameBytes s r.1) ∧
    (∀ level leaf pte, s.walkContext a.module a.ctx va = some (level, leaf, pte) →
      SameBytesBut ((List.range 8).map (locOf a.module pte + ·)) s r.1 ∧
      (r.1.mem = s.mem ∨ r.1.num (locOf a.module pte) 8 = (leaf ||| (if dirty then 96 else 32))))

/-- Outside the heap window (R129 to R132): a cached translation whose leaf permits the access and has ACC, and D for a write, serves it and
nothing changes. Else, where the walk ends in a leaf that permits it, the leaf then has ACC (bit 5), and D (bit 6) for a write, in memory, the
access goes to the leaf's frame under its key, and the translation that is now cached serves the next one; a leaf that does not permit it
gives PAGE and sets no bit. -/
def TranslationSetsBits : Prop :=
  ∀ (a : Agent) (space mf need : Nat) (dirty : Bool) (va : Nat) (s : State), s.MemoryOk → s.lineKey = [] → a.inWindow space va = false →
    let r := s.translate a space mf need dirty va
    let page := va / 65536 * 65536
    ((s.tlbServes a space mf need dirty va).isSome = true → r.1 = s ∧ r.2.isSome = true) ∧
    ∀ level leaf pte, s.tlbServes a space mf need dirty va = none → s.walkContext a.module a.ctx va = some (level, leaf, pte) →
      (s.leafServes a space mf need page leaf (pageSize level) = true →
        r.1.num (locOf a.module pte) 8 = leaf ||| (if dirty then 96 else 32) ∧
        (∃ x, r.2 = some x ∧ x.loc = locOf (bits leaf 63 54) (bits leaf 53 18 * 65536 + page % pageSize level) ∧ x.key = bits leaf 17 12) ∧
        (r.1.tlbServes a space mf need dirty va).isSome = true) ∧
      (s.leafServes a space mf need page leaf (pageSize level) = false → r = (s, none))

end Claim

/-- The page walk, what a translation sets in the leaf, and what it leaves alone: `Claim.PageWalk`, `Claim.TranslationSetsBits`,
`Claim.TranslationFrame`. -/
def Obligations.AddressTranslation : Prop := Claim.PageWalk ∧ Claim.TranslationSetsBits ∧ Claim.TranslationFrame

namespace Claim

/-- A core's side log takes no entry now: it holds 64, or its own record waits for a place in the trap queue (R137, R280). -/
def LogIsFull (s : State) (g : Nat) : Prop :=
  64 ≤ (s.core g).sideLog.length ∨ ∃ r ∈ s.records, r.place = .fresh ∧ r.handle = mkHandle 2 g 0 0 0 0 ∧ toKerlis r.cause = true

/-- The access of the thread that issues enters its core's side log as the entry that P describes, after address f faulted, or behind entries
of its page (none): the entry is the last one, and has a record where it is the first and faulted; no byte of memory changes; the thread goes
on, or waits with a release. -/
structure EntersLog (f : Option Nat) (rel : Bool) (P : LogEntry → Prop) (s t : State) : Prop where
  bytes : SameBytes s t
  others : ∀ v, v ≠ s.cur → t.thr v = s.thr v
  cores : ∀ g, g ≠ threadCore s.cur → t.core g = s.core g
  entry : ∃ x, (t.core (threadCore s.cur)).sideLog = (s.core (threadCore s.cur)).sideLog ++ [x] ∧ x.thread = s.cur ∧ x.rel = rel ∧
    (x.recorded = true ↔ (s.core (threadCore s.cur)).sideLog = [] ∧ f.isSome = true) ∧ P x
  goesOn : rel = false → (t.thr s.cur).pc = s.me.pc + 4 ∧ (t.thr s.cur).insn = s.me.insn + 1 ∧ (t.thr s.cur).wait = .ready
  waits : rel = true → ParkedThread .logged s.me (t.thr s.cur)
  rest : { t with threads := s.threads, cores := s.cores, records := s.records } = s

/-- A store, a vector store or a reduction that meets PAGE on a compute core enters the side log with its bytes, or with its operation and
operand, and its thread goes on; one that is a release waits there. Where the log takes no entry the thread waits for room (R136, R137, R142,
R146 to R150). -/
def SideLogTakesStores : Prop :=
  ∀ (d : BitVec 6) (l : BitVec 8) (c : BitVec 6) (s : State), NoRun s →
    let takes (i : Instr) (rel : Bool) (P : LogEntry → Prop) (u : State) (f : Option Nat) : Prop := u.cur = s.cur →
      (¬ LogIsFull u (threadCore s.cur) → Does i s (EntersLog f rel P u)) ∧
      (LogIsFull u (threadCore s.cur) → Does i s (Parked (.retry .sideLogFull) u))
    (∀ (w : BitVec 2) (r : BitVec 1) (sc : BitVec 2), (r = 1 → Settled s) →
      let n := 2 ^ w.toNat
      ∀ e va, s.elementAccess s.cur l.toNat c.toNat 2 n n = .ok (e, va) →
      let vas := (List.range n).map (va + ·)
      ∀ u f, s.meet s.cur { entry := e, kind := reqWrite, hit := kindWrite, need := permW, logs := true, vas := va :: vas, bytes := vas } =
        (u, .log f) →
      takes (.st d l c w r sc) (decide (r = 1))
        (fun x => x.cells = cellsAt va (leBytes n (s.sr d).toNat) ∧ x.vas = [va] ∧ x.red = none ∧ x.entry = BitVec.ofNat 512 e) u f) ∧
    (∀ (p : BitVec 3) e va cs, s.vectorAccess s.cur l.toNat c.toNat 2 (s.pr p.toNat) = .ok (e, va, cs) →
      Clean s [(d.toNat, s.pr p.toNat)] →
      let cells := (activeLanes (s.pr p.toNat)).flatMap fun i => (List.range 4).map fun j =>
        (elementByte e cs (4 * i + j), byteOf (lane (s.v d) i).toNat j)
      let vas := cells.map (·.1)
      ∀ u f, s.meet s.cur { entry := e, kind := reqWrite, hit := kindWrite, need := permW, logs := true, vas := va :: vas, bytes := vas } =
        (u, .log f) →
      takes (.vst d l c p) false
        (fun x => x.cells = cells ∧ va ∈ x.vas ∧ (∀ b ∈ cells, ∃ v ∈ x.vas, v / 65536 = b.1 / 65536) ∧ x.red = none) u f) ∧
    ∀ (k : BitVec 3) (r m : BitVec 1), (r = 1 → Settled s) →
      ∀ e va w, s.atomicAccess s.cur l.toNat c.toNat 2 (redWidthOk k.toNat (decide (m = 1))) = .ok (e, va, w) → (w = 2 ∨ w = 4 ∨ w = 8) →
      ∀ u f, s.meet s.cur { entry := e, kind := reqWrite, hit := kindWrite, need := permW, logs := true, vas := [va]
                            bytes := (List.range w).map (va + ·) } = (u, .log f) →
      takes (.red d l c k r m) (decide (r = 1))
        (fun x => x.cells = cellsAt va (leBytes w ((s.sr d).toNat % 2 ^ (8 * w))) ∧ x.vas = [va] ∧ x.red = some (k.toNat, w)) u f

/-- SIDE_LOG_REPLAY (R138, R146, R284, R312): the head entry of a core's log, once it has no record pending, takes effect as its access would
have: its bytes, or the reduction of what is there, are in memory at the locations where it translates now; no other byte changes, it
leaves the log, and the thread of a release wakes; the stream of a scatter element counts it as done. An entry with a record pending is
not tried; one whose page faults again stays, with a new record of kind 2. -/
def SideLogReplays : Prop :=
  ∀ (g : Nat) (x : LogEntry) (q : List LogEntry) (s : State), (s.core g).sideLog = x :: q →
    let space := laySpace x.entry.toNat
    let pages := pagesOf x.vas
    let tried := s.translateAll (s.logAgent x) space (layModule x.entry.toNat) permW (decide (x.cells ≠ [])) pages
    (x.recorded = true → Does (.sideLogReplay g) s fun t => t = s) ∧
    (x.recorded = false → s.xlines = [] → s.dirQueue = [] → (∀ m, s.holders m = []) →
      (∀ u p, tried = (u, .error p) → Does (.sideLogReplay g) s fun t =>
        (t.core g).sideLog = { x with recorded := true } :: (u.core g).sideLog.drop 1 ∧ (∀ h, h ≠ g → t.core h = u.core h) ∧
        t.records = u.records ++ [{ handle := mkHandle 2 g 0 0 0 0, cause := causePAGE, tval := BitVec.ofNat 64 (firstIn p x.vas)
                                    region := x.region }] ∧
        { t with cores := u.cores, records := u.records } = u) ∧
      (∀ u xs, tried = (u, .ok xs) → space < 3 → (u.core g).sideLog = x :: q → isDirected x.entry.toNat xs = false → u.badMem = [] →
        (∀ e ∈ u.dies, e.2.dwc = []) → u.MemoryOk → (x.cells.map fun c => xlatLoc xs c.1).Nodup →
        (∀ c ∈ x.cells, SameKey u (xlatKey xs c.1) (xlatLoc xs c.1) ∧
          (inHbm (locPa (xlatLoc xs c.1)) = true → SMap.get? u.frameOwner (xlatLoc xs c.1 / 65536) = some (s.logAgent x).ctx)) →
        let there (t : State) := leNat (x.cells.map fun c => Memory.get t.mem (xlatLoc xs c.1))
        Does (.sideLogReplay g) s fun t =>
          (x.red = none → ∀ c ∈ x.cells, Memory.get t.mem (xlatLoc xs c.1) = c.2) ∧
          (∀ op w, x.red = some (op, w) → x.cells.length = w → (redWidthOk op false w || redWidthOk op true w) = true →
            there t = redValue op w (there u) (leNat (x.cells.map (·.2)))) ∧
          SameBytesBut (x.cells.map fun c => xlatLoc xs c.1) u t ∧ (t.core g).sideLog = q ∧ t.records = u.records ∧
          (∀ h, h ≠ g → t.core h = u.core h) ∧
          (x.rel = false ∨ (u.thr x.thread).wait ≠ .logged → t.threads = u.threads) ∧
          (x.rel = true → (u.thr x.thread).wait = .logged →
            Completed none_ 0 (u.thr x.thread) (t.thr x.thread) ∧ ∀ v, v ≠ x.thread → t.thr v = u.thr v) ∧
          (∀ cl n o, x.stream = some (cl, n) → SMap.get? (u.cluster cl).streams n = some o → x.elem ∉ o.skipped →
            (∀ y ∈ q, ¬ (y.stream = some (cl, n) ∧ y.elem = x.elem)) →
            SMap.get? (t.cluster cl).streams n = some { o with logged := o.logged - 1, done := o.done + 1 })))

end Claim

/-- The side log takes a store or a reduction that faults, and replays it: `Claim.SideLogTakesStores`, `Claim.SideLogReplays`. -/
def Obligations.SideLog : Prop := Claim.SideLogTakesStores ∧ Claim.SideLogReplays

namespace Claim

/-- A load and a store through a MORAINE entry (R142, R323, R326): one RD or WR packet to the switch that the address names, with the
address, the bytes and the thread; the load's thread waits for the reply, the store is posted and its thread goes on, and no byte of the
module's memory changes. -/
def MoraineAccesses : Prop :=
  ∀ (d : BitVec 6) (l : BitVec 8) (c : BitVec 6) (w : BitVec 2) (sc : BitVec 2) (s : State), NoRun s →
    (∀ dest, s.unacked s.cur dest < 256) →
    let n := 2 ^ w.toNat
    let packet (p : Packet) (va : Nat) : Prop := p.thread = s.cur ∧ p.dest = 1024 + bits va 44 41 * 16 + bits va 40 37 ∧ p.addr = va ∧
      p.ctx = (s.agent s.cur).ctx ∧ p.from_ = threadModule s.cur
    (∀ e va, s.elementAccess s.cur l.toNat c.toNat 1 n n = .ok (e, va) → laySpace e = 4 →
      Does (.ld d l c w 0 0) s fun t =>
        (t.thr s.cur).wait = .fabric (32 + bits va 40 37) 1 [] none (.load d ((List.range n).map (va + ·)) false) ∧
        { t.thr s.cur with wait := s.me.wait, seqs := s.me.seqs } = s.me ∧ (∀ v, v ≠ s.cur → t.thr v = s.thr v) ∧
        (∃ p, t.net = s.net ++ [p] ∧ packet p va ∧ p.kind = 0 ∧ p.size = n) ∧ { t with threads := s.threads, net := s.net } = s) ∧
    (∀ e va, s.elementAccess s.cur l.toNat c.toNat 2 n n = .ok (e, va) → laySpace e = 4 →
      Does (.st d l c w 0 sc) s fun t =>
        (t.thr s.cur).posted = s.me.posted + 1 ∧ (t.thr s.cur).pc = s.me.pc + 4 ∧ (t.thr s.cur).wait = .ready ∧
        { t.thr s.cur with
          wait := s.me.wait, seqs := s.me.seqs, posted := s.me.posted, pc := s.me.pc, insn := s.me.insn } = s.me ∧
        (∀ v, v ≠ s.cur → t.thr v = s.thr v) ∧
        (∃ p, t.net = s.net ++ [p] ∧ packet p va ∧ p.kind = 1 ∧ p.payload = leBytes n (s.sr d).toNat ∧ p.posted = true) ∧
        { t with threads := s.threads, net := s.net } = s)

end Claim

/-- Accesses to Moraine memory become packets: `Claim.MoraineAccesses`. -/
def Obligations.MoraineAccesses : Prop := Claim.MoraineAccesses

namespace Claim

/-- FENCE (R144, R152): a kind that waits for nothing, or any kind with nothing outstanding, completes with no effect but order; PREF whose
checks fail, or whose page is in cache mode 1, has none at all, and one that succeeds on coherent memory leaves what its walk left (R153). A
PREF whose walk is held at a directory or by an engine has no effect either, which is the model's choice (log 73); one whose byte is
uncorrectable has none by R153. -/
def FencesAndPrefetch : Prop :=
  ∀ (k : BitVec 2) (sc : BitVec 3) (l : BitVec 8) (c : BitVec 6) (v : BitVec 2) (s : State),
    (k = 0 ∨ (NoRun s ∧ Settled s) → Does (.fence k sc) s (Parked (.response noBank .none) s)) ∧
    (NoRun s → s.me.posted = 0 → s.me.postedErr = none → sc = 0 → Does (.fence k sc) s (Parked (.response noBank .none) s)) ∧
    (NoRun s → k ≠ 0 → s.me.postedErr = none → s.me.posted ≠ 0 →
      Does (.fence k sc) s (Parked (.retry (.release (decide (sc ≠ 0)))) s)) ∧
    (NoRun s → k ≠ 0 → ∀ x, s.me.postedErr = some x →
      Does (.fence k sc) s (Trapped s.cur x.1 x.2 s.me.pc (s.setMe { s.me with postedErr := none }))) ∧
    (∀ x, s.elementAccess s.cur l.toNat c.toNat 1 1 1 = .error x → Does (.pref l c v) s (Wrote none_ 0 s)) ∧
    (∀ e va, s.elementAccess s.cur l.toNat c.toNat 1 1 1 = .ok (e, va) →
      (3 ≤ laySpace e → Does (.pref l c v) s (Wrote none_ 0 s)) ∧
      (laySpace e < 3 →
        let a := s.agent s.cur
        let u := (s.translate a (laySpace e) (layModule e) permR false va).1
        let x := (s.translate a (laySpace e) (layModule e) permR false va).2
        (s.xlines = [] → (∀ m, s.holders m = []) → s.badMem = [] → s.prefHeld a e va = false) ∧
        (s.prefUncached a e va = true ∨ s.prefHeld a e va = true → Does (.pref l c v) s (Wrote none_ 0 s)) ∧
        (s.prefUncached a e va = false → s.prefHeld a e va = false → x = none ∨ layDirected e = false →
          Does (.pref l c v) s (Wrote none_ 0 u)) ∧
        (∀ y, s.prefUncached a e va = false → s.prefHeld a e va = false → x = some y → layDirected e = true → u.xlines = [] →
            (∀ m, u.holders m = []) → Does (.pref l c v) s fun t =>
          SMap.has (t.die (threadDie s.cur)).directed (lineOf (y.loc + va % 65536)) = true ∧
          (t.thr s.cur).pc = u.me.pc + 4 ∧ (t.thr s.cur).wait = .ready ∧ ∀ v, v ≠ s.cur → t.thr v = u.thr v)))

/-- WATCH, UNWATCH and WAITW (R154 to R156): the word is read and armed in one step, again where the thread had armed it, with bit 63 where
the cluster's table holds 256 entries or the thread has 8 words armed; UNWATCH disarms
the record of the address; WAITW ends with 2 where nothing is armed, with 1 and the fired watches disarmed where one has fired, and else
parks, also on a time-out of zero; WAITW_TIMEOUT ends it with 0 from the tick on, which the machine does when the core cycle ends in which the
timeout has run out. -/
def Watches : Prop :=
  ∀ (d a : BitVec 6) (l : BitVec 8) (c : BitVec 6) (s : State),
    (∀ e va, s.elementAccess s.cur l.toNat c.toNat 1 4 4 = .ok (e, va) →
      (laySpace e ≠ 1 → NoRun s → Does (.watch d l c) s (Trapped s.cur causeLAYOUT (l.setWidth 64) s.me.pc s) ∧
        Does (.unwatch l c) s (Trapped s.cur causeLAYOUT (l.setWidth 64) s.me.pc s)) ∧
      (laySpace e = 1 → ∀ u xs,
        s.meet s.cur { entry := e, need := permR, vas := [va], bytes := (List.range 4).map (va + ·) } = (u, .here xs) → u.cur = s.cur →
        let loc := xlatLoc xs va
        let cl := csmCluster (locModule loc) (locPa loc)
        let word := leNat ((List.range 4).map fun j =>
          u.seen (u.agent u.cur) (directedAt e xs (va + j)) (xlatKey xs (va + j)) (xlatLoc xs (va + j)))
        Does (.watch d l c) s fun t =>
          (∀ v, v ≠ s.cur → t.thr v = u.thr v) ∧ (∀ h, h ≠ cl → t.cluster h = u.cluster h) ∧
          { t.cluster cl with watches := (u.cluster cl).watches } = u.cluster cl ∧
          { t with threads := u.threads, clusters := u.clusters } = u ∧
          ((u.cluster cl).watches.length < 256 → (u.watchesOf s.cur).length < 8 →
            ParkedThread (.response (bankOf loc) (.scalar d (BitVec.ofNat 64 word))) u.me (t.thr s.cur) ∧
            ∃ x ∈ (t.cluster cl).watches, x.thread = s.cur ∧ x.word = loc / 4 ∧ x.va = va ∧ x.fired = false) ∧
          ((∃ x ∈ (u.cluster cl).watches, x.thread = s.cur ∧ x.word = loc / 4) →
            ParkedThread (.response (bankOf loc) (.scalar d (BitVec.ofNat 64 word))) u.me (t.thr s.cur) ∧
            (t.cluster cl).watches.length = (u.cluster cl).watches.length ∧
            ∃ x ∈ (t.cluster cl).watches, x.thread = s.cur ∧ x.word = loc / 4 ∧ x.va = va ∧ x.fired = false) ∧
          ((∀ x ∈ (u.cluster cl).watches, ¬ (x.thread = s.cur ∧ x.word = loc / 4)) →
            256 ≤ (u.cluster cl).watches.length ∨ 8 ≤ (u.watchesOf s.cur).length →
            ParkedThread (.response (bankOf loc) (.scalar d (BitVec.ofNat 64 (word + 2 ^ 63)))) u.me (t.thr s.cur) ∧
            t.cluster cl = u.cluster cl)) ∧
      (laySpace e = 1 → Does (.unwatch l c) s fun t =>
        Completed none_ 0 s.me (t.thr s.cur) ∧ (∀ v, v ≠ s.cur → t.thr v = s.thr v) ∧
        (∀ h, (t.cluster h).watches = (s.cluster h).watches.filter fun x =>
          !decide (x.thread = s.cur ∧ x.va = va ∧ x.ctx = (s.agent s.cur).ctx)) ∧
        (∀ h, { t.cluster h with watches := (s.cluster h).watches } = s.cluster h) ∧
        { t with threads := s.threads, clusters := s.clusters } = s)) ∧
    (NoRun s →
      (s.watchesOf s.cur = [] → Does (.waitw d a) s (Wrote (one d 2) 0 s)) ∧
      ((∃ x ∈ s.watchesOf s.cur, x.fired = true) → Does (.waitw d a) s fun t =>
        Completed (one d 1) 0 s.me (t.thr s.cur) ∧ (∀ v, v ≠ s.cur → t.thr v = s.thr v) ∧
        (∀ h, (t.cluster h).watches = (s.cluster h).watches.filter fun x => !(decide (x.thread = s.cur) && x.fired)) ∧
        { t with threads := s.threads, clusters := s.clusters } = s) ∧
      (s.watchesOf s.cur ≠ [] → (∀ x ∈ s.watchesOf s.cur, x.fired = false) →
        (s.sr a = BitVec.allOnes 64 → Does (.waitw d a) s (Parked (.waitw d none) s)) ∧
        (s.sr a ≠ BitVec.allOnes 64 → Does (.waitw d a) s (Parked (.waitw d (some (s.ticks + (s.sr a).toNat))) s)))) ∧
    (∀ v, (s.thr v).live = true → s.watchesOf v ≠ [] → (∀ x ∈ s.watchesOf v, x.fired = false) →
      ∀ k, (s.thr v).wait = .waitw d (some k) →
        (k ≤ s.ticks → Does (.waitwTimeout v) s fun t => OnlyThread v s t ∧ Completed (one d 0) 0 (s.thr v) (t.thr v)) ∧
        (s.ticks < k → Does (.waitwTimeout v) s fun t => t = s) ∧
        (s.threadEvent v = none) ∧
        (s.waitwTimesOut v = if k ≤ s.ticks ∧ s.nextCycle (threadDie v) ≤ s.advance.time then some (s.complete v (.scalar d 0)) else none))

end Claim

/-- Fences, prefetches, WATCH and WAITW: `Claim.FencesAndPrefetch`, `Claim.Watches`. -/
def Obligations.FencesAndWatches : Prop := Claim.FencesAndPrefetch ∧ Claim.Watches

namespace Claim

/-- ACCESS_RESPONSE (R42, R358): the reply's destination is written, its thread wakes, and on a compute core the bank's accumulators of the
thread's core take the delay and count one; the model has no first-level cache, so that every response counts, which is its choice
(log 11). -/
def AccessResponds : Prop :=
  ∀ (t bank : Nat) (delay : BitVec 16) (d : BitVec 6) (v : Word) (s : State), (s.thr t).live = true →
    (s.thr t).wait = .response bank (.scalar d v) → Does (.accessResponse t delay) s fun r =>
      Completed (one d v) 0 (s.thr t) (r.thr t) ∧ (∀ u, u ≠ t → r.thr u = s.thr u) ∧
      (∀ g, g ≠ threadCore t → r.core g = s.core g) ∧
      (if bank < noBank ∧ isCcc t = false then
        SMap.getD (r.core (threadCore t)).dbg.dsum bank 0 = SMap.getD (s.core (threadCore t)).dbg.dsum bank 0 + delay.setWidth 64 ∧
        SMap.getD (r.core (threadCore t)).dbg.dcnt bank 0 = SMap.getD (s.core (threadCore t)).dbg.dcnt bank 0 + 1
      else r.cores = s.cores) ∧
      (∀ g, { r.core g with dbg := (s.core g).dbg } = s.core g) ∧ { r with threads := s.threads, cores := s.cores } = s ∧ SameBytes s r

/-- WBR and INVR on a range of one page of which the issuing die holds no directed line, or on an entry that is not DIRECTED, change nothing
and are acknowledged (R251); an EVICTION, as WBR does, merges exactly the dirty bytes of the line into memory and removes it (R168, R252);
inside a run they raise ILLEGAL after the abort (R254). -/
def DirectedLines : Prop :=
  ∀ (d : BitVec 6) (l : BitVec 8) (c : BitVec 6) (s : State),
    (NoRun s → s.xlines = [] → s.dirQueue = [] → (∀ m, s.holders m = []) →
      ∀ e va, s.directedRange s.cur l.toNat c.toNat (s.sr d).toNat = .ok (e, va) → laySpace e < 3 → va % 65536 + (s.sr d).toNat ≤ 65536 → (s.core (threadCore s.cur)).livePages (s.agent s.cur).ctx [va / 65536] = [] →
      let u := (s.translate (s.agent s.cur) (laySpace e) (layModule e) permW false va).1
      let x := (s.translate (s.agent s.cur) (laySpace e) (layModule e) permW false va).2
      (x.isSome = true → layDirected e = false ∨ s.sr d = 0 ∨ (u.die (threadDie s.cur)).directed = [] →
          Does (.wbr d l c) s (Parked (.response noBank .none) u) ∧ Does (.invr d l c) s (Parked (.response noBank .none) u)) ∧
      (x = none → Does (.wbr d l c) s (Trapped s.cur causePAGE (BitVec.ofNat 64 va) s.me.pc s) ∧
          Does (.invr d l c) s (Trapped s.cur causePAGE (BitVec.ofNat 64 va) s.me.pc s))) ∧
    (NoRun s → ∀ x, s.directedRange s.cur l.toNat c.toNat (s.sr d).toNat = .error x →
      Does (.wbr d l c) s (Trapped s.cur x.1 x.2 s.me.pc s) ∧ Does (.invr d l c) s (Trapped s.cur x.1 x.2 s.me.pc s)) ∧
    (InTransaction s → Does (.wbr d l c) s (fun t => t = s.illegal (.wbr d l c)) ∧ Does (.invr d l c) s fun t => t = s.illegal (.invr d l c)) ∧
    (∀ die line y, SMap.get? (s.die die).directed line = some y → s.MemoryOk → s.xlines = [] → s.dirQueue = [] →
      (∀ m, s.holders m = []) → (∀ v, (s.thr v).run.active = false) → SameKey s y.key (line * 128) →
      Does (.eviction die line) s fun t =>
        SMap.has (t.die die).directed line = false ∧ (∀ k, k ≠ line → SMap.get? (t.die die).directed k = SMap.get? (s.die die).directed k) ∧
        (∀ i, i < 128 → Memory.get t.mem (line * 128 + i) =
          if y.dirty.getLsbD i = true then lineByte y.data i else Memory.get s.mem (line * 128 + i)) ∧
        SameBytesBut ((List.range 128).map (line * 128 + ·)) s t ∧ t.cores = s.cores ∧ t.records = s.records)

/-- WBR and INVR on a range of one page of which the issuing die holds directed lines, with nothing held at the home (R251 to R253): WBR
writes exactly the dirty bytes of the range to memory and clears their dirty bits, and the lines stay; INVR writes the dirty bytes of the
range's lines that lie outside the range, and removes those lines with their bytes of the range. No other byte of memory changes. -/
def DirectedRanges : Prop :=
  ∀ (d : BitVec 6) (l : BitVec 8) (c : BitVec 6) (s u : State) (e va : Nat) (x : Xlat), NoRun s → s.xlines = [] → s.dirQueue = [] →
    (∀ m, s.holders m = []) → s.directedRange s.cur l.toNat c.toNat (s.sr d).toNat = .ok (e, va) → laySpace e < 3 → layDirected e = true →
    s.sr d ≠ 0 → va % 65536 + (s.sr d).toNat ≤ 65536 → (s.core (threadCore s.cur)).livePages (s.agent s.cur).ctx [va / 65536] = [] →
    s.translate (s.agent s.cur) (laySpace e) (layModule e) permW false va = (u, some x) → x.uncached = false → u.MemoryOk →
    let die := threadDie s.cur
    let lo := x.loc + va % 65536
    let hi := lo + (s.sr d).toNat
    let near (k : Nat) : Prop := k * 128 < hi ∧ lo < k * 128 + 128
    (∀ k y, SMap.get? (u.die die).directed k = some y → near k → SameKey u x.key (k * 128)) →
    let written (inside : Bool) (t : State) : Prop := ∀ k i, i < 128 →
      ((∃ y, SMap.get? (u.die die).directed k = some y ∧ near k ∧ y.dirty.getLsbD i = true ∧
        (lo ≤ k * 128 + i ∧ k * 128 + i < hi ↔ inside = true) ∧ Memory.get t.mem (k * 128 + i) = lineByte y.data i) ∨
      ((∀ y, SMap.get? (u.die die).directed k = some y → near k → y.dirty.getLsbD i = true →
        ¬ (lo ≤ k * 128 + i ∧ k * 128 + i < hi ↔ inside = true)) ∧ Memory.get t.mem (k * 128 + i) = Memory.get u.mem (k * 128 + i)))
    let frame (t : State) : Prop := ParkedThread (.response noBank .none) u.me (t.thr s.cur) ∧ (∀ v, v ≠ s.cur → t.thr v = u.thr v) ∧
      t.cores = u.cores ∧ t.records = u.records ∧ ∀ h, h ≠ die → t.die h = u.die h
    Does (.wbr d l c) s (fun t => written true t ∧ frame t ∧ ∀ k,
      match SMap.get? (u.die die).directed k, SMap.get? (t.die die).directed k with
      | some y, some z => z.data = y.data ∧ z.key = y.key ∧
          ∀ i, i < 128 → z.dirty.getLsbD i = (y.dirty.getLsbD i && !decide (lo ≤ k * 128 + i ∧ k * 128 + i < hi))
      | none, none => True
      | _, _ => False) ∧
    Does (.invr d l c) s fun t => written false t ∧ frame t ∧ ∀ k,
      (near k → SMap.get? (t.die die).directed k = none) ∧ (¬ near k → SMap.get? (t.die die).directed k = SMap.get? (u.die die).directed k)

end Claim

/-- Replies write their destination; directed lines: `Claim.CompletionWrites`, `Claim.AccessResponds`, `Claim.DirectedLines`,
`Claim.DirectedRanges`. -/
def Obligations.RepliesAndDirectedLines : Prop :=
  Claim.CompletionWrites ∧ Claim.AccessResponds ∧ Claim.DirectedLines ∧ Claim.DirectedRanges

/-! ### Vectors, predicates and the lane store -/

namespace Claim

/-- Lane i of window register n of the thread that issues. -/
def at_ (s : State) (n : BitVec 6) (i : Nat) : W32 := lane (s.vecAt s.cur n.toNat) i

/-- The 32-bit number whose bit i is set where `f i` holds. -/
def lanesThat (f : Nat → Bool) : BitVec 32 := BitVec.ofNat 32 ((List.range 32).map fun i => if f i then 2 ^ i else 0).sum

/-- A two's-complement 32-bit word from an integer clamped to its range. -/
def clamped (z : Int) : W32 := if 2 ^ 31 ≤ z then 0x7FFFFFFF else if z < -2 ^ 31 then 0x80000000 else BitVec.ofInt 32 z

/-- The vector integer instructions compute each active lane as the table of R198 says, after reading all sources; an inactive lane and
everything else keep their values (R195, R196). -/
def VectorIntegers : Prop :=
  ∀ (d a b : BitVec 6) (p : BitVec 3) (s : State), Clean s [(a.toNat, s.mask p), (b.toNat, s.mask p)] →
    let x := at_ s a
    let y := at_ s b
    let W (f : Nat → W32) := WroteVec d.toNat (s.mask p) f s
    Does (.vadd d a b p) s (W fun i => BitVec.ofInt 32 ((x i).toNat + (y i).toNat)) ∧
    Does (.vsub d a b p) s (W fun i => BitVec.ofInt 32 ((x i).toNat - (y i).toNat)) ∧
    Does (.vmul d a b p) s (W fun i => BitVec.ofInt 32 ((x i).toNat * (y i).toNat)) ∧
    Does (.vmin d a b p) s (W fun i => BitVec.ofInt 32 (min (x i).toInt (y i).toInt)) ∧
    Does (.vmax d a b p) s (W fun i => BitVec.ofInt 32 (max (x i).toInt (y i).toInt)) ∧
    Does (.vminu d a b p) s (W fun i => BitVec.ofNat 32 (min (x i).toNat (y i).toNat)) ∧
    Does (.vmaxu d a b p) s (W fun i => BitVec.ofNat 32 (max (x i).toNat (y i).toNat)) ∧
    Does (.vand d a b p) s (W fun i => x i &&& y i) ∧
    Does (.vor d a b p) s (W fun i => x i ||| y i) ∧
    Does (.vxor d a b p) s (W fun i => x i ^^^ y i) ∧
    Does (.vsll d a b p) s (W fun i => BitVec.ofNat 32 ((x i).toNat * 2 ^ ((y i).toNat % 32))) ∧
    Does (.vsrl d a b p) s (W fun i => BitVec.ofNat 32 ((x i).toNat / 2 ^ ((y i).toNat % 32))) ∧
    Does (.vsra d a b p) s (W fun i => BitVec.ofInt 32 ((x i).toInt / 2 ^ ((y i).toNat % 32))) ∧
    Does (.vadds d a b p) s (W fun i => clamped ((x i).toInt + (y i).toInt)) ∧
    Does (.vsubs d a b p) s (W fun i => clamped ((x i).toInt - (y i).toInt))

/-- The vector FP32 and BF16 instructions round the exact result of each active lane, or of each half, once; c is the old v[d] (R199, R200).
VFDIV and VFSQRT park until 24 cycles after issue, and their results are then written under the predicate (R196, R201). -/
def VectorFloats : Prop :=
  ∀ (d a b : BitVec 6) (p : BitVec 3) (s : State),
    Clean s [(a.toNat, s.mask p), (b.toNat, s.mask p), (d.toNat, s.mask p)] →
    let x (i : Nat) := num32 (at_ s a i)
    let y (i : Nat) := num32 (at_ s b i)
    let c (i : Nat) := num32 (at_ s d i)
    let part (n : BitVec 6) (k i : Nat) : Machine.Num := num16 ((at_ s n i).toNat / 2 ^ (16 * k) % 65536)
    let pair (f : Nat → Machine.Num) : W32 := BitVec.ofNat 16 (rne16 (f 1)) ++ BitVec.ofNat 16 (rne16 (f 0))
    let W (f : Nat → W32) := WroteVec d.toNat (s.mask p) f s
    let P (f : Nat → W32) := Parked (.result .vector (s.cycleOf s.cur + 24) (.vector d (s.mask p) (ofLanes f))) s
    Does (.vfadd d a b p) s (W fun i => rne32 ((x i).add (y i))) ∧
    Does (.vfsub d a b p) s (W fun i => rne32 ((x i).add (y i).neg)) ∧
    Does (.vfmul d a b p) s (W fun i => rne32 ((x i).mul (y i))) ∧
    Does (.vfmin d a b p) s (W fun i => min32 (at_ s a i) (at_ s b i)) ∧
    Does (.vfmax d a b p) s (W fun i => max32 (at_ s a i) (at_ s b i)) ∧
    Does (.vfabs d a p) s (W fun i => at_ s a i &&& 0x7FFFFFFF) ∧
    Does (.vfneg d a p) s (W fun i => at_ s a i ^^^ 0x80000000) ∧
    Does (.vfma d a b p) s (W fun i => rne32 (((x i).mul (y i)).add (c i))) ∧
    Does (.vfms d a b p) s (W fun i => rne32 ((c i).add ((x i).mul (y i)).neg)) ∧
    Does (.vbadd d a b p) s (W fun i => pair fun k => (part a k i).add (part b k i)) ∧
    Does (.vbmul d a b p) s (W fun i => pair fun k => (part a k i).mul (part b k i)) ∧
    Does (.vbfma d a b p) s (W fun i => pair fun k => ((part a k i).mul (part b k i)).add (part d k i)) ∧
    Does (.vfdiv d a b p) s (P fun i => rne32 ((x i).div (y i))) ∧
    Does (.vfsqrt d a p) s (P fun i => rne32 (x i).sqrt)

/-- VFMIN and VFMAX: a NaN operand is ignored, two NaNs give 0x7FC0_0000, -0 is below +0, and else the smaller or the larger operand by
value is the result (R199). -/
def MinimumAndMaximum : Prop :=
  ∀ x y : W32,
    (isNan x = true → isNan y = true → min32 x y = 0x7FC00000 ∧ max32 x y = 0x7FC00000) ∧
    (isNan x = true → isNan y = false → min32 x y = y ∧ max32 x y = y) ∧
    (isNan x = false → isNan y = true → min32 x y = x ∧ max32 x y = x) ∧
    (min32 0 0x80000000 = 0x80000000 ∧ min32 0x80000000 0 = 0x80000000 ∧ max32 0 0x80000000 = 0 ∧ max32 0x80000000 0 = 0) ∧
    (∀ q r, rational (num32 x) = some q → rational (num32 y) = some r → q < r →
      min32 x y = x ∧ min32 y x = x ∧ max32 x y = y ∧ max32 y x = y) ∧
    (isNan x = false → min32 x 0xFF800000 = 0xFF800000 ∧ max32 x 0x7F800000 = 0x7F800000)

/-- The compares set the active lanes' bits where the relation holds and clear all others; PAND, POR, PXOR and PNOT combine predicates
(R202, R203). Only that predicate is written; p0 never is (R56). -/
def ComparesAndPredicates : Prop :=
  ∀ (d a b : BitVec 6) (p : BitVec 3) (s : State),
    (Clean s [(a.toNat, s.mask p), (b.toNat, s.mask p)] →
      let x := at_ s a
      let y := at_ s b
      let W (f : Nat → Bool) := WrotePred d (lanesThat fun i => (s.mask p).getLsbD i && f i) s
      Does (.vceq d a b p) s (W fun i => decide (x i = y i)) ∧
      Does (.vcne d a b p) s (W fun i => decide (x i ≠ y i)) ∧
      Does (.vclt d a b p) s (W fun i => decide ((x i).toInt < (y i).toInt)) ∧
      Does (.vcle d a b p) s (W fun i => decide ((x i).toInt ≤ (y i).toInt)) ∧
      Does (.vcltu d a b p) s (W fun i => decide ((x i).toNat < (y i).toNat)) ∧
      Does (.vcleu d a b p) s (W fun i => decide ((x i).toNat ≤ (y i).toNat)) ∧
      Does (.vfceq d a b p) s (W fun i => (num32 (x i)).eq (num32 (y i))) ∧
      Does (.vfclt d a b p) s (W fun i => (num32 (x i)).lt (num32 (y i))) ∧
      Does (.vfcle d a b p) s (W fun i => (num32 (x i)).lt (num32 (y i)) || (num32 (x i)).eq (num32 (y i))) ∧
      Does (.vfcun d a b p) s (W fun i => isNan (x i) || isNan (y i))) ∧
    (let P (v : BitVec 32) := WrotePred d v s;
      Does (.pand d a b) s (P (s.me.p a.toNat &&& s.me.p b.toNat)) ∧
      Does (.por d a b) s (P (s.me.p a.toNat ||| s.me.p b.toNat)) ∧
      Does (.pxor d a b) s (P (s.me.p a.toNat ^^^ s.me.p b.toNat)) ∧
      Does (.pnot d a) s (P (BitVec.allOnes 32 ^^^ s.me.p a.toNat)))

/-- VSEL, VPERM, VBCAST, VROT, VINSR and VIOTA move whole lanes into v[d], VEXTR and VPOPC write one scalar (R203, R212, R213); VMOVI and
VSTOI reach a register of the window by index, and an index at or beyond W raises LAYOUT_BOUNDS with nothing changed (R214, R276). -/
def LaneMoves : Prop :=
  ∀ (d a b : BitVec 6) (p : BitVec 3) (s : State),
    let k := (s.sr b).toNat % 32
    let r := (s.sr a).toNat
    let W (m : BitVec 32) (f : Nat → W32) := WroteVec d.toNat m f s
    let all := BitVec.allOnes 32
    (Clean s [(a.toNat, all), (b.toNat, all)] →
      Does (.vsel d a b p) s (W all fun i => if (s.mask p).getLsbD i then at_ s a i else at_ s b i) ∧
      Does (.vperm d a b) s (W all fun i => at_ s a ((at_ s b i).toNat % 32)) ∧
      Does (.vrot d a b) s (W all fun i => at_ s a ((i + k) % 32)) ∧
      Does (.vextr d a b) s (Wrote (one d ((at_ s a k).setWidth 64)) 0 s)) ∧
    Does (.vbcast d a p) s (W (s.mask p) fun _ => BitVec.ofNat 32 r) ∧
    Does (.vinsr d a b) s (W (BitVec.ofNat 32 (2 ^ k)) fun _ => BitVec.ofNat 32 r) ∧
    Does (.viota d) s (W all fun i => BitVec.ofNat 32 i) ∧
    Does (.vpopc d a) s (Wrote (one d (BitVec.ofNat 64 ((List.range 32).countP fun i => (s.me.p a.toNat).getLsbD i))) 0 s) ∧
    (r < winSize s.cur s.me → Clean s [(r, all), (d.toNat, all)] →
      Does (.vmovi d a) s (W all fun i => lane (s.vecAt s.cur r) i) ∧
      Does (.vstoi d a) s (WroteVec r all (at_ s d) s)) ∧
    (winSize s.cur s.me ≤ r → ∀ i ∈ [Instr.vmovi d a, .vstoi d a], Does i s fun t =>
      let v : Word := BitVec.ofNat 64 (2 ^ 63 + r % 2 ^ 63);
      t = s.trap causeLAYOUT v ∧ (NoRun s → Trapped s.cur causeLAYOUT v s.me.pc s t))

/-- The instruction of the thread that issues is complete and wrote scalars, the stochastic generators and registers of its store: only
the store's registers of the list may differ. -/
structure WroteRegs (w : Nat → Option Word) (gens : SMap W32) (ks : List Nat) (s t : State) : Prop where
  scalars : ∀ n, n ≠ 0 → (t.thr s.cur).s n = (w n).getD (s.me.s n)
  zero : (t.thr s.cur).s 0 = 0
  generators : (t.thr s.cur).gens = gens
  pc : (t.thr s.cur).pc = s.me.pc + 4
  counted : (t.thr s.cur).insn = s.me.insn + 1
  awake : (t.thr s.cur).wait = .ready
  thread : { t.thr s.cur with
    sreg := s.me.sreg, gens := s.me.gens, pc := s.me.pc, insn := s.me.insn, wait := s.me.wait,
    run := { (t.thr s.cur).run with undoRegs := s.me.run.undoRegs } } = s.me
  others : ∀ k, k ∉ ks → SMap.getD (t.core (threadCore s.cur)).store k 0 = SMap.getD (s.core (threadCore s.cur)).store k 0
  core : { t.core (threadCore s.cur) with
    store := (s.core (threadCore s.cur)).store, dirty := (s.core (threadCore s.cur)).dirty } = s.core (threadCore s.cur)
  threads : ∀ v, v ≠ s.cur → t.thr v = s.thr v
  cores : ∀ h, h ≠ threadCore s.cur → t.core h = s.core h
  rest : { t with threads := s.threads, cores := s.cores, badRegs := s.badRegs } = s
  bytes : SameBytes s t

/-- The words of the selections, predicate operations, lane numbers, moves by index and integer conversions: f4 [31:28], p [27:25], b [24:19],
a [18:13], d [12:7], op [6:0]. A word of these opcodes with an unassigned f4, with a field of the zero class that is not zero, or with p0 as
the destination of a predicate operation does not decode (R203, R204, R213 to R215, R55, R60). -/
def VectorWords : Prop :=
  (∀ (d a b : BitVec 6) (p : BitVec 3),
    let v (op f4 p b a : Nat) : Nat := f4 * 2 ^ 28 + p * 2 ^ 25 + b * 2 ^ 19 + a * 2 ^ 13 + d.toNat * 2 ^ 7 + op
    (encode (.vsel d a b p)).toNat = v 0x35 0 p.toNat b.toNat a.toNat ∧ (encode (.pand d a b)).toNat = v 0x35 1 0 b.toNat a.toNat ∧
    (encode (.por d a b)).toNat = v 0x35 2 0 b.toNat a.toNat ∧ (encode (.pxor d a b)).toNat = v 0x35 3 0 b.toNat a.toNat ∧
    (encode (.pnot d a)).toNat = v 0x35 4 0 0 a.toNat ∧ (encode (.vcvtif d a p)).toNat = v 0x36 0 p.toNat 0 a.toNat ∧
    (encode (.vcvtfi d a p)).toNat = v 0x36 1 p.toNat 0 a.toNat ∧ (encode (.viota d)).toNat = v 0x42 0 0 0 0 ∧
    (encode (.vpopc d a)).toNat = v 0x42 1 0 0 a.toNat ∧ (encode (.vmovi d a)).toNat = v 0x3F 0 0 0 a.toNat ∧
    (encode (.vstoi d a)).toNat = v 0x3F 1 0 0 a.toNat) ∧
  ∀ w : BitVec 32,
    let op := w.toNat % 128
    let f4 := w.toNat / 2 ^ 28
    let p := w.toNat / 2 ^ 25 % 8
    let b := w.toNat / 2 ^ 19 % 64
    let d := w.toNat / 2 ^ 7 % 64
    (op = 0x35 → 5 ≤ f4 ∨ (1 ≤ f4 ∧ (p ≠ 0 ∨ d = 0)) ∨ (f4 = 4 ∧ b ≠ 0) → (decode w).isOk = false) ∧
    (op = 0x36 → 2 ≤ f4 ∨ b ≠ 0 → (decode w).isOk = false) ∧
    (op = 0x3F → 3 ≤ f4 ∨ (f4 ≤ 1 ∧ (p ≠ 0 ∨ b ≠ 0)) → (decode w).isOk = false) ∧ (op = 0x40 → 2 ≤ f4 → (decode w).isOk = false) ∧
    (op = 0x42 → 2 ≤ f4 ∨ p ≠ 0 ∨ b ≠ 0 → (decode w).isOk = false)

/-- VGATH, VLDX and VSTX reach the words of the window that their active lanes name; a lane at or beyond W raises LAYOUT_BOUNDS before any
lane takes effect (R215, R276); that the trap value names the lowest such lane's index is the model's choice (log 35). -/
def LaneStore : Prop :=
  ∀ (d a b : BitVec 6) (p : BitVec 3) (s : State), Clean s [(a.toNat, s.mask p), (d.toNat, s.mask p)] →
    let w (i : Nat) : Nat := (at_ s a i).toNat
    let base := (s.sr b).toNat
    let size := winSize s.cur s.me
    let active := (List.range 32).filter fun i => (s.mask p).getLsbD i
    ((∀ i, i ∈ active → base + w i / 32 < size ∧ SMap.getD s.badRegs (threadCore s.cur * 4096 + s.phys s.cur (base + w i / 32)) 0 = 0) →
      Does (.vgath d a b p) s (WroteVec d.toNat (s.mask p) (fun i => lane (s.vecAt s.cur (base + w i / 32)) (w i % 32)) s)) ∧
    ((∀ i, i ∈ active → base + w i < size ∧ SMap.getD s.badRegs (threadCore s.cur * 4096 + s.phys s.cur (base + w i)) 0 = 0) →
      Does (.vldx d a b p) s (WroteVec d.toNat (s.mask p) (fun i => lane (s.vecAt s.cur (base + w i)) i) s)) ∧
    ((∀ i, i ∈ active → base + w i < size) →
      Does (.vstx d a b p) s fun t =>
        WroteRegs none_ s.me.gens (active.map fun i => s.phys s.cur (base + w i)) s t ∧
        ∀ k i, i < 32 → lane (SMap.getD (t.core (threadCore s.cur)).store k 0) i =
          if i ∈ active ∧ s.phys s.cur (base + w i) = k then at_ s d i
          else lane (SMap.getD (s.core (threadCore s.cur)).store k 0) i) ∧
    (∀ i, active.find? (fun i => decide (size ≤ base + w i)) = some i → NoRun s →
      let T := Trapped s.cur causeLAYOUT (BitVec.ofNat 64 (2 ^ 63 + (base + w i) % 2 ^ 63)) s.me.pc s
      Does (.vldx d a b p) s T ∧ Does (.vstx d a b p) s T) ∧
    ∀ i, active.find? (fun i => decide (size ≤ base + w i / 32)) = some i → NoRun s →
      Does (.vgath d a b p) s (Trapped s.cur causeLAYOUT (BitVec.ofNat 64 (2 ^ 63 + (base + w i / 32) % 2 ^ 63)) s.me.pc s)

end Claim

/-- Vector compares, predicates, selections and lane moves: `Claim.ComparesAndPredicates`, `Claim.LaneMoves`, `Claim.VectorWords`,
`Claim.LaneStore`. -/
def Obligations.VectorLanes : Prop := Claim.ComparesAndPredicates ∧ Claim.LaneMoves ∧ Claim.VectorWords ∧ Claim.LaneStore

namespace Claim

/-- Reading a window register of which a lane that the instruction needs is uncorrectable raises DATA_ERROR, and nothing changes (R285). -/
def BadRegistersTrap : Prop :=
  ∀ (d a b : BitVec 6) (p : BitVec 3) (s : State), NoRun s →
    let bad (n : BitVec 6) : Bool := decide (SMap.getD s.badRegs (threadCore s.cur * 4096 + s.phys s.cur n.toNat) 0 &&& s.mask p ≠ 0)
    ∀ i ∈ [Instr.vadd d a b p, .vmul d a b p, .vfadd d a b p, .vbadd d a b p, .vceq d a b p, .vfdiv d a b p],
      (bad a = true → Does i s (Trapped s.cur causeDATA (BitVec.ofNat 64 (2 ^ 63 + s.phys s.cur a.toNat)) s.me.pc s)) ∧
      (bad a = false → bad b = true → Does i s (Trapped s.cur causeDATA (BitVec.ofNat 64 (2 ^ 63 + s.phys s.cur b.toNat)) s.me.pc s))

end Claim

/-- Vector integer, FP32 and BF16 arithmetic: `Claim.VectorIntegers`, `Claim.VectorFloats`, `Claim.MinimumAndMaximum`,
`Claim.BadRegistersTrap`. -/
def Obligations.VectorArithmetic : Prop := Claim.VectorIntegers ∧ Claim.VectorFloats ∧ Claim.MinimumAndMaximum ∧ Claim.BadRegistersTrap

namespace Claim

/-- FP32 value rounded toward zero to a signed 32-bit integer (R204). -/
def toSigned (x : W32) : W32 :=
  match rational (num32 x) with
  | some q => clamped (towardZero q)
  | none => if isNan x then 0 else if x.getLsbD 31 then 0x80000000 else 0x7FFFFFFF

/-- VCVTIF, VCVTFI and the approximations act on each active lane (R204, R208). VCVTN, VCVTZ and VCVTS convert element e of the FP32 group
to element e of the packed group, rounding to nearest, toward zero, or with the generator of the lane, which advances once for each source
register; VCVTW widens exactly; no other register changes (R192, R205 to R207). -/
def VectorConversions : Prop :=
  ∀ (d a : BitVec 6) (p : BitVec 3) (t : BitVec 4) (s : State),
    (Clean s [(a.toNat, s.mask p)] →
      let W (f : Nat → W32) := WroteVec d.toNat (s.mask p) f s
      Does (.vcvtif d a p) s (W fun i => rne32 (.fin (at_ s a i).msb (at_ s a i).toInt.natAbs 0)) ∧
      Does (.vcvtfi d a p) s (W fun i => toSigned (at_ s a i)) ∧
      Does (.vrcp d a p) s (W fun i => rcp32 (at_ s a i)) ∧
      Does (.vrsqrt d a p) s (W fun i => rsqrt32 (at_ s a i)) ∧
      Does (.vexp2 d a p) s (W fun i => vexp32 (at_ s a i)) ∧
      Does (.vlog2 d a p) s (W fun i => log2Approx (at_ s a i))) ∧
    (let k := t.toNat
      let wide := if k = 1 ∨ k = 2 then 2 else if k = 5 ∨ k = 6 then 16 else if k = 7 ∨ k = 9 then 8 else 4
      let packed := if k = 5 ∨ k = 6 then 3 else 1
      let bits_ := if k = 1 ∨ k = 2 then 16 else if k = 5 ∨ k = 6 then 6 else if k = 7 ∨ k = 9 then 4 else 8
      let regs (r n : Nat) : List Nat := (List.range n).map fun j => s.phys s.cur (r + j)
      let element (u : State) (r e : Nat) : Nat := u.groupBits r packed / 2 ^ (bits_ * e) % 2 ^ bits_
      let wideLane (u : State) (r e : Nat) : W32 := lane (u.vecAt s.cur (r + e / 32)) (e % 32)
      1 ≤ k → k ≤ 9 →
      (d.toNat + packed ≤ 64 → a.toNat + wide ≤ 64 → Clean s (wholeRegs a.toNat wide) →
        Does (.vcvtn d a t) s (fun u => WroteRegs none_ s.me.gens (regs d.toNat packed) s u ∧
          ∀ e, e < 32 * wide → element u d.toNat e = narrow k .rne (wideLane s a.toNat e)) ∧
        Does (.vcvtz d a t) s (fun u => WroteRegs none_ s.me.gens (regs d.toNat packed) s u ∧
          ∀ e, e < 32 * wide → element u d.toNat e = narrow k .rtz (wideLane s a.toNat e)) ∧
        Does (.vcvts d a t) s (fun u => WroteRegs none_ (u.thr s.cur).gens (regs d.toNat packed) s u ∧
          (∀ e, e < 32 * wide → element u d.toNat e =
            narrow k (.sr (advance^[e / 32 + 1] (s.me.gen (e % 32)))) (wideLane s a.toNat e)) ∧
          ∀ j, j < 32 → (u.thr s.cur).gen j = advance^[wide] (s.me.gen j))) ∧
      (d.toNat + wide ≤ 64 → a.toNat + packed ≤ 64 → Clean s (wholeRegs a.toNat packed) →
        Does (.vcvtw d a t) s (fun u => WroteRegs none_ s.me.gens (regs d.toNat wide) s u ∧
          ∀ e, e < 32 * wide → wideLane u d.toNat e = rne32 (elemValue k (element s a.toNat e)))))

/-- The approximations' special inputs, and VRCP's value: no member of G12 lies nearer to 1/x (R208). -/
def Approximations : Prop :=
  (∀ x : W32, isNan x = true → rcp32 x = 0x7FC00000 ∧ rsqrt32 x = 0x7FC00000 ∧ vexp32 x = 0x7FC00000 ∧ log2Approx x = 0x7FC00000) ∧
  (rcp32 0 = 0x7F800000 ∧ rcp32 0x80000000 = 0xFF800000 ∧ rcp32 0x7F800000 = 0 ∧ rcp32 0xFF800000 = 0x80000000) ∧
  (rsqrt32 0 = 0x7F800000 ∧ rsqrt32 0x80000000 = 0xFF800000 ∧ rsqrt32 0x7F800000 = 0) ∧
  (vexp32 0xFF800000 = 0 ∧ vexp32 0x7F800000 = 0x7F800000) ∧
  (log2Approx 0 = 0xFF800000 ∧ log2Approx 0x80000000 = 0xFF800000 ∧ log2Approx 0x7F800000 = 0x7F800000 ∧ log2Approx 0x3F800000 = 0) ∧
  (∀ (x : W32) (q : ℚ), rational (num32 x) = some q → q < 0 → rsqrt32 x = 0x7FC00000 ∧ log2Approx x = 0x7FC00000) ∧
  (∀ (x : W32) (q r : ℚ) (m n : Nat), rational (num32 x) = some q → q ≠ 0 → rational (num32 (rcp32 x)) = some r → m < 4096 →
    |r - 1 / q| ≤ |(if q < 0 then -1 else 1) * (m : ℚ) * 2 ^ ((n : Int) - 149) - 1 / q|)

end Claim

/-- Vector conversions and approximations: `Claim.VectorConversions`, `Claim.Approximations`. -/
def Obligations.VectorConversions : Prop := Claim.VectorConversions ∧ Claim.Approximations

namespace Claim

/-- One node of the tree of VREDFADD. -/
def joined : Option W32 → Option W32 → Option W32
  | some x, some y => some (rne32 ((num32 x).add (num32 y)))
  | some x, none => some x
  | none, y => y

/-- Slot i of a level of the tree of VREDFADD over given leaves (R210). -/
def slotOf (leaf : Nat → Option W32) : Nat → Nat → Option W32
  | 0, i => leaf i
  | n + 1, i => joined (slotOf leaf n (2 * i)) (slotOf leaf n (2 * i + 1))

/-- The reductions write s[d] from the active lanes, with the value of the table's last column where none is active (R209, R210); the scans
write the running sums of the active lanes (R211). -/
def ReductionsAndScans : Prop :=
  ∀ (d a : BitVec 6) (p : BitVec 3) (s : State), Clean s [(a.toNat, s.mask p)] →
    let upTo (n : Nat) : List W32 := ((List.range n).filter fun i => (s.mask p).getLsbD i).map (at_ s a)
    let xs := upTo 32
    let W (v : Word) := Wrote (one d v) 0 s
    let running (n : Nat) : Option W32 := (upTo n).foldl (fun r x => joined r (some x)) none
    Does (.vredadd d a p) s (W ((xs.foldl (· + ·) 0).signExtend 64)) ∧
    Does (.vredmax d a p) s (W (BitVec.ofInt 64 ((xs.map (·.toInt)).foldl max (-2 ^ 31)))) ∧
    Does (.vredmin d a p) s (W (BitVec.ofInt 64 ((xs.map (·.toInt)).foldl min (2 ^ 31 - 1)))) ∧
    Does (.vredfadd d a p) s (W (((slotOf (fun i => if (s.mask p).getLsbD i then some (at_ s a i) else none) 5 0).getD 0).setWidth 64)) ∧
    Does (.vredfmax d a p) s (W ((if xs ≠ [] ∧ (∀ x ∈ xs, isNan x = true) then 0x7FC00000 else xs.foldl max32 0xFF800000 : W32).setWidth 64)) ∧
    Does (.vredfmin d a p) s (W ((if xs ≠ [] ∧ (∀ x ∈ xs, isNan x = true) then 0x7FC00000 else xs.foldl min32 0x7F800000 : W32).setWidth 64)) ∧
    Does (.vscanadd d a p) s (WroteVec d.toNat (s.mask p) (fun i => (upTo (i + 1)).foldl (· + ·) 0) s) ∧
    Does (.vscanfadd d a p) s (WroteVec d.toNat (s.mask p) (fun i => (running (i + 1)).getD 0) s)

/-- VCOMPRESS stores each entry's value and offset where the cursor places them, leaves the other registers alone and writes the new cursor
(R216, R217); VEXPAND writes the lanes of its predicate from START on and the new cursor (R218); both raise ILLEGAL for a START above 32 or
a nonzero reserved field (R217). -/
def Compaction : Prop :=
  ∀ (d a b : BitVec 6) (p : BitVec 3) (s : State), winSize s.cur s.me ≤ 4096 → s.badRegs = [] →
    let field (c hi lo : Nat) : Nat := c / 2 ^ lo % 2 ^ (hi + 1 - lo)
    let after (c ovf start done gap nent : Nat) : Word := BitVec.ofNat 64
      (field c 23 0 + 2 ^ 24 * nent + 2 ^ 40 * gap + 2 ^ 51 * done + 2 ^ 57 * start + 2 ^ 63 * ovf)
    let valueReg (c n : Nat) : Nat := field c 11 0 + n / 32
    let offsetReg (c n : Nat) : Nat := field c 23 12 + n / 128
    let c := (s.sr b).toNat
    let e := (s.sr a).toNat
    let lanes (c : Nat) : List Nat := (List.range 32).filter fun i => decide (field c 62 57 ≤ i)
    let q := (lanes c).foldl (fun (q : Pack) i => q.lane i (if (s.mask p).getLsbD i then at_ s a i else 0))
      { gap := field c 47 40, nent := field c 39 24 }
    let u := (lanes e).foldl (s.expandLane e ((s.sr b).toNat % 65536)) { gap := field e 47 40, nent := field e 39 24 }
    (field c 62 57 ≤ 32 → field c 50 48 = 0 →
      (∀ x ∈ q.stored, valueReg c x.1 < winSize s.cur s.me ∧ offsetReg c x.1 < winSize s.cur s.me) →
      (∀ x ∈ q.stored, ∀ y ∈ q.stored, valueReg c x.1 ≠ offsetReg c y.1) →
      Does (.vcompress d a b p) s fun t =>
        WroteRegs (one d (after c (if q.stop.isSome then 1 else 0) (q.stop.getD 0) q.stored.length q.gap q.nent)) s.me.gens
          (q.stored.flatMap fun x => [s.phys s.cur (valueReg c x.1), s.phys s.cur (offsetReg c x.1)]) s t ∧
        ∀ x ∈ q.stored, lane (t.vecAt s.cur (valueReg c x.1)) (x.1 % 32) = x.2.1 ∧
          (lane (t.vecAt s.cur (offsetReg c x.1)) (x.1 % 128 / 4)).toNat / 2 ^ (8 * (x.1 % 4)) % 256 = x.2.2) ∧
    (field e 62 57 ≤ 32 → field e 50 48 = 0 → (∀ r ∈ u.reads, r.1 < winSize s.cur s.me) →
      Does (.vexpand d a b p) s fun t =>
        WroteRegs (one a (after e 0 0 u.used u.gap u.nent)) s.me.gens [s.phys s.cur d.toNat] s t ∧
        ∀ i, i < 32 → lane (t.vecAt s.cur d.toNat) i =
          if (s.mask p).getLsbD i ∧ field e 62 57 ≤ i then ((u.lanes.find? fun x => decide (x.1 = i)).map (·.2)).getD 0 else at_ s d i) ∧
    (NoRun s → 32 < field c 62 57 ∨ field c 50 48 ≠ 0 →
      Does (.vcompress d a b p) s (Trapped s.cur causeILLEGAL ((encode (.vcompress d a b p)).setWidth 64) s.me.pc s)) ∧
    (NoRun s → 32 < field e 62 57 ∨ field e 50 48 ≠ 0 →
      Does (.vexpand d a b p) s (Trapped s.cur causeILLEGAL ((encode (.vexpand d a b p)).setWidth 64) s.me.pc s))

end Claim

/-- Vector reductions, scans and compaction: `Claim.ReductionsAndScans`, `Claim.Compaction`. -/
def Obligations.VectorReductions : Prop := Claim.ReductionsAndScans ∧ Claim.Compaction

/-! ### Accumulators, format registers, MMA and NBMV -/

namespace Claim

/-- The instruction of the thread that issues is complete and wrote tile k of its core: every other tile, every register and all of memory
are as before; no element of the tile is uncorrectable (R229, R285). -/
structure WroteTile (k : Nat) (v : Tile) (s t : State) : Prop where
  tile : t.tileAt (threadCore s.cur) k = v
  others : ∀ j, j ≠ k → t.tileAt (threadCore s.cur) j = s.tileAt (threadCore s.cur) j
  core : { t.core (threadCore s.cur) with accs := (s.core (threadCore s.cur)).accs } = s.core (threadCore s.cur)
  thread : { t.thr s.cur with
    pc := s.me.pc, insn := s.me.insn, wait := s.me.wait, run := { (t.thr s.cur).run with undoTiles := s.me.run.undoTiles } } = s.me
  pc : (t.thr s.cur).pc = s.me.pc + 4
  counted : (t.thr s.cur).insn = s.me.insn + 1
  awake : (t.thr s.cur).wait = .ready
  threads : ∀ v, v ≠ s.cur → t.thr v = s.thr v
  cores : ∀ h, h ≠ threadCore s.cur → t.core h = s.core h
  good : SMap.getD t.badAccs (threadCore s.cur * 32 + k) 0 = 0
  rest : { t with threads := s.threads, cores := s.cores, badAccs := s.badAccs } = s
  bytes : SameBytes s t

/-- A named accumulator of a compute core that no MMA has locked, with every element correct and every register of the store correct. -/
structure FreeTile (e : BitVec 5) (s : State) : Prop where
  named : e.toNat < s.me.tiles.length
  onCore : isCcc s.cur = false
  unlocked : (s.core (threadCore s.cur)).locks.contains (s.me.tile e.toNat) = false
  elements : SMap.getD s.badAccs (threadCore s.cur * 32 + s.me.tile e.toNat) 0 = 0
  registers : s.badRegs = []

/-- The word that ACCCVT makes of an element: for ACCT = 1 the FP32 value, or the integer clamped to the target's bits; for ACCT = 0 the
element itself, or its conversion with round to nearest (R230). -/
def converted (acct : Bool) (t : Nat) (x : W32) : Nat :=
  if acct then
    if t = 0 then (rne32 (.fin x.msb x.toInt.natAbs 0)).toNat
    else (max (-2 ^ (elemBits t - 1)) (min (2 ^ (elemBits t - 1) - 1) x.toInt) % 2 ^ elemBits t).toNat
  else if t = 0 then x.toNat else narrow t .rne x

/-- The accumulator moves (R229, R230): ACCZERO clears the tile, ACCLD and ACCST move all 256 elements between it and eight registers of the
window, ACCCVT packs the converted elements; the checks of R229 come in their order, and a locked tile is a retry (R224). -/
def AccumulatorMoves : Prop :=
  ∀ (e : BitVec 5) (a : BitVec 6) (f : BitVec 2) (s : State),
    let k := s.me.tile e.toNat
    let g := threadCore s.cur
    let x := (s.sr a).toNat
    let word := (SMap.getD s.me.fmt f.toNat 0).toNat
    let acct := word.testBit 8
    let form := word % 16
    let n := if form = 0 then 8 else if form = 1 ∨ form = 2 then 4 else if form = 7 ∨ form = 9 then 1 else 2
    let legal := if acct then form = 0 ∨ form = 8 ∨ form = 9 else form ≤ 9
    let regs (m : Nat) : List Nat := (List.range m).map fun j => s.phys s.cur (x + j)
    (FreeTile e s →
      Does (.acczero e) s (WroteTile k 0 s) ∧
      (x + 8 ≤ winSize s.cur s.me → Does (.accld e a) s fun t => WroteTile k (t.tileAt g k) s t ∧
        ∀ y, y < 256 → elemOf (t.tileAt g k) y = lane (s.vecAt s.cur (x + y / 32)) (y % 32)) ∧
      (x + 8 ≤ winSize s.cur s.me → Does (.accst e a) s fun t => WroteRegs none_ s.me.gens (regs 8) s t ∧
        ∀ y, y < 256 → lane (t.vecAt s.cur (x + y / 32)) (y % 32) = elemOf (s.tileAt g k) y) ∧
      (legal → x + n ≤ winSize s.cur s.me → Does (.acccvt e a f) s fun t => WroteRegs none_ s.me.gens (regs n) s t ∧
        (∀ y, y < 256 → t.groupBits x n / 2 ^ (elemBits form * y) % 2 ^ elemBits form = converted acct form (elemOf (s.tileAt g k) y)) ∧
        (elemBits form = 6 → ∀ i, 16 ≤ i → i < 32 → lane (t.vecAt s.cur (x + 1)) i = lane (s.vecAt s.cur (x + 1)) i))) ∧
    (NoRun s → s.me.tiles.length ≤ e.toNat ∨ isCcc s.cur = true →
      ∀ i ∈ [Instr.acczero e, .accld e a, .accst e a, .acccvt e a f],
        Does i s (Trapped s.cur causeILLEGAL ((encode i).setWidth 64) s.me.pc s)) ∧
    (NoRun s → FreeTile e s → ¬ legal →
      Does (.acccvt e a f) s (Trapped s.cur causeILLEGAL ((encode (.acccvt e a f)).setWidth 64) s.me.pc s)) ∧
    (NoRun s → e.toNat < s.me.tiles.length → isCcc s.cur = false → winSize s.cur s.me < x + 8 →
      ∀ i ∈ [Instr.accld e a, .accst e a], Does i s (Trapped s.cur causeLAYOUT (BitVec.ofNat 64 (2 ^ 63 + x % 2 ^ 63)) s.me.pc s)) ∧
    (e.toNat < s.me.tiles.length → isCcc s.cur = false → (s.core g).locks.contains k = true →
      Does (.acczero e) s (Parked (.retry (.lock g k)) s))

/-- FMTW keeps what the register defines, and what it writes is read back by FMTR with the reserved bits cleared; scale indices are kept as
register-store indices (R178, R231). TERMRD and TERMCLR read and clear the core's counters; what an MMA adds in the very cycle is not read yet,
and it is added after the clear; an unassigned index raises ILLEGAL (R237). -/
def FormatAndTermRegisters : Prop :=
  ∀ (d a : BitVec 6) (s : State),
    let start := winStart s.cur s.me
    let old := (SMap.getD s.me.fmt a.toNat 0).toNat
    let k := (s.sr a).toNat
    let g := threadCore s.cur
    let core (t : State) := t.core g
    let late (n : Nat) : Word := match (core s).counted with
      | some (cyc, counts) =>
        if cyc ≠ s.cycleOf s.cur then 0
        else if n < 4 then BitVec.ofNat 64 (counts.getD n 0) else if n = 4 ∨ n = 5 + counts.getD 4 0 then 1 else 0
      | none => 0
    (isCcc s.cur = false →
      Does (.fmtw d a) s (fun t => OnlyThread s.cur s t ∧
        (t.thr s.cur).fmtRead start d.toNat = s.sr a &&& 0xFFFFFF7FFF ∧
        (SMap.getD (t.thr s.cur).fmt d.toNat 0).toNat / 2 ^ 16 % 4096 = ((s.sr a).toNat / 2 ^ 16 + start) % 4096 ∧
        (∀ n, n ≠ d.toNat → SMap.getD (t.thr s.cur).fmt n 0 = SMap.getD s.me.fmt n 0) ∧
        (t.thr s.cur).pc = s.me.pc + 4 ∧ (t.thr s.cur).insn = s.me.insn + 1 ∧ (t.thr s.cur).wait = .ready ∧
        { t.thr s.cur with fmt := s.me.fmt, pc := s.me.pc, insn := s.me.insn, wait := s.me.wait } = s.me) ∧
      Does (.fmtr d a) s (Wrote (one d (BitVec.ofNat 64 (old % 2 ^ 15
        + (old / 2 ^ 16 % 4096 + (4096 - start % 4096)) % 4096 * 2 ^ 16
        + (old / 2 ^ 28 % 4096 + (4096 - start % 4096)) % 4096 * 2 ^ 28))) 0 s) ∧
      (k ≤ 17 → Does (.termrd d a) s (Wrote (one d (SMap.getD (core s).terms k 0 - late k)) 0 s)) ∧
      (k ≤ 17 ∨ k = 63 → Does (.termclr a) s fun t => OnlyThreadAndCore s.cur g s t ∧ Completed none_ 0 s.me (t.thr s.cur) ∧
        { core t with terms := (core s).terms } = core s ∧
        ∀ n, n ≤ 17 ∨ k ≠ 63 → SMap.getD (core t).terms n 0 = if n = k ∨ k = 63 then late n else SMap.getD (core s).terms n 0) ∧
      (NoRun s → 17 < k → Does (.termrd d a) s (Trapped s.cur causeILLEGAL ((encode (.termrd d a)).setWidth 64) s.me.pc s)) ∧
      (NoRun s → 17 < k → k ≠ 63 → Does (.termclr a) s (Trapped s.cur causeILLEGAL ((encode (.termclr a)).setWidth 64) s.me.pc s))) ∧
    (isCcc s.cur = true → NoRun s → ∀ i ∈ [Instr.fmtw d a, .fmtr d a, .termrd d a, .termclr a],
      Does i s (Trapped s.cur causeILLEGAL ((encode i).setWidth 64) s.me.pc s))

end Claim

/-- Accumulator moves, format words and term counters: `Claim.AccumulatorMoves`, `Claim.FormatAndTermRegisters`. -/
def Obligations.MatrixRegisters : Prop := Claim.AccumulatorMoves ∧ Claim.FormatAndTermRegisters

namespace Claim

/-- A thread that is parked on an MMA, with what the MMA holds: whether the array has started it, its cycle, its tile, the words that it
will write, whether one was flushed, the elements that need the assist, its counts and its word. -/
def MmaWait (w : Wait) (P : Bool → Nat → Nat → Tile → Bool → BitVec 256 → List Nat → BitVec 32 → Prop) : Prop :=
  match w with
  | .mma started due tile res uf opens counts word => P started due tile res uf opens counts word
  | _ => False

/-- An MMA captures its operands, locks its tile, joins the array's queue and parks; each element's result is that of R182 to R187 for
the captured start value, row of A and column of B, except that an element that needs the assist keeps its old word (R223, R224, R226).
With a symmetric integer pair and ACCT = 1 the result is the exact sum of products added to the start value modulo 2^32 (R186). -/
def MmaIssues : Prop :=
  (∀ (e : BitVec 5) (a b : BitVec 6) (f : BitVec 2) (z u : BitVec 1) (s : State), FreeTile e s →
    let k := s.me.tile e.toNat
    let g := threadCore s.cur
    let w := (SMap.getD s.me.fmt f.toNat 0).toNat
    let ba := (s.sr a).toNat
    let bb := (s.sr b).toNat
    let ra := (w / 2 ^ 16 % 4096 + (4096 - winStart s.cur s.me % 4096)) % 4096
    let rb := (w / 2 ^ 28 % 4096 + (4096 - winStart s.cur s.me % 4096)) % 4096
    let n := if fmtScale w = 0 then 0 else if fmtScale w = 1 then 8 else 16
    let size := winSize s.cur s.me
    let row (base i : Nat) : List Nat := rowElemsOf (fmtA w) (s.groupBits (base + 3 * i) 3)
    let c (y : Nat) : W32 := if z = 1 then 0 else elemOf (s.tileAt g k) y
    let result (y : Nat) := termElem w (decide (u = 1) || w.testBit 14) (c y) (row ba (y / 16))
      (rowElemsOf (fmtB w) (s.groupBits (bb + 3 * (y % 16)) 3)) (y / 16) (y % 16) (s.groupBits ra n) (s.groupBits rb n)
    fmtOk w = true → ba + 48 ≤ size → bb + 48 ≤ size → (fmtScale w ≠ 0 → ra + n ≤ size ∧ rb + n ≤ size) →
    Does (.mma e a b f z u) s fun t =>
      MmaWait (t.thr s.cur).wait (fun started due tile res uf opens _ word =>
          started = false ∧ due = s.cycleOf s.cur + 1 ∧ tile = k ∧ word = encode (.mma e a b f z u) ∧
          (∀ y, y < 256 → elemOf res y = if (result y).opened then elemOf (s.tileAt g k) y else (result y).acc) ∧
          (∀ y, y < 256 → opens.getLsbD y = (result y).opened) ∧ (uf = true ↔ ∃ y, y < 256 ∧ (result y).uf = true)) ∧
      ParkedThread (t.thr s.cur).wait s.me (t.thr s.cur) ∧
      (t.core g).locks.contains k = true ∧ (∀ j, j ≠ k → (t.core g).locks.contains j = (s.core g).locks.contains j) ∧
      (t.core g).arrayQueue = (s.core g).arrayQueue ++ [s.cur] ∧
      { t.core g with locks := (s.core g).locks, arrayQueue := (s.core g).arrayQueue } = s.core g ∧ OnlyThreadAndCore s.cur g s t) ∧
  (∀ (f : Nat) (c : W32) (as bs : List Nat) (i n sa sb : Nat), fmtClass (fmtA f) = 1 → fmtAcct f = true → bs.length = as.length →
    as.length % 32 = 0 →
    (termElem f false c as bs i n sa sb).acc = BitVec.ofInt 32 (c.toInt +
      (((as.zip bs).map fun p => (BitVec.ofNat (elemBits (fmtA f)) p.1).toInt * (BitVec.ofNat (elemBits (fmtA f)) p.2).toInt).sum)))

/-- MMA_ARRAY_START gives the array to the head of its queue once it is free, for the issue interval; MMA_COMPLETE writes the tile four
cycles after that, counts, ORs UF, unlocks the tile and wakes the thread, or, where elements need the assist, raises ASSIST with RESUME at
PC + 4 and keeps the lock; an open run stays open, which is the model's reading (log 41) (R223, R224, R226, R236). Where an abort waited for the MMA, the tile is written and
unlocked, and the abort follows (R228). -/
def MmaCompletes : Prop :=
  ∀ (t due tile : Nat) (res : Tile) (uf : Bool) (opens : BitVec 256) (counts : List Nat) (word : BitVec 32) (started : Bool) (s : State),
    (s.thr t).wait = .mma started due tile res uf opens counts word →
    let g := threadCore t
    let c := s.core g
    let at0 := max due c.arrayFree
    let i := counts.getD 2 0
    let now := s.cycleOf t
    (started = false → ∀ q, c.arrayQueue = t :: q → at0 ≤ now → Does (.mmaArrayStart t) s fun r =>
      ParkedThread (.mma true (at0 + i + 4) tile res uf opens counts word) (s.thr t) (r.thr t) ∧
      r.core g = { c with arrayQueue := q, arrayFree := at0 + i } ∧ OnlyThreadAndCore t g s r) ∧
    (started = false → c.arrayQueue.head? ≠ some t ∨ now < at0 → Does (.mmaArrayStart t) s fun r => r = s) ∧
    (started = true → now < due → Does (.mmaComplete t) s fun r => r = s) ∧
    (started = true → due ≤ now → (s.thr t).live = true → (s.thr t).run.active = false → (s.thr t).doomed = none →
      Does (.mmaComplete t) s fun r =>
      r.tileAt g tile = res ∧ (∀ j, j ≠ tile → r.tileAt g j = s.tileAt g j) ∧
      (∀ n, SMap.getD (r.core g).terms n 0 = SMap.getD c.terms n 0 +
        if n < 4 then BitVec.ofNat 64 (counts.getD n 0) else if n = 4 ∨ n = 5 + counts.getD 4 0 then 1 else 0) ∧
      (r.thr t).fflags = (s.thr t).fflags ||| (if uf then 2 else 0) ∧
      (opens = 0 → (r.core g).locks.contains tile = false ∧ (∀ j, j ≠ tile → (r.core g).locks.contains j = c.locks.contains j) ∧
        Completed none_ (if uf then 2 else 0) (s.thr t) (r.thr t) ∧ r.records = s.records ∧
        (r.core g).counted = some (now, counts) ∧ (isCcc t = false → SMap.getD (r.core g).unlocked tile 0 = now) ∧
        { r.core g with terms := c.terms, accs := c.accs, locks := c.locks, counted := c.counted, unlocked := c.unlocked } = c) ∧
      (opens ≠ 0 → (s.thr t).run.ordered = false → (r.core g).locks = c.locks ∧ (r.thr t).wait = .trapped ∧ (r.thr t).pc = (s.thr t).pc ∧
        ∃ q, r.records = s.records.map (fun x => if x.handle = threadHandle t ∧ x.cause = causeASSIST then { x with opens := opens, tile := tile } else x) ++ [q] ∧
          q.handle = threadHandle t ∧ q.cause = causeASSIST ∧ q.tpc = (s.thr t).pc ∧ q.tval = word.setWidth 64 ∧ q.tnpc = (s.thr t).pc + 4 ∧
          q.opens = opens ∧ q.tile = tile) ∧
      (∀ v, v ≠ t → r.thr v = s.thr v) ∧ (∀ h, h ≠ g → { r.core h with dbg := (s.core h).dbg } = s.core h) ∧ SameBytes s r) ∧
    (started = true → due ≤ now → opens ≠ 0 → (s.thr t).run.active = true → (s.thr t).doomed = none → Does (.mmaComplete t) s fun r =>
      r.tileAt g tile = res ∧ (r.core g).locks = c.locks ∧ (r.thr t).run.active = true ∧ (r.thr t).wait = .trapped ∧
      (r.thr t).pc = (s.thr t).pc ∧ ∃ q, r.records.getLast? = some q ∧ q.handle = threadHandle t ∧ q.cause = causeASSIST ∧
        q.tpc = (s.thr t).pc ∧ q.tval = word.setWidth 64 ∧ q.tnpc = (s.thr t).pc + 4 ∧ q.opens = opens ∧ q.tile = tile) ∧
    (started = true → due ≤ now → (s.thr t).run.active = true → (s.thr t).run.ordered = false → SMap.Ok (s.thr t).run.undoTiles →
      ∀ cause code, (s.thr t).doomed = some (.abort cause code) → Does (.mmaComplete t) s fun r =>
        (r.core g).locks.contains tile = false ∧ (r.thr t).doomed = none ∧ (r.thr t).wait = .ready ∧ (r.thr t).run = {} ∧
        (r.thr t).pc = (s.thr t).fallback ∧ (r.thr t).cause = cause ∧ (r.thr t).code = code ∧
        r.tileAt g tile = SMap.getD (s.thr t).run.undoTiles tile (s.tileAt g tile))

end Claim

/-- MMA issues and completes: `Claim.MmaIssues`, `Claim.MmaCompletes`. -/
def Obligations.MatrixMultiplication : Prop := Claim.MmaIssues ∧ Claim.MmaCompletes

namespace Claim

/-- What an engine's completion does to its counter: the first nonzero cause goes into STATUS, the value is one less, UNDER records a
decrement of zero, and a bound task becomes ready when the value comes to zero (R35, R109). -/
structure Counted (cl c cause : Nat) (s t : State) : Prop where
  value : (t.counter cl c).value = (s.counter cl c).value - 1
  status : (t.counter cl c).status = if (s.counter cl c).status = 0 then cause else (s.counter cl c).status
  under : (t.counter cl c).under = ((s.counter cl c).under || decide ((s.counter cl c).value = 0))
  bound : (t.counter cl c).bound = if (s.counter cl c).value = 1 then none else (s.counter cl c).bound
  ready : ∀ slot, (s.counter cl c).bound = some slot → (s.counter cl c).value = 1 → (t.task cl slot).state = .ready

/-- NBMV (R233 to R236): a descriptor that fails a check raises its cause; in a run ILLEGAL is raised. One that passes its checks is counted
when it issues. NBMV.REG reads its matrix rows and parks with the results, which the response writes; NBMV.L2 is accepted with its destination
lines in X. Where it must wait it keeps the operation that passed, and that is what is performed later, without the checks. -/
def NearBank : Prop :=
  ∀ (d : BitVec 6) (l : BitVec 8) (c : BitVec 6) (t f : BitVec 2) (s : State), isCcc s.cur = false →
    let i := Instr.nbmv d l c t f
    let g := threadCore s.cur
    let check := s.nbmvChecks s.cur i (s.group d 4) l.toNat c.toNat (decide (t = 1)) (SMap.getD s.me.fmt f.toNat 0).toNat
    let w := s.countNbmv
    (OnlyCore g s w ∧ { w.core g with terms := (s.core g).terms } = s.core g ∧
      ∀ n, SMap.getD (w.core g).terms n 0 = SMap.getD (s.core g).terms n 0 + if n = 17 then 1 else 0) ∧
    (∀ o, s.me.near = some o → Does i s fun r => r = s.performNbmv (decide (t = 1)) o) ∧
    (s.me.near = none →
      (NoRun s → ∀ x, check = .error x → Does i s (Trapped s.cur x.1 x.2 s.me.pc s)) ∧
      (∀ o, check = .ok o → (InTransaction s → Does i s fun r => r = s.illegal i) ∧
        (NoRun s → s.badRegs = [] → o.n = 0 → t ≠ 1 → Does i s (Parked (.response noBank .none) w)) ∧
        (NoRun s → s.badRegs = [] → 0 < o.n → t ≠ 1 →
          let vas := (List.range o.n).flatMap o.rowVas
          let live := (s.core g).livePages o.ctx (pagesOf vas)
          (live ≠ [] → Does i s fun r => OnlyThread s.cur w r ∧
            r.thr s.cur = { s.me with near := some o, wait := .retry (.pageLive live) }) ∧
          (live = [] → s.xlines = [] → (∀ m, s.holders m = []) → s.dirQueue = [] →
            (∀ u p, w.translateAll o.agent 0 0 permR false (pagesOf vas) = (u, .error p) →
              Does i s (Trapped s.cur causePAGE (BitVec.ofNat 64 (firstIn p vas)) s.me.pc u)) ∧
            (∀ u xs, w.translateAll o.agent 0 0 permR false (pagesOf vas) = (u, .ok xs) →
              laySpace o.mat.toNat < 3 → isDirected o.mat.toNat xs = false → s.badMem = [] → (∀ e ∈ s.dies, e.2.dwc = []) →
              s.lineKey = [] → (∀ va ∈ vas, xlatKey xs va = 0) →
              (∀ va ∈ vas, inHbm (locPa (xlatLoc xs va)) = true → SMap.get? s.frameOwner (xlatLoc xs va / 65536) = some o.ctx) →
              Does i s (Parked (.response (bankOfAccess xs vas) (.window (s.srN (d.toNat + 1)).toNat (resultRegs
                ((List.range o.n).map fun n => o.result ((o.rowVas n).map fun va => Memory.get u.mem (xlatLoc xs va)))))) u)))) ∧
        (NoRun s → s.badRegs = [] → t = 1 →
          (s.core g).livePages o.ctx (pagesOf ((List.range o.n).flatMap fun n => o.outVa n :: o.rowVas n)) = [] →
          ∀ u ls, w.nearLines o (List.range o.n) [] = (u, .ok ls) → u.cur = s.cur → Does i s fun r =>
            ParkedThread (.response noBank .none) u.me (r.thr s.cur) ∧ (∀ v, v ≠ s.cur → r.thr v = u.thr v) ∧ r.cores = u.cores ∧
            r.records = u.records ∧ SameBytes u r ∧ (∀ x ∈ ls, x ∈ r.xlines) ∧
            (r.cluster (threadCluster s.cur)).nears = (u.cluster (threadCluster s.cur)).nears ++ [{ o with lines := ls }])))

/-- NBMV_COMPLETE (R235): an operation whose rows are done leaves the list, its lines return, and its counter takes the first cause and is
decremented; one of no rows does only that. For an operation of one row with nothing in its way, the result of the row's bytes is in memory at
its address in OUT and no other byte changes but the leaf's; a page fault on the row leaves it unwritten, with PAGE in STATUS. -/
def NearBankCompletes : Prop :=
  ∀ (cl i : Nat) (o : NearOp) (s : State), (s.cluster cl).nears[i]? = some o →
    let ends (cause : Nat) (u t : State) : Prop := Counted o.sel o.cnt cause u t ∧
      (t.cluster cl).nears = (s.cluster cl).nears.eraseIdx i ∧ t.xlines = s.xlines.filter (· ∉ o.lines)
    (∀ u cause, s.nearRows o (List.range o.n) 0 = .ok (u, cause) → u.xlines = s.xlines → (u.cluster cl).nears = (s.cluster cl).nears →
      Does (.nbmvComplete cl i) s fun t => ends cause u t ∧ t.threads = u.threads ∧ t.records = u.records ∧ SameBytes u t) ∧
    (o.n = 0 → Does (.nbmvComplete cl i) s fun t => ends 0 s t ∧ t.threads = s.threads ∧ t.records = s.records ∧ SameBytes s t) ∧
    (o.n = 1 → (∀ x ∈ s.xlines, x ∈ o.lines) → (∀ m, s.holders m = []) → s.dirQueue = [] → s.badMem = [] → s.lineKey = [] → s.MemoryOk →
      (∀ e ∈ s.dies, e.2.dwc = []) →
      let mat := o.mat.toNat
      let out := o.out.toNat
      let row := o.rowVas 0
      let outs := (List.range 4).map (o.outVa 0 + ·)
      let owned (xs : SMap Xlat) (vas : List Nat) : Prop := ∀ va ∈ vas, xlatKey xs va = 0 ∧
        (inHbm (locPa (xlatLoc xs va)) = true → SMap.get? s.frameOwner (xlatLoc xs va / 65536) = some o.ctx)
      laySpace mat = 0 → laySpace out = 0 → s.tableWaits o.agent 0 (layModule mat) permR false (pagesOf row) = [] →
      (∀ u p, s.translateAll o.agent 0 (layModule mat) permR false (pagesOf row) = (u, .error p) →
        Does (.nbmvComplete cl i) s fun t => ends causePAGE u t ∧ SameBytes u t) ∧
      ∀ u v xs ys, s.translateAll o.agent 0 (layModule mat) permR false (pagesOf row) = (u, .ok xs) →
        u.tableWaits o.agent 0 (layModule out) permW true (pagesOf outs) = [] →
        u.translateAll o.agent 0 (layModule out) permW true (pagesOf outs) = (v, .ok ys) →
        isDirected mat xs = false → isDirected out ys = false → owned xs row → owned ys outs → (outs.map (xlatLoc ys)).Nodup →
        Does (.nbmvComplete cl i) s fun t => ends 0 v t ∧ SameBytesBut (outs.map (xlatLoc ys)) v t ∧
          ∀ j, j < 4 → Memory.get t.mem (xlatLoc ys (o.outVa 0 + j)) =
            byteOf (o.result (row.map fun va => Memory.get u.mem (xlatLoc xs va))).toNat j)

end Claim

/-- NBMV issues and completes: `Claim.NearBank`, `Claim.NearBankCompletes`. -/
def Obligations.NearBank : Prop := Claim.NearBank ∧ Claim.NearBankCompletes

/-! ### Copies, multicast and subscriptions -/

namespace Claim

/-- A request is held by the open run until it commits: the instruction is complete, and nothing else but `w` of the thread changed (R246,
R264, R267). -/
def HeldInRun (i : Instr) (s t : State) : Prop :=
  OnlyThread s.cur s t ∧ (∃ h, (t.thr s.cur).run.held = s.me.run.held ++ [h] ∧ h.instr = i) ∧
  (t.thr s.cur).pc = s.me.pc + 4 ∧ (t.thr s.cur).insn = s.me.insn + 1 ∧ (t.thr s.cur).wait = .ready ∧ (t.thr s.cur).sreg = s.me.sreg

/-- XCOPY and XMCAST (R241, R242, R246, R249): a failed check traps precisely; else XCLIP is written, the copy joins the engine's queue of the
thread's cluster and the thread parks until it is accepted, or the open run holds it. A reserved bit of the descriptor raises ILLEGAL, an
unusable entry LAYOUT_BOUNDS with its index. -/
def CopiesIssue : Prop :=
  ∀ (a : BitVec 6) (sc : BitVec 3) (s : State),
    let cl := threadCluster s.cur
    let w (n : Nat) : Nat := (s.srN (a.toNat + n)).toNat
    (∀ x ∈ [(Instr.xcopy a sc, false), (.xmcast a sc, true)],
      let check := s.copyChecks s.cur x.1 (s.group a 4) x.2 sc.toNat
      (NoRun s → ∀ e, check = .error e → Does x.1 s (Trapped s.cur e.1 e.2 s.me.pc s)) ∧
      (∀ o clip, check = .ok (o, clip) →
        (s.me.run.active = false → Does x.1 s fun t =>
          ParkedThread .copy { s.me with xclip := BitVec.ofNat 9 clip } (t.thr s.cur) ∧
          (t.cluster o.cluster).copies = (s.cluster o.cluster).copies ++ [o] ∧
          { t.cluster o.cluster with copies := (s.cluster o.cluster).copies } = s.cluster o.cluster ∧
          OnlyThreadAndCluster s.cur o.cluster s t) ∧
        (s.me.run.active = true → Does x.1 s (HeldInRun x.1 s)) ∧
        o.multicast = x.2 ∧ o.accepted = false ∧ o.cluster = cl ∧ o.cnt = w 0 / 2 ^ 16 % 4096)) ∧
    (w 0 / 2 ^ 45 ≠ 0 ∨ w 3 / 2 ^ 48 ≠ 0 ∨ w 3 / 2 ^ 32 % 2 ^ 16 ≠ 0 → NoRun s →
      Does (.xcopy a sc) s (Trapped s.cur causeILLEGAL ((encode (.xcopy a sc)).setWidth 64) s.me.pc s)) ∧
    (w 0 / 2 ^ 45 = 0 → w 3 / 2 ^ 48 = 0 → NoRun s →
      layValid (s.layoutEntry s.cur (w 0 % 256)) = false ∨ layAccess (s.layoutEntry s.cur (w 0 % 256)) % 2 = 0 →
      (w 3 / 2 ^ 32 % 2 ^ 16 = 0 → Does (.xcopy a sc) s (Trapped s.cur causeLAYOUT (BitVec.ofNat 64 (w 0 % 256)) s.me.pc s)) ∧
      (w 0 / 2 ^ 8 % 256 = 0 → Does (.xmcast a sc) s (Trapped s.cur causeLAYOUT (BitVec.ofNat 64 (w 0 % 256)) s.me.pc s)))

/-- MSUB enters or replaces the subscription of the thread's cluster to a tag, MUNSUB removes it; each sends its packet to the switch that
carries the tag and parks until the acknowledgement; a run holds them (R247, R248). -/
def Subscriptions : Prop :=
  ∀ (a : BitVec 6) (s : State),
    let v := (s.sr a).toNat
    let tag := v % 65536
    let cl := threadCluster s.cur
    let m := threadModule s.cur
    let mine (y : Subscription) : Bool := decide (y.cluster = cl ∧ y.tag = tag)
    let sends (kind : Nat) (t : State) : Prop := ∃ p, t.net = s.net ++ [p] ∧ p.kind = kind ∧ p.addr = tag ∧ p.thread = s.cur ∧
      p.dest = 1024 + m / 72 * 16 + tag % 16
    let parks (t : State) : Prop := (t.thr s.cur).wait = .fabric 63 1 [] none .store ∧ (t.thr s.cur).pc = s.me.pc ∧
      { t.thr s.cur with seqs := s.me.seqs, wait := s.me.wait } = s.me ∧ (∀ u, u ≠ s.cur → t.thr u = s.thr u) ∧
      (∀ h, h ≠ m → t.module h = s.module h) ∧ { t.module m with subs := (s.module m).subs } = s.module m ∧
      { t with threads := s.threads, modules := s.modules, net := s.net } = s ∧ SameBytes s t
    (clusterModule cl = m → s.me.run.active = false → s.unacked s.cur (1024 + m / 72 * 16 + tag % 16) < 256 →
      (∀ e, s.msubChecks s.cur (.msub a) v = .ok e → s.subsFull cl tag = false → Does (.msub a) s fun t =>
        sends 8 t ∧ parks t ∧ ∃ x, (t.module m).subs = (s.module m).subs.filter (fun y => !mine y) ++ [x] ∧
          x.cluster = cl ∧ x.tag = tag ∧ x.lay = BitVec.ofNat 512 e ∧ x.layx = v / 2 ^ 16 % 256 ∧ x.cntv = v.testBit 36 ∧
          x.cnt = v / 2 ^ 24 % 4096) ∧
      (v < 2 ^ 16 → Does (.munsub a) s fun t =>
        sends 9 t ∧ parks t ∧ (t.module m).subs = (s.module m).subs.filter fun y => !mine y)) ∧
    (s.me.run.active = true →
      (∀ e, s.msubChecks s.cur (.msub a) v = .ok e → Does (.msub a) s (HeldInRun (.msub a) s)) ∧
      (v < 2 ^ 16 → Does (.munsub a) s (HeldInRun (.munsub a) s))) ∧
    (NoRun s →
      (2 ^ 37 ≤ v → Does (.msub a) s (Trapped s.cur causeILLEGAL ((encode (.msub a)).setWidth 64) s.me.pc s)) ∧
      (2 ^ 16 ≤ v → Does (.munsub a) s (Trapped s.cur causeILLEGAL ((encode (.munsub a)).setWidth 64) s.me.pc s)) ∧
      (∀ e, s.msubChecks s.cur (.msub a) v = .ok e → s.subsFull cl tag = true → Does (.msub a) s (Trapped s.cur causeQUOTA 0 s.me.pc s)))

/-- COPY_ACCEPT takes the oldest waiting operation of a cluster when fewer than 64 are accepted: its destination lines are in X and its thread
is complete; where 64 are accepted nothing changes, and where it must wait it takes its place at the directory, and nothing else (R242, R245,
R261). -/
def CopiesAreAccepted : Prop :=
  ∀ (cl i : Nat) (s : State),
    let copies := (s.cluster cl).copies
    (firstWaiting copies = none ∨ 64 ≤ (copies.filter (·.accepted)).length → Does (.copyAccept cl) s fun t => t = s) ∧
    (∀ o, copies[i]? = some o → firstWaiting copies = some i → (copies.filter (·.accepted)).length < 64 →
      (∀ u k ts, s.acceptCopy o = (u, .error (.wait k ts)) → Does (.copyAccept cl) s fun t => t = s.waitsFor o.agent k ts ∧ (ts = [] → t = s)) ∧
      ∀ u o', s.acceptCopy o = (u, .ok o') → (s.thr o.thread).live = true → u.threads = s.threads →
        Does (.copyAccept cl) s fun t =>
          (t.cluster cl).copies = (u.cluster cl).copies.set i { o' with accepted := true } ∧ (∀ x ∈ o'.lines, x ∈ t.xlines) ∧
          (o.wake = true → (s.thr o.thread).wait = .copy → Completed none_ 0 (s.thr o.thread) (t.thr o.thread)) ∧
          (o.wake = false → t.thr o.thread = s.thr o.thread) ∧ (∀ v, v ≠ o.thread → t.thr v = s.thr v) ∧ SameBytes u t)

/-- COPY_COMPLETE of an accepted copy of n contiguous bytes, each side in one page of its size: byte b of the source is byte b of the destination as the
source was before, no other byte of memory changed, the lines return, and the counter is decremented with the operation's cause; an
operation that an earlier one of its thread precedes, or that is not accepted, waits (R242 to R244). An XMCAST of no byte sends one packet,
where the window of its unit has room (R249, R324). -/
def CopiesComplete : Prop :=
  ∀ (cl i a d : Nat) (s : State) (o : CopyOp), (s.cluster cl).copies[i]? = some o →
    let n := o.moved
    let from_ (b : Nat) : Nat := xlatLoc o.srcX (a + b)
    let dest (b : Nat) : Nat := xlatLoc o.dstX (d + b)
    let mine (xs : SMap Xlat) (v : Nat) : Prop := SameKey s (xlatKey xs v) (xlatLoc xs v) ∧
      (inHbm (locPa (xlatLoc xs v)) = true → SMap.get? s.frameOwner (xlatLoc xs v / 65536) = some o.ctx)
    let first := ((s.cluster cl).copies.take i).all fun x => decide (x.thread ≠ o.thread)
    (o.accepted = false ∨ o.sent = true ∨ first = false → Does (.copyComplete cl i) s fun t => t = s) ∧
    (o.accepted = true → o.sent = false → first = true → o.multicast = false → s.MemoryOk → 0 < n →
      (∀ b, b < n → o.srcVa b = some (a + b) ∧ o.dstVa b = some (d + b)) → 
      (∀ b, b < n → xlatPage o.src.toNat o.srcX (a + b) = xlatPage o.src.toNat o.srcX a ∧
        xlatPage o.dst.toNat o.dstX (d + b) = xlatPage o.dst.toNat o.dstX d) → ((List.range n).map dest).Nodup →
      laySpace o.src.toNat < 3 → laySpace o.dst.toNat < 3 → isDirected o.src.toNat o.srcX = false → isDirected o.dst.toNat o.dstX = false →
      (∀ b, b < n → lineOf (from_ b) ∈ o.lines ∨ lineOf (from_ b) ∉ s.xlines) →
      (∀ b, b < n → lineOf (dest b) ∈ o.lines ∨ lineOf (dest b) ∉ s.xlines) →
      (∀ b, b < n → mine o.srcX (a + b) ∧ mine o.dstX (d + b)) →
      s.badMem = [] → (∀ m, s.holders m = []) → s.dirQueue = [] → (∀ e ∈ s.dies, e.2.dwc = []) → (∀ e ∈ s.clusters, e.2.watches = []) →
      Does (.copyComplete cl i) s fun t =>
        (∀ b, b < n → Memory.get t.mem (dest b) = Memory.get s.mem (from_ b)) ∧ SameBytesBut ((List.range n).map dest) s t ∧
        Counted o.sel o.cnt o.cause s t ∧ (t.cluster cl).copies = (s.cluster cl).copies.eraseIdx i ∧
        t.xlines = s.xlines.filter (· ∉ o.lines) ∧ t.threads = s.threads ∧ t.records = s.records) ∧
    (o.accepted = true → o.sent = false → first = true → o.multicast = true → n = 0 → s.egress = [] →
      unackedIn s.net o.thread true (1024 + clusterModule cl / 72 * 16 + o.tag % 16) < 256 → Does (.copyComplete cl i) s fun t =>
      (t.cluster cl).copies = (s.cluster cl).copies.set i { o with sent := true, lines := [] } ∧
      ∃ p, t.net = s.net ++ [p] ∧ p.kind = 19 ∧ p.addr = o.tag ∧ p.last = true ∧ p.status = o.cause ∧ p.payload = leBytes 8 o.dstAt.toNat ∧
        p.dest = 1024 + clusterModule cl / 72 * 16 + o.tag % 16)

end Claim

/-- Copies, multicast and subscriptions: `Claim.CopiesIssue`, `Claim.Subscriptions`, `Claim.CopiesAreAccepted`, `Claim.CopiesComplete`. -/
def Obligations.Copies : Prop := Claim.CopiesIssue ∧ Claim.Subscriptions ∧ Claim.CopiesAreAccepted ∧ Claim.CopiesComplete

/-! ### The access processor -/

namespace Claim

/-- A stream start (R302 to R306, R314): a failed check traps precisely; else the start joins those that wait at the thread's cluster, and the
thread parks until the access processor answers. Reserved bits of the descriptor raise ILLEGAL. STREAM_ACCEPT of the oldest start
waits while every slot is taken; else it refuses the start with all ones where its queue is bound, and it accepts a gather into the lowest
free slot, bound to its queue, and gives the slot's number; a thread whose run an abort ended meanwhile takes no result (R302, R320). -/
def StreamsStart : Prop :=
  (∀ (d a : BitVec 6) (m : BitVec 1) (s : State),
    let w := s.group a 4
    let cl := threadCluster s.cur
    let bin := s.vec (w.getD 0 0 / 2 ^ 24 % 4096)
    s.badRegs = [] →
    (∀ x ∈ [(Instr.apgather d a, s.streamChecks s.cur (.apgather d a) w .gather), (.apscatter d a, s.streamChecks s.cur (.apscatter d a) w .scatter),
        (.apscatteradd d a, s.streamChecks s.cur (.apscatteradd d a) w .scatterAdd),
        (.apbin d a m, s.binChecks s.cur (.apbin d a m) w (decide (m = 1)) bin)],
      (NoRun s → ∀ e, x.2 = .error e → Does x.1 s (Trapped s.cur e.1 e.2 s.me.pc s)) ∧
      (∀ o q, x.2 = .ok (o, q) → Does x.1 s fun t => ParkedThread .apstart s.me (t.thr s.cur) ∧
        t.cluster cl = { s.cluster cl with starts := (s.cluster cl).starts ++
          [{ thread := s.cur, d := d, queue := q, stream := { o with queue := q } }] } ∧ OnlyThreadAndCluster s.cur cl s t)) ∧
    (NoRun s → w.getD 0 0 / 2 ^ 35 ≠ 0 ∨ 65536 < w.getD 1 0 / 2 ^ 32 ∨ w.getD 3 0 / 2 ^ 33 ≠ 0 → ∀ i ∈ [Instr.apgather d a, .apscatter d a, .apscatteradd d a],
      Does i s (Trapped s.cur causeILLEGAL ((encode i).setWidth 64) s.me.pc s))) ∧
  (∀ (cl : Nat) (s : State) (x : ApStart) (rest : List ApStart), (s.cluster cl).starts = x :: rest →
    let c := s.cluster cl
    let bound := match x.queue with
      | some q => SMap.has c.queues q
      | none => false
    let ends (v : Word) (t : State) : Prop := OnlyThreadAndCluster x.thread cl s t ∧
      (x.wake = true → (s.thr x.thread).wait = .apstart → Completed (one x.d v) 0 (s.thr x.thread) (t.thr x.thread)) ∧
      (x.wake = false → t.thr x.thread = s.thr x.thread)
    ((∀ n, n < 8 → SMap.has c.streams n = true) → Does (.streamAccept cl) s fun t => t = s) ∧
    (bound = true → (∃ n, n < 8 ∧ SMap.has c.streams n = false) → Does (.streamAccept cl) s fun t =>
      t.cluster cl = { c with starts := rest } ∧ ends (BitVec.allOnes 64) t) ∧
    (∀ n, n < 8 → SMap.has c.streams n = false → (∀ k, k < n → SMap.has c.streams k = true) → bound = false → x.stream.kind = .gather →
      x.stream.lines = [] → Does (.streamAccept cl) s fun t =>
        SMap.get? (t.cluster cl).streams n =
          some { x.stream with accepted := x.stream.n, cancel := x.stream.orphan && x.queue.isSome } ∧
        (∀ k, k ≠ n → SMap.get? (t.cluster cl).streams k = SMap.get? c.streams k) ∧ (t.cluster cl).starts = rest ∧
        (∀ q, x.queue = some q → SMap.get? (t.cluster cl).queues q = some
          { stream := n, inbound := false, region := x.stream.region, thread := x.stream.thread, owner := x.stream.owner
            total := x.stream.n * x.stream.e }) ∧
        (∀ q, x.queue ≠ some q → SMap.get? (t.cluster cl).queues q = SMap.get? c.queues q) ∧ ends (BitVec.ofNat 64 n) t))

/-- The acceptance of element i reads its snapshot: k is the index of a scatter's element, or the cell of a particle, and v the bytes of its
source, where the stream has one (R310, R316). -/
def SnapshotRead (o : Stream) (i : Nat) (u m : State) (k : Nat) (v : List Byte) : Prop :=
  if o.kind = .scatter ∨ o.kind = .scatterAdd then ∃ h bs, u.streamWord o [] o.il.toNat o.ilx (o.ioff + 4 * i) = (h, .ok bs) ∧
    k = leNat bs ∧ if o.vsrc then h.streamWords o [] o.sl.toNat o.slx (wordOffs (o.soff + i * o.e) o.e) = (m, .ok v) else m = h ∧ v = []
  else ∃ bs, u.streamWords o [] o.il.toNat o.ilx (wordOffs (o.ioff + i * parStride o.param) (4 * parDims o.param)) = (m, .ok bs) ∧
    k = binCell o.param bs ∧ v = []

/-- The read of element i's snapshot fails with cause c (R310). -/
def SnapshotFails (o : Stream) (i : Nat) (u w : State) (c : Nat) : Prop := ∃ tval,
  if o.kind = .scatter ∨ o.kind = .scatterAdd then
    u.streamWord o [] o.il.toNat o.ilx (o.ioff + 4 * i) = (w, .fail (c, tval)) ∨
      (o.vsrc = true ∧ ∃ h bs, u.streamWord o [] o.il.toNat o.ilx (o.ioff + 4 * i) = (h, .ok bs) ∧
        h.streamWords o [] o.sl.toNat o.slx (wordOffs (o.soff + i * o.e) o.e) = (w, .fail (c, tval)))
  else u.streamWords o [] o.il.toNat o.ilx (wordOffs (o.ioff + i * parStride o.param) (4 * parDims o.param)) = (w, .fail (c, tval))

/-- The acceptance of the elements below j of a stream, in their order: element i finds the state `us i`, its snapshot is `k i` with the
source bytes `v i`, and its destination comes to `x i`. The cursors that PLACE has moved on are `cur i` (R310, R316). -/
structure AcceptSteps (o : Stream) (j : Nat) (us : Nat → State) (k : Nat → Nat) (v : Nat → List Byte) (x : Nat → Reach)
    (cur : Nat → SMap Nat) : Prop where
  steps : ∀ i, i < j → ∃ m, SnapshotRead o i (us i) m (k i) (v i) ∧
    m.elementDest o ((List.range i).flatMap fun n => (x n).lines) (k i) (cur i) = (us (i + 1), .ok (x i, cur (i + 1)))
  reached : ∀ i, i < j → (x i).cause = 0

/-- How the acceptance ends after j elements, from the state u, in the state w with cause c: all N are accepted, or the read of element j's
snapshot failed, or its destination did with a cause other than PAGE (R310, R316). -/
def AcceptEnds (o : Stream) (j : Nat) (own : List Nat) (cur : SMap Nat) (u w : State) (c : Nat) : Prop :=
  (j = o.n ∧ c = 0 ∧ w = u) ∨ (j < o.n ∧ SnapshotFails o j u w c) ∨
  (j < o.n ∧ ∃ m k v x cur', SnapshotRead o j u m k v ∧ m.elementDest o own k cur = (w, .ok (x, cur')) ∧ x.cause = c ∧ c ≠ 0)

/-- STREAM_ACCEPT of a scatter, a scatter-add or a binning that starts (R310, R312, R316): the snapshot of every element, in order, up to
the first whose read fails, is taken; the lines of their destinations are in X, the pages of destinations that raised PAGE are noted for the
side log, and the cause is the stream's; the stream has the slot, and its thread the slot's number. Where the acceptance must wait, the
engine takes its place at the directory. -/
def SnapshotsAreTaken : Prop :=
  ∀ (cl n : Nat) (s : State) (y : ApStart) (rest : List ApStart), (s.cluster cl).starts = y :: rest →
    let o := y.stream
    let bound := match y.queue with
      | some q => SMap.has (s.cluster cl).queues q
      | none => false
    n < 8 → SMap.has (s.cluster cl).streams n = false → (∀ k, k < n → SMap.has (s.cluster cl).streams k = true) → bound = false →
    o.kind ≠ .gather →
    (∀ u kind ts, s.acceptStream o = (u, .error (.wait kind ts)) → Does (.streamAccept cl) s fun t => t = s.waitsFor o.agent kind ts) ∧
    (o.accepted = 0 → o.snap = [] → o.values = [] → o.lines = [] → o.faults = [] → o.stop = 0 →
      ∀ j us k v x cur w c, us 0 = s → cur 0 = [] → AcceptSteps o j us k v x cur →
      AcceptEnds o j ((List.range j).flatMap fun i => (x i).lines) (cur j) (us j) w c →
      w.clusters = s.clusters → w.threads = s.threads → Does (.streamAccept cl) s fun t =>
        (∃ o', SMap.get? (t.cluster cl).streams n = some o' ∧ o'.accepted = j ∧ o'.snap = (List.range j).map k ∧
          o'.values = (List.range j).flatMap v ∧ o'.lines = (List.range j).map (fun i => (x i).lines) ∧ o'.stop = c ∧
          (∀ p, p ∈ o'.faults ↔ ∃ i, i < j ∧ p ∈ (x i).pages) ∧ o'.cancel = (o.orphan && y.queue.isSome) ∧
          { o' with accepted := 0, snap := [], values := [], lines := [], stop := 0, faults := [], cancel := o.cancel } = o) ∧
        (∀ i l, i < j → l ∈ (x i).lines → l ∈ t.xlines) ∧ (∀ l, l ∈ s.xlines → w.xlines = s.xlines → l ∈ t.xlines) ∧
        (t.cluster cl).starts = rest ∧ (∀ q, y.queue = some q → SMap.get? (t.cluster cl).queues q = some
          { stream := n, inbound := true, region := o.region, thread := o.thread, owner := o.owner, total := o.n * o.e }) ∧
        (y.wake = true → (s.thr y.thread).wait = .apstart → Completed (one y.d (BitVec.ofNat 64 n)) 0 (s.thr y.thread) (t.thr y.thread)) ∧
        (∀ u, u ≠ y.thread → t.thr u = s.thr u) ∧ SameBytes w t)

/-- APQPOP takes the next complete unit into v[d], and the pop of the last unit releases the queue; without a complete unit, or behind a
thread that parked before, it parks; where the failure of an element is kept, the pop reads that element again with a fresh walk, and
raises its cause where it fails again (R308, R309); APQPUSH appends v[d] while there is room; a queue that the thread may not use raises ILLEGAL
(R300, R301, R309, R311). APWAIT gives the status of an ended stream and frees its slot, all ones for a slot that holds no stream of
the thread's region, or parks; for supervisor code every region is its own, and a user-mode CCC thread with no region has none (R14); APQSTAT reads a queue's state (R318, R319). -/
def ApQueues : Prop :=
  ∀ (d a : BitVec 6) (s : State),
    let n := (s.sr a).toNat
    let cl := threadCluster s.cur
    let c := s.cluster cl
    let with_ (q : SMap ApQueue) : State := s.setCluster cl { c with queues := q }
    let own (r : Nat) : Prop := s.supervisor s.cur = true ∨ s.actsFor s.cur = some r
    (s.boundQueue s.cur n false = none → NoRun s → Does (.apqpop d a) s (Trapped s.cur causeILLEGAL ((encode (.apqpop d a)).setWidth 64) s.me.pc s)) ∧
    (s.boundQueue s.cur n true = none → NoRun s → Does (.apqpush d a) s (Trapped s.cur causeILLEGAL ((encode (.apqpush d a)).setWidth 64) s.me.pc s)) ∧
    (∀ k, s.boundQueue s.cur n false = some k →
      let size := min 128 (k.total - 128 * k.units)
      (s.queueBusy s.cur n = false → size ≤ k.data.length → Does (.apqpop d a) s (WroteVec d.toNat (BitVec.allOnes 32)
        (fun i => BitVec.ofNat 32 (leNat (((k.data.take size).drop (4 * i)).take 4)))
        (with_ (if k.units + 1 = (k.total + 127) / 128 then SMap.erase c.queues n
          else SMap.set c.queues n { k with data := k.data.drop size, units := k.units + 1 })))) ∧
      (s.queueBusy s.cur n = true ∨ (k.data.length < size ∧ s.unitStalled cl k = false) → s.me.wait = .ready →
        Does (.apqpop d a) s fun t => ParkedThread (.apqpop n s.fresh) s.me (t.thr s.cur) ∧ t.fresh = s.fresh + 1 ∧ OnlyThreadAndOrder s.cur s t)) ∧
    (∀ k, s.boundQueue s.cur n false = some k → s.queueBusy s.cur n = false → k.data.length < min 128 (k.total - 128 * k.units) →
      s.unitStalled cl k = true →
      let o := s.stream cl k.stream
      ∀ u r, s.gatherAfresh o o.pos = (u, r) → u.cur = s.cur → u.threads = s.threads →
      (∀ x, r = .fail x → NoRun s → Does (.apqpop d a) s (Trapped s.cur x.1 x.2 s.me.pc (u.stallStream cl k.stream x))) ∧
      (∀ kind, r = .wait (.wait kind []) → s.me.wait = .ready → Does (.apqpop d a) s fun t =>
        ParkedThread (.apqpop n u.fresh) s.me (t.thr s.cur) ∧ t.fresh = u.fresh + 1 ∧ OnlyThreadAndOrder s.cur u t) ∧
      (∀ bs, r = .ok bs → ∀ k', SMap.get? ((u.appendElement cl k.stream bs).cluster cl).queues n = some k' →
        let v := u.appendElement cl k.stream bs
        let size := min 128 (k'.total - 128 * k'.units)
        (size ≤ k'.data.length → Does (.apqpop d a) s (WroteVec d.toNat (BitVec.allOnes 32)
          (fun i => BitVec.ofNat 32 (leNat (((k'.data.take size).drop (4 * i)).take 4)))
          (v.setCluster cl { v.cluster cl with queues := (if k'.units + 1 = (k'.total + 127) / 128 then SMap.erase (v.cluster cl).queues n
            else SMap.set (v.cluster cl).queues n { k' with data := k'.data.drop size, units := k'.units + 1 }) }))) ∧
        (k'.data.length < size → s.me.wait = .ready → Does (.apqpop d a) s fun t =>
          ParkedThread (.apqpop n v.fresh) s.me (t.thr s.cur) ∧ t.fresh = v.fresh + 1 ∧ OnlyThreadAndOrder s.cur v t))) ∧
    (∀ k, s.boundQueue s.cur n true = some k → s.badRegs = [] →
      (s.queueBusy s.cur n = false → k.data.length ≤ 127 * 128 → k.attached = true → Does (.apqpush d a) s fun t =>
        let k' := { k with units := k.units + 1, data := k.data ++ (List.range 128).map fun j => byteOf (s.vecAt s.cur d.toNat).toNat j }
        Completed none_ 0 s.me (t.thr s.cur) ∧ OnlyThreadAndCluster s.cur cl s t ∧ t.cluster cl = { c with queues := SMap.set c.queues n k' }) ∧
      (s.queueBusy s.cur n = true ∨ 127 * 128 < k.data.length → s.me.wait = .ready → Does (.apqpush d a) s fun t =>
        ParkedThread (.apqpush n s.fresh) s.me (t.thr s.cur) ∧ t.fresh = s.fresh + 1 ∧ OnlyThreadAndOrder s.cur s t)) ∧
    (8 ≤ n → NoRun s → Does (.apwait d a) s (Trapped s.cur causeILLEGAL ((encode (.apwait d a)).setWidth 64) s.me.pc s)) ∧
    (n < 8 → (∀ o, SMap.get? c.streams n = some o → ¬ own o.region) → Does (.apwait d a) s (Wrote (one d (BitVec.allOnes 64)) 0 s)) ∧
    (n < 8 → ∀ o, SMap.get? c.streams n = some o → own o.region →
      (o.ended = true → Does (.apwait d a) s (Wrote (one d (BitVec.ofNat 64 o.status)) 0 (s.setCluster cl { c with streams := SMap.erase c.streams n }))) ∧
      (o.ended = false → Does (.apwait d a) s (Parked (.apwait d n) s))) ∧
    (32 ≤ n → NoRun s → Does (.apqstat d a) s (Trapped s.cur causeILLEGAL ((encode (.apqstat d a)).setWidth 64) s.me.pc s)) ∧
    (n < 32 → SMap.get? c.queues n = none → Does (.apqstat d a) s (Wrote (one d (BitVec.ofNat 64 (c.drops % 2 ^ 32 * 2 ^ 32))) 0 s)) ∧
    (n < 32 → ∀ k, SMap.get? c.queues n = some k → Does (.apqstat d a) s (Wrote (one d (BitVec.ofNat 64 (c.drops % 2 ^ 32 * 2 ^ 32
      + k.data.length + 2 ^ 16 * k.stream + 2 ^ 19 + (if k.inbound then 2 ^ 20 else 0)
      + (if k.attached && (SMap.getD c.streams k.stream {}).stall.isSome then 2 ^ 21 else 0)))) 0 s))

/-- Nothing stands in the way of an access of an engine to some addresses: no line is held in X for another operation, no run is open, nothing
waits at a directory, no byte is uncorrectable, no watch is armed, each line is stored under the key of its translation, and HBM frames are its context's. -/
structure EngineClear (a : Agent) (own : List Nat) (xs : SMap Xlat) (vas : List Nat) (s : State) : Prop where
  lines : ∀ v ∈ vas, lineOf (xlatLoc xs v) ∈ own ∨ lineOf (xlatLoc xs v) ∉ s.xlines
  keys : ∀ v ∈ vas, SameKey s (xlatKey xs v) (xlatLoc xs v)
  frames : ∀ v ∈ vas, inHbm (locPa (xlatLoc xs v)) = true → SMap.get? s.frameOwner (xlatLoc xs v / 65536) = some a.ctx
  bad : s.badMem = []
  runs : ∀ m, s.holders m = []
  queue : s.dirQueue = []
  watches : (∀ e ∈ s.dies, e.2.dwc = []) ∧ ∀ e ∈ s.clusters, e.2.watches = []
  memory : s.MemoryOk

/-- GATHER_RUNAHEAD reads the next element while the queue has room, and appends its bytes; a failure is kept for the pop that needs it
and counted; where it must wait it takes its place at the directory; nothing else happens (R261, R307, R308). -/
def GatherRunsAhead : Prop :=
  ∀ (cl n : Nat) (s : State) (o : Stream), SMap.get? (s.cluster cl).streams n = some o → ∀ q, o.queue = some q →
    let k := SMap.getD (s.cluster cl).queues q {}
    let runs := o.kind = .gather ∧ o.ended = false ∧ o.cancel = false ∧ o.stall = none ∧ o.pos < o.n ∧ k.data.length + o.e ≤ 16384
    (¬ runs → Does (.gatherRunahead cl n) s fun t => t = s) ∧
    (runs → SMap.get? (s.cluster cl).queues q = some k → ∀ u r, s.gatherElement o o.pos = (u, r) → u.clusters = s.clusters →
      (∀ k ts, r = .wait (.wait k ts) → Does (.gatherRunahead cl n) s fun t => t = s.waitsFor o.agent k ts ∧ (ts = [] → t = s)) ∧
      (∀ bs, r = .ok bs → Does (.gatherRunahead cl n) s fun t => OnlyCluster cl u t ∧ t.cluster cl = { s.cluster cl with
        queues := SMap.set (s.cluster cl).queues q { k with data := k.data ++ bs },
        streams := SMap.set (s.cluster cl).streams n { o with pos := o.pos + 1, stall := none } }) ∧
      (∀ x, r = .fail x → Does (.gatherRunahead cl n) s fun t => OnlyCluster cl u t ∧ t.cluster cl = { s.cluster cl with
        drops := (s.cluster cl).drops + 1, streams := SMap.set (s.cluster cl).streams n { o with stall := some x } }))

/-- SCATTER_ELEMENT_WRITE of a present value whose destination does not go through the side log: the element's bytes are at the destination's
element with the index of the snapshot, no other byte of memory changes, and the stream goes on to its next element (R310, R311); with no
value present, or no accepted element left, nothing changes. -/
def ScatterWrites : Prop :=
  ∀ (cl n : Nat) (s : State) (o : Stream), SMap.get? (s.cluster cl).streams n = some o → o.kind = .scatter →
    let va := (layBase o.dl.toNat + (o.doff + o.snap.getD o.pos 0 * o.e)) % 2 ^ 64
    let words := (List.range (o.e / 4)).map fun w => (va + 4 * w) % 2 ^ 64
    ((o.dropped = false ∧ s.elementValue cl o = none) ∨ o.accepted ≤ o.pos ∨ o.ended = true ∨ o.cancel = true → Does (.scatterElementWrite cl n) s fun t => t = s) ∧
    (∀ bs, s.elementValue cl o = some bs → o.pos < o.accepted → o.ended = false → o.cancel = false → o.dropped = false → o.e % 4 = 0 → bs.length = o.e → va + o.e ≤ 2 ^ 64 →
      s.throughLog cl n o words = false → laySpace o.dl.toNat < 3 →
      ∀ u xs, s.engineXlat o.agent o.dl.toNat permW (decide (0 < o.e)) ((List.range o.e).map (va + ·)) = (u, .ok xs) →
      isDirected o.dl.toNat xs = false → EngineClear o.agent o.lines.flatten xs ((List.range o.e).map (va + ·)) u → u.clusters = s.clusters →
      ((List.range o.e).map fun j => xlatLoc xs (va + j)).Nodup →
      Does (.scatterElementWrite cl n) s fun t =>
        (∀ j, j < o.e → Memory.get t.mem (xlatLoc xs (va + j)) = bs.getD j 0) ∧
        SameBytesBut ((List.range o.e).map fun j => xlatLoc xs (va + j)) u t ∧
        SMap.get? (t.cluster cl).streams n = some { o with pos := o.pos + 1, lines := o.lines.drop 1, done := o.done + 1 } ∧
        t.threads = u.threads ∧ t.cores = u.cores ∧ t.records = u.records)

/-- BINNING_PARTICLE of a counting stream adds one, modulo 2^32, to the histogram's word of the particle's cell, and nothing else in memory;
with no accepted particle left nothing changes (R315, R316). The cell of a particle of one dimension is the integer part of the scaled
distance from the origin, the overflow bin where that is negative, not below the number of cells, or no number (R315). -/
def Binning : Prop :=
  (∀ (cl n : Nat) (s : State) (o : Stream), SMap.get? (s.cluster cl).streams n = some o → o.kind = .binCount →
    let off := o.doff + 4 * o.snap.getD o.pos 0
    let va := (layBase o.dl.toNat + off) % 2 ^ 64
    let vas := (List.range 4).map (va + ·)
    (o.accepted ≤ o.pos ∨ o.ended = true ∨ o.cancel = true → Does (.binningParticle cl n) s fun t => t = s) ∧
    (o.pos < o.accepted → o.ended = false → o.cancel = false → o.dropped = false → laySpace o.dl.toNat < 3 →
      ∀ u bs, s.streamWord o o.lines.flatten o.dl.toNat o.dlx off = (u, .ok bs) →
      ∀ v xs, u.engineXlat o.agent o.dl.toNat permW true vas = (v, .ok xs) →
      isDirected o.dl.toNat xs = false → EngineClear o.agent o.lines.flatten xs vas v → v.clusters = s.clusters →
      Does (.binningParticle cl n) s fun t =>
        (∀ j, j < 4 → Memory.get t.mem (xlatLoc xs (va + j)) = byteOf ((leNat bs + 1) % 2 ^ 32) j) ∧
        SameBytesBut (vas.map (xlatLoc xs)) v t ∧
        SMap.get? (t.cluster cl).streams n = some { o with pos := o.pos + 1, lines := o.lines.drop 1, done := o.done + 1 } ∧
        t.threads = v.threads ∧ t.cores = v.cores ∧ t.records = v.records)) ∧
  (∀ (v : Vec) (bs : List Byte), parDims v = 1 → bs.length = 4 →
    let x := num32 (BitVec.ofNat 32 (leNat bs))
    let u := num32 (rne32 ((num32 (rne32 (x.add (num32 (lane v 0)).neg))).mul (num32 (lane v 3))))
    binCell v bs = match rational u with
      | some q => if 0 ≤ q ∧ q < (lane v 6).toNat then ⌊q⌋.toNat else (lane v 6).toNat
      | none => (lane v 6).toNat)

end Claim

/-- The elements of gathers, scatters and binnings: `Claim.GatherRunsAhead`, `Claim.ScatterWrites`, `Claim.Binning`. -/
def Obligations.StreamElements : Prop := Claim.GatherRunsAhead ∧ Claim.ScatterWrites ∧ Claim.Binning

namespace Claim

/-- STREAM_END of a stream whose work is done: its lines return; where a counter was named it is decremented with the status's cause and the
slot is free; else the threads that wait for the slot take the status word and the slot is free, or the slot keeps the status until an
APWAIT. The status word holds the elements done in [63:32] and the cause (R317, R318). A stream whose work is not done stays. -/
def StreamsEnd : Prop :=
  ∀ (cl n : Nat) (s : State) (o : Stream), SMap.get? (s.cluster cl).streams n = some o →
    let done := o.ended = false ∧ (o.cancel = true ∨ (if o.kind = .gather then o.n ≤ o.pos else o.accepted ≤ o.pos ∧ o.logged = 0))
    let status := (if o.kind = .gather then o.pos else o.done) * 2 ^ 32 + o.stop
    (¬ done → Does (.streamEnd cl n) s fun t => t = s) ∧
    (done → o.cancel = false → o.queue = none →
      (o.cntv = true → s.awaited cl n = false → Does (.streamEnd cl n) s fun t =>
        Counted o.sel o.cnt (status % 64) s t ∧ SMap.get? (t.cluster cl).streams n = none ∧ t.xlines = s.xlines.filter (· ∉ o.lines.flatten) ∧
        t.threads = s.threads ∧ t.records = s.records ∧ SameBytes s t) ∧
      (o.cntv = false → o.orphan = false → s.awaited cl n = false → Does (.streamEnd cl n) s fun t =>
        SMap.get? (t.cluster cl).streams n = some { o with ended := true, status := status, lines := [], snap := [], values := [] } ∧
        (∀ k, k ≠ n → SMap.get? (t.cluster cl).streams k = SMap.get? (s.cluster cl).streams k) ∧ t.threads = s.threads ∧
        t.records = s.records ∧ SameBytes s t) ∧
      (∀ v d, (s.thr v).wait = .apwait d n → (s.thr v).live = true → threadCluster v = cl → o.cntv = false →
        s.threads.Ok → Does (.streamEnd cl n) s fun t => SMap.get? (t.cluster cl).streams n = none ∧
        Completed (one d (BitVec.ofNat 64 status)) 0 (s.thr v) (t.thr v) ∧ SameBytes s t))

end Claim

/-- AP streams start, are accepted, pass their queues and end: `Claim.StreamsStart`, `Claim.SnapshotsAreTaken`, `Claim.ApQueues`,
`Claim.StreamsEnd`. -/
def Obligations.Streams : Prop := Claim.StreamsStart ∧ Claim.SnapshotsAreTaken ∧ Claim.ApQueues ∧ Claim.StreamsEnd

/-! ### The Firn fabric -/

namespace Claim

/-- The thread that issues sent one packet and is parked; nothing else but the packet's sequence number differs. -/
def Sent (w : Wait) (P : Packet → Prop) (s t : State) : Prop :=
  (t.thr s.cur).wait = w ∧ { t.thr s.cur with wait := s.me.wait, seqs := s.me.seqs } = s.me ∧ (∀ v, v ≠ s.cur → t.thr v = s.thr v) ∧
  (∃ p, t.net = s.net ++ [p] ∧ P p ∧ p.thread = s.cur ∧ p.from_ = threadModule s.cur ∧ p.region = s.recordRegion s.cur) ∧
  { t with threads := s.threads, net := s.net } = s ∧ SameBytes s t

/-- MGRANT, MRELEASE, MQUOTA, FRED and FBARPOLL send a request to their switch and park; their checks raise ILLEGAL, ALIGN or
LAYOUT_BOUNDS; MRELEASE and FRED come after the thread's release (R328, R330, R331, R336, R341). A request waits at its source while its
destination has 256 packets of the thread that are not acknowledged (R324). FBARPOLL of a number of 1,024 and above answers all ones without a
packet (DEDUCED, log 49), and its answer counts in bank 57 (R358). -/
def FabricRequests : Prop :=
  ∀ (d a : BitVec 6) (m : BitVec 1) (o : BitVec 3) (s : State), NoRun s →
    (let n := (s.sr a).toNat
      let dest := 1024 + threadModule s.cur / 72 * 16 + n % 16
      n < 1024 → 256 ≤ s.unacked s.cur dest → Does (.fbarpoll d a) s (Parked (.retry (.window [dest])) s)) ∧
    ((∀ dest, s.unacked s.cur dest < 256) →
    let w := (s.group a 4).getD 0 0
    let pod := if bits w 27 24 = 15 then threadModule s.cur / 72 else bits w 27 24
    let addr := (s.sr a).toNat
    let n := (s.srN (a.toNat + 1)).toNat
    let home := 1024 + threadModule s.cur / 72 * 16
    let src := (s.group a 4).getD 1 0 % 4096
    let regs := (s.group a 4).getD 1 0 / 4096 % 8 + 1
    let bad (i : Instr) := Does i s (Trapped s.cur causeILLEGAL ((encode i).setWidth 64) s.me.pc s)
    let rest := (s.group a 4).getD 1 0 / 2 ^ 15 = 0 ∧ (s.group a 4).getD 2 0 = 0 ∧ (s.group a 4).getD 3 0 = 0
    (s.grantOk (threadModule s.cur) w ((s.group a 4).drop 1) (decide (m = 1)) = true → Does (.mgrant d a m) s
      (Sent (.fabric 63 1 [] none (.grant d (BitVec.ofNat 64 w))) (fun p => p.kind = 5 ∧ p.dest = 1024 + (pod * 16 + bits w 19 16) ∧
        p.aux = m.toNat ∧ p.payload = leBytes 8 w) s)) ∧
    (s.grantOk (threadModule s.cur) w ((s.group a 4).drop 1) (decide (m = 1)) = false → bad (.mgrant d a m)) ∧
    (w / 2 ^ 41 ≠ 0 ∨ bits w 15 0 = 0 ∨ 49152 < bits w 15 0 ∨ (m = 1 ∧ bits w 23 20 = bits w 19 16) → bad (.mgrant d a m)) ∧
    (addr % 2097152 ≠ 0 → Does (.mrelease d a) s (Trapped s.cur causeALIGN (s.sr a) s.me.pc s)) ∧
    (addr % 2097152 = 0 → n = 0 ∨ 49152 < n ∨ s.moraineOk addr = false → bad (.mrelease d a)) ∧
    (addr % 2097152 = 0 → 1 ≤ n → n ≤ 49152 → s.moraineOk addr = true → Settled s → Does (.mrelease d a) s
      (Sent (.fabric 63 1 [] none (.scalar d)) (fun p => p.kind = 6 ∧ p.dest = 1024 + (bits addr 44 41 * 16 + bits addr 40 37) ∧
        p.addr = addr ∧ p.payload = leBytes 8 n) s)) ∧
    (Does (.mquota d) s (Sent (.fabric 63 1 [] none (.quota d)) (fun p => p.kind = 7 ∧
      ((s.module (threadModule s.cur)).failed = [] → p.dest = home)) s)) ∧
    (4096 ≤ w ∨ ¬ rest → bad (.fred a o)) ∧
    (w < 4096 → rest → winSize s.cur s.me < src + regs →
      Does (.fred a o) s (Trapped s.cur causeLAYOUT (BitVec.ofNat 64 (2 ^ 63 + src)) s.me.pc s)) ∧
    (w < 4096 → rest → src + regs ≤ winSize s.cur s.me → s.badRegs = [] → Settled s → Does (.fred a o) s
      (Sent (.fred w) (fun p => p.kind = 15 ∧ p.dest = home + w % 16 ∧ p.addr = w ∧ p.opc = o.toNat ∧ p.aux = regs - 1 ∧
        p.payload = leBytes (128 * regs) (s.groupBits src regs)) s)) ∧
    (addr < 1024 → Does (.fbarpoll d a) s (Sent (.fabric 57 1 [] none (.scalar d)) (fun p => p.kind = 11 ∧ p.dest = home + addr % 16 ∧
      p.addr = addr) s)) ∧
    (1024 ≤ addr → Does (.fbarpoll d a) s (Parked (.response 57 (.scalar d (BitVec.ofNat 64 (2 ^ 64 - 1)))) s)))

/-- FBARRIER: an object that does not serve the module's context raises REMOTE_DENIED at the issue (DEDUCED, log 49), one on a switch that the
hub holds for failed MORAINE_LOST; an arrival below MCOUNT is counted at the hub and parks; the arrival that reaches MCOUNT starts a new count and sends the
module's report (R340, R342). -/
def FabricBarrierArrives : Prop :=
  ∀ (a : BitVec 6) (s : State), NoRun s → Settled s →
    let n := (s.sr a).toNat
    let m := threadModule s.cur
    let sw := m / 72 * 16 + n % 16
    let d := (SMap.getD (s.switch sw).objects n {}).desc.toNat
    let lost := (s.module m).failed.contains sw
    let mine := colKind d = 2 ∧ colCtx d = (s.agent s.cur).ctx ∧ (colPmask d).testBit (m % 72) = true
    let b := s.hubBarrier m n
    let parks (t : State) : Prop := ParkedThread (.fbarrier n b.sent) s.me (t.thr s.cur) ∧ (∀ v, v ≠ s.cur → t.thr v = s.thr v) ∧
      (∀ k, k ≠ n → t.hubBarrier m k = s.hubBarrier m k) ∧ t.switches = s.switches ∧ t.records = s.records ∧ SameBytes s t
    (1024 ≤ n → Does (.fbarrier a) s (Trapped s.cur causeREMOTE (s.sr a) s.me.pc s)) ∧
    (n < 1024 → lost = true → Does (.fbarrier a) s (Trapped s.cur causeLOST (s.sr a) s.me.pc s)) ∧
    (n < 1024 → lost = false → ¬ mine → Does (.fbarrier a) s (Trapped s.cur causeREMOTE (s.sr a) s.me.pc s)) ∧
    (n < 1024 → lost = false → mine → b.arrivals + 1 < colMcount d → Does (.fbarrier a) s fun t =>
      parks t ∧ t.hubBarrier m n = { b with arrivals := b.arrivals + 1 } ∧ t.net = s.net) ∧
    (n < 1024 → lost = false → mine → colMcount d ≤ b.arrivals + 1 → Does (.fbarrier a) s fun t =>
      parks t ∧ t.hubBarrier m n = { b with arrivals := 0, sent := b.sent + 1 } ∧
      ∃ p, t.net = s.net ++ [p] ∧ p.kind = 17 ∧ p.from_ = m ∧ p.dest = 1024 + sw ∧ p.addr = n)

/-- The fabric instructions reach outside the module or write no memory that a run could hold, so inside an explicit transaction they abort
it with REMOTE (R143, R264). -/
def FabricInTransaction : Prop :=
  ∀ (d a : BitVec 6) (m : BitVec 1) (o : BitVec 3) (s : State), InTransaction s →
    ∀ i ∈ [Instr.mgrant d a m, .mrelease d a, .mquota d, .fred a o, .fbarrier a, .fbarpoll d a],
      Does i s fun t => (t.thr s.cur).pc = s.me.fallback ∧ (t.thr s.cur).cause = abortREMOTE ∧ (t.thr s.cur).run = {} ∧
        (t.thr s.cur).depth = 0 ∧ (t.thr s.cur).wait = .ready ∧ SameBytes s t

/-- The packet q is p but for CLASS, LEN, plane and route, which its source fills in (R322, R323). -/
def SameBut (p q : Packet) : Prop :=
  { q with cls := p.cls, len := p.len, plane := p.plane, route := p.route, via := p.via } = p ∧ q.cls = kindClass p.kind ∧
  q.len = (p.payload.length + 63) / 64

/-- The packet at place i leaves the fabric and one reply to it joins: a kind, a status and a payload. The fields of the request that a
reply does not carry are zero (R323). -/
def Answered (i : Nat) (p : Packet) (kind status : Nat) (payload : List Byte) (s t : State) : Prop :=
  ∃ q, t.net = s.net.eraseIdx i ++ [q] ∧
    SameBut { p with kind := kind, req := p.kind, from_ := p.dest, dest := p.from_, status := status, payload := payload
                     opc := 0, size := 0, aux := 0, last := false } q

/-- A packet is not performed while it is stomped, or while an earlier request of its thread to the same destination is in flight (R169,
R324); an event of another kind than the packet's changes nothing; a packet whose KIND is not assigned or has another CLASS is discarded and
counted at its first switch (R323, R324). -/
def FirnOrder : Prop :=
  ∀ (i : Nat) (delay : BitVec 16) (s : State),
    let same (t : State) : Prop := t = s
    (s.net.length ≤ i → s.arriving i = none) ∧
    (∀ p, s.net[i]? = some p → p.stomped = true → s.arriving i = none) ∧
    (∀ p, s.net[i]? = some p → 23 < p.kind ∨ p.cls ≠ kindClass p.kind →
      ∀ x ∈ [Instr.firnRd i, .firnWr i, .firnAmo i, .firnRed i, .firnSend i, .firnMgrant i, .firnRdata i delay, .firnAck i delay, .firnNak i,
        .firnFcontrib i, .firnMcdata i], Does x s fun t =>
          t.net = s.net.eraseIdx i ∧ (t.switch p.firstSwitch).discarded = (s.switch p.firstSwitch).discarded + 1 ∧
          { t with net := s.net, switches := s.switches } = s) ∧
    (∀ p, s.net[i]? = some p → isRequest p.kind = true →
      (∃ x ∈ s.net.take i, isRequest x.kind = true ∧ x.from_ = p.from_ ∧ x.dest = p.dest ∧ x.thread = p.thread ∧ x.srcu = p.srcu) →
      s.arriving i = none) ∧
    (let idle (k : Nat) : Prop := (∀ p, s.arriving i = some p → p.kind ≠ k) ∧ ∀ p, s.net[i]? = some p → p.headerOk = true;
      (idle 0 → Does (.firnRd i) s same) ∧ (idle 1 → Does (.firnWr i) s same) ∧ (idle 2 → Does (.firnAmo i) s same) ∧
      (idle 3 → Does (.firnRed i) s same) ∧ (idle 4 → Does (.firnSend i) s same ∧ Does (.mailboxArrival i) s same) ∧
      (idle 5 → Does (.firnMgrant i) s same) ∧ (idle 6 → Does (.firnMrelease i) s same) ∧ (idle 7 → Does (.firnMquota i) s same) ∧
      (idle 8 → Does (.firnJoin i) s same) ∧ (idle 9 → Does (.firnLeave i) s same) ∧ (idle 10 → Does (.firnFcfg i) s same) ∧
      (idle 11 → Does (.firnFbpoll i) s same) ∧ (idle 12 → Does (.firnRdata i delay) s same) ∧ (idle 13 → Does (.firnAck i delay) s same) ∧
      (idle 14 → Does (.firnNak i) s same) ∧ (idle 15 → Does (.firnFcontrib i) s same) ∧ (idle 16 → Does (.firnFrack i) s same) ∧
      (idle 17 → Does (.firnFbarr i) s same) ∧ (idle 18 → Does (.firnFwdraw i) s same) ∧ (idle 19 → Does (.firnMcdata i) s same) ∧
      (idle 20 → Does (.firnMcresult i) s same) ∧ (idle 21 → Does (.firnFbrel i) s same) ∧ (idle 22 → Does (.firnMcack i) s same))

/-- Where a tenant's Moraine page is: an address outside the limits of R326 is PAGE; a page on a live switch is served there, beside its
other copy; while the switch has failed and the module is not told, the request waits (DEDUCED, log 47); once told, a page of which no copy
is left is LOST, also where the copy was lost with another switch of the pod, and PAGE where there was none (R326, R332, R333). -/
def MorainePages : Prop :=
  ∀ (m ctx addr : Nat) (s : State),
    let sw := bits addr 44 41 * 16 + bits addr 40 37
    let key := pageKey ctx (bits addr 36 21)
    let told := (s.module m).failed.contains sw
    (2 ^ 45 ≤ addr ∨ 12 < bits addr 44 41 ∨ 49152 ≤ bits addr 36 21 → s.moraineCopies m ctx addr = .error (.error causePAGE)) ∧
    (s.moraineOk addr = true → (s.switch sw).failed = true → told = false → s.moraineCopies m ctx addr = .error (.wait 0 [])) ∧
    (s.moraineOk addr = true → (s.switch sw).failed = false → told = false → ∀ x, SMap.get? (s.switch sw).pages key = some x → x.primary = sw →
      ∃ o, s.moraineCopies m ctx addr = .ok ((sw, x.bank), o)) ∧
    (s.moraineOk addr = true → ((s.switch sw).failed = true → told = true) → (∀ w, w / 16 = sw / 16 → SMap.get? (s.switch w).pages key = none) →
      s.moraineCopies m ctx addr = .error (match (SMap.get? (s.switch sw).lost key).bind (·.lostAt) with
        | some w => if told || (s.module m).failed.contains w then .error causeLOST else .wait 0 []
        | none => .error causePAGE))

/-- FIRN_RD, FIRN_WR, FIRN_AMO and FIRN_RED at a Moraine page: the bytes read travel back, a write lands in every live copy, an atomic
answers the old value, a refused request carries its cause, and nothing else changes (R149, R150, R323, R326, R332). A peer request that
the range table does not serve is refused with REMOTE_DENIED (R135); one without bytes is checked for four (log 71). -/
def FirnMemory : Prop :=
  ∀ (i : Nat) (s : State) (p : Packet), s.arriving i = some p →
    let copies := s.moraineCopies p.from_ p.ctx p.addr
    let agent := p.agent
    (1024 ≤ p.dest → agent.module = p.from_ →
      (∀ c, copies = .error (.error c) →
        let refused (k : Nat) (t : State) : Prop := Answered i p k c [] s t ∧ { t with net := s.net } = s
        (p.kind = 0 → Does (.firnRd i) s (refused 12)) ∧ (p.kind = 1 → Does (.firnWr i) s (refused 13)) ∧
        (p.kind = 2 → Does (.firnAmo i) s (refused 12)) ∧ (p.kind = 3 → Does (.firnRed i) s (refused 13))) ∧
      (copies = .error (.wait 0 []) → (p.kind = 0 → Does (.firnRd i) s fun t => t = s) ∧ (p.kind = 1 → Does (.firnWr i) s fun t => t = s) ∧
        (p.kind = 2 → Does (.firnAmo i) s fun t => t = s) ∧ (p.kind = 3 → Does (.firnRed i) s fun t => t = s)) ∧
      (∀ c o, copies = .ok (c, o) → s.badMem = [] → s.MemoryOk → s.lineKey = [] →
        let at_ (x : Nat × Nat) (j : Nat) : Nat := 2 ^ 62 + (x.1 * 49152 + x.2) * 2 ^ 21 + (p.addr + j) % 2 ^ 21
        let old (n : Nat) : Nat := leNat ((List.range n).map fun j => Memory.get s.mem (at_ c j))
        let both : List (Nat × Nat) := c :: o.toList
        let wrote (n v : Nat) (t : State) : Prop :=
          (∀ x ∈ both, ∀ j, j < n → Memory.get t.mem (at_ x j) = byteOf v j) ∧
          SameBytesBut (both.flatMap fun x => (List.range n).map (at_ x)) s t
        (p.kind = 0 → Does (.firnRd i) s fun t =>
          Answered i p 12 0 ((List.range p.size).map fun j => Memory.get s.mem (2 ^ 62 + (c.1 * 49152 + c.2) * 2 ^ 21 + (p.addr + j) % 2 ^ 21)) s t ∧
          { t with net := s.net } = s) ∧
        (both.Nodup → p.addr % 2 ^ 21 + p.payload.length ≤ 2 ^ 21 → p.kind = 1 → Does (.firnWr i) s fun t =>
          Answered i p 13 0 [] s t ∧ wrote p.payload.length (leNat p.payload) t ∧ t.threads = s.threads ∧ t.records = s.records) ∧
        (both.Nodup → p.size = 4 ∨ p.size = 8 → p.addr % p.size = 0 → p.kind = 2 → ∀ v,
          amoValue p.opc p.size (old p.size) (p.operand 0) (p.operand 1) = some v → Does (.firnAmo i) s fun t =>
          Answered i p 12 0 (leBytes 8 (old p.size)) s t ∧ wrote p.size v t ∧ t.threads = s.threads ∧ t.records = s.records) ∧
        (both.Nodup → p.size = 4 ∨ p.size = 8 → p.addr % p.size = 0 → p.kind = 3 → Does (.firnRed i) s fun t =>
          Answered i p 13 0 [] s t ∧ wrote p.size (redValue p.opc p.size (old p.size) (p.operand 0)) t ∧
          t.threads = s.threads ∧ t.records = s.records))) ∧
    (p.dest < 1024 → s.present.contains p.dest = true → s.peerTableHeld agent.module p.dest = false → p.kind = 0 →
      s.peerKey agent.module p.dest p.addr (if p.size = 0 then 4 else p.size) rangeR = none →
      Does (.firnRd i) s fun t => Answered i p 12 causeREMOTE [] s t ∧ { t with net := s.net } = s) ∧
    (p.dest < 1024 → s.present.contains p.dest = true → s.peerTableHeld agent.module p.dest = false → p.kind = 1 →
      s.peerKey agent.module p.dest p.addr (if p.payload.length = 0 then 4 else p.payload.length) rangeW = none →
      Does (.firnWr i) s fun t => Answered i p 13 causeREMOTE [] s t ∧ { t with net := s.net } = s)

/-- FIRN_MGRANT of an unmirrored grant (R328, R329): past a budget or the tenant's quota the reply carries QUOTA; else the tenant holds the
pages of the lowest free run on distinct bank pages, zeroed, and the reply gives their address. FIRN_MRELEASE frees the pages of its
range that the agent may free, and answers their number (R330). FIRN_MQUOTA answers the least budget left and the failed switches
(R331). -/
def FirnGrants : Prop :=
  ∀ (i : Nat) (s : State) (p : Packet), s.arriving i = some p →
    let w := p.operand 0
    let n := bits w 15 0
    let sw := p.dest - 1024
    let within := ∀ r ∈ s.budgets p.from_ p.payer, s.moraineHeld p.from_ r + n * 2097152 ≤ (s.region p.from_ r).morb
    let live := (s.module p.from_).failed.contains sw = false ∧ (s.switch sw).failed = false
    (p.kind = 5 → p.aux = 0 → ¬ within → Does (.firnMgrant i) s fun t => Answered i p 13 causeQUOTA [] s t ∧ { t with net := s.net } = s) ∧
    (p.kind = 5 → p.aux = 0 → within → live → (s.switch sw).quotaLeft p.ctx < n → Does (.firnMgrant i) s fun t =>
      Answered i p 13 causeQUOTA [] s t ∧ { t with net := s.net } = s) ∧
    (p.kind = 5 → p.aux = 0 → within → live → n ≤ (s.switch sw).quotaLeft p.ctx → n ≤ (s.switch sw).freeBanks.length →
      ∀ first, s.commonRun p.ctx n [sw] = some first → (s.switch sw).pages.Ok → s.MemoryOk → Does (.firnMgrant i) s fun t =>
        Answered i p 13 0 (leBytes 8 (sw / 16 * 2 ^ 41 + sw % 16 * 2 ^ 37 + first * 2 ^ 21)) s t ∧
        (∀ k, k < n → ∃ x, SMap.get? (t.switch sw).pages (pageKey p.ctx (first + k)) = some x ∧ x.owner = (p.from_, p.payer) ∧
          x.primary = sw ∧ x.mirror = none ∧ (∀ y ∈ (s.switch sw).pages, y.2.bank ≠ x.bank) ∧
          ∀ off, off < 2 ^ 21 → Memory.get t.mem (2 ^ 62 + (sw * 49152 + x.bank) * 2 ^ 21 + off) = 0) ∧
        (∀ v, v ≠ sw → t.switch v = s.switch v) ∧ t.threads = s.threads ∧ t.records = s.records) ∧
    (p.kind = 6 → s.toDead p = false → p.operand 0 = 1 → bits p.addr 36 21 < 49152 →
      let key := pageKey p.ctx (bits p.addr 36 21)
      ∀ x, SMap.get? (s.switch p.sw).pages key = some x → x.primary = p.sw → s.mayFree p x = true → s.switches.Ok → (s.switch p.sw).pages.Ok →
        Does (.firnMrelease i) s fun t => Answered i p 13 0 (leBytes 8 1) s t ∧ SMap.get? (t.switch p.sw).pages key = none ∧
          (∀ k, k ≠ key → SMap.get? (t.switch p.sw).pages k = SMap.get? (s.switch p.sw).pages k) ∧ t.threads = s.threads ∧ SameBytes s t) ∧
    (p.kind = 7 → s.toDead p = false → ∀ r rs, s.budgets p.from_ p.payer = r :: rs → Does (.firnMquota i) s fun t =>
      ∃ q, t.net = s.net.eraseIdx i ++ [q] ∧ q.kind = 13 ∧ q.dest = p.from_ ∧ q.status = 0 ∧ q.thread = p.thread ∧
        leNat (q.payload.take 8) = (rs.map fun r => (s.region p.from_ r).morb - s.moraineHeld p.from_ r).foldl min
          ((s.region p.from_ r).morb - s.moraineHeld p.from_ r) % 2 ^ 64 ∧
        (∀ k, k < 16 → (leNat (q.payload.drop 8)).testBit (40 + k) = (s.module p.from_).failed.contains (p.from_ / 72 * 16 + k)))

end Claim

/-- Packets to memory and to Moraine pages: `Claim.FirnOrder`, `Claim.MorainePages`, `Claim.FirnMemory`, `Claim.FirnGrants`. -/
def Obligations.FirnMemory : Prop := Claim.FirnOrder ∧ Claim.MorainePages ∧ Claim.FirnMemory ∧ Claim.FirnGrants

namespace Claim

/-- FIRN_JOIN sets the tag's bits at the die's router, at the hub and at the pod's switch of the tag's plane; FIRN_LEAVE clears each bit below
which no subscription remains; each is acknowledged (R248). A multicast packet is written at each subscriber through its entry, the last packet decrements
its counter with the packet's status and is acknowledged (R249, R250); a packet without subscribers is only acknowledged. The acknowledgement
completes the oldest operation of the tag (R249). -/
def FirnMulticast : Prop :=
  ∀ (i : Nat) (s : State) (p : Packet), s.arriving i = some p →
    let tag := p.addr
    let own := p.from_ / 72 * 16 + tag % 16
    let ports (t : State) : List Nat := SMap.getD (t.switch own).tags tag []
    let receivers (pod : Nat) := s.subscribers tag (s.tagModules pod tag)
    let write (x : Subscription) (t : State) : Prop :=
      ∀ cells, mcCells x.lay.toNat (p.operand 0) p.aux (p.payload.drop 8) = some cells → cells ≠ [] →
      ∀ u xs, s.engineXlat { thread := p.thread, unit := 3, cluster := x.cluster, ctx := x.ctx, heap := x.heap } x.lay.toNat permW true
        (cells.map (·.1)) = (u, .ok xs) → laySpace x.lay.toNat < 3 → isDirected x.lay.toNat xs = false →
      EngineClear { thread := p.thread, unit := 3, cluster := x.cluster, ctx := x.ctx, heap := x.heap } [] xs (cells.map (·.1)) u →
      (cells.map fun c => xlatLoc xs c.1).Nodup → u.clusters = s.clusters →
        (∀ c ∈ cells, Memory.get t.mem (xlatLoc xs c.1) = c.2) ∧ SameBytesBut (cells.map fun c => xlatLoc xs c.1) u t ∧
        (p.last = true → x.cntv = true → Counted x.cluster x.cnt p.status s t) ∧ (p.last = false → t.clusters = s.clusters)
    let cl := threadCluster p.thread
    let die (t : State) : List Nat := SMap.getD (t.die (threadDie p.thread)).tags tag []
    let hub (t : State) : List Nat := SMap.getD (t.module p.from_).tags tag []
    (p.kind = 8 → s.toDead p = false → s.toLost p = false → threadModule p.thread = p.from_ → Does (.firnJoin i) s fun t =>
      Answered i p 13 0 [] s t ∧ p.from_ % 72 ∈ ports t ∧ (∀ x ∈ ports s, x ∈ ports t) ∧ cl ∈ die t ∧ (∀ x ∈ die s, x ∈ die t) ∧
      threadDie p.thread ∈ hub t ∧ (∀ x ∈ hub s, x ∈ hub t) ∧ t.threads = s.threads ∧ SameBytes s t) ∧
    (p.kind = 9 → s.toDead p = false → s.toLost p = false → threadModule p.thread = p.from_ →
      ((s.module p.from_).subs.any (fun x => decide (x.tag = tag)) = true → Does (.firnLeave i) s fun t =>
        Answered i p 13 0 [] s t ∧ t.switches = s.switches ∧
        ((∀ x ∈ (s.module p.from_).subs, x.tag = tag → x.cluster ≠ cl) → cl ∉ die t) ∧ t.threads = s.threads ∧ SameBytes s t) ∧
      ((s.module p.from_).subs.any (fun x => decide (x.tag = tag)) = false → Does (.firnLeave i) s fun t =>
        Answered i p 13 0 [] s t ∧ p.from_ % 72 ∉ ports t ∧ (∀ x ∈ ports t, x ∈ ports s) ∧
        (∀ x ∈ ports s, x < 72 → x ≠ p.from_ % 72 → x ∈ ports t) ∧ die t = [] ∧ hub t = [] ∧ t.threads = s.threads ∧ SameBytes s t)) ∧
    (p.kind = 19 → s.toDead p = false → s.toLost p = false →
      (receivers (p.from_ / 72) = [] → Does (.firnMcdata i) s fun t => { t with net := s.net } = s ∧
        (if p.last then Answered i p 22 0 [] s t else t.net = s.net.eraseIdx i)) ∧
      (∀ x r, receivers (p.from_ / 72) = [x] → s.receive p x = .ok r → Does (.firnMcdata i) s (write x))) ∧
    (p.kind = 20 →
      (receivers (p.sw / 16) = [] → Does (.firnMcresult i) s fun t => t = { s with net := s.net.eraseIdx i }) ∧
      (∀ x r, receivers (p.sw / 16) = [x] → s.receive p x = .ok r → Does (.firnMcresult i) s (write x))) ∧
    (p.kind = 22 →
      (∀ k o, (s.cluster cl).copies[k]? = some o → o.sent = true → o.thread = p.thread → o.tag = tag →
        (∀ x ∈ (s.cluster cl).copies.take k, ¬(x.sent = true ∧ x.thread = p.thread ∧ x.tag = tag)) → Does (.firnMcack i) s fun t =>
          (t.cluster cl).copies = (s.cluster cl).copies.eraseIdx k ∧ Counted o.sel o.cnt o.cause s t ∧ t.net = s.net.eraseIdx i ∧
          t.threads = s.threads ∧ SameBytes s t))

/-- A contribution is refused for an object that does not serve the module's context, or with another operation or size; the first of a
module in a round is stored and acknowledged, a second one waits; the contribution that completes the round sends the result of the
operation in slot order, and a new round begins (R336, R337). Its acknowledgement counts in bank 57 (R358) and wakes the thread, traps it, or
lets it issue again (R336, R343); a withdrawal takes back a waiting contribution (R343). -/
def FirnReductions : Prop :=
  ∀ (i : Nat) (s : State) (p : Packet), s.arriving i = some p →
    let sw := p.from_ / 72 * 16 + p.addr % 16
    let o := SMap.getD (s.switch sw).objects p.addr {}
    let d := o.desc.toNat
    let live := s.toLost p = false ∧ s.toDead p = false
    let serves := colKind d = 1 ∧ colCtx d = p.ctx ∧ (colPmask d).testBit (p.from_ % 72) = true
    let fits := p.opc = colOp d ∧ p.aux + 1 = colNreg d
    let mine (x : Contribution) : Prop := x.module = p.from_ ∧ x.thread = p.thread ∧ x.region = p.region ∧ x.regs.length = p.aux + 1
    let object (t : State) : FabricObj := SMap.getD (t.switch sw).objects p.addr {}
    let ack (q : Packet) (accepted status : Nat) : Prop := q.kind = 16 ∧ q.dest = p.from_ ∧ q.thread = p.thread ∧ q.addr = p.addr ∧
      q.aux = accepted ∧ q.status = status
    let refuses (c : Nat) := Does (.firnFcontrib i) s fun t => (∃ q, t.net = s.net.eraseIdx i ++ [q] ∧ ack q 0 c) ∧ { t with net := s.net } = s
    (p.kind = 15 → p.sw = sw →
      (s.toLost p = true → refuses causeLOST) ∧ (live → ¬ serves → refuses causeREMOTE) ∧ (live → serves → ¬ fits → refuses causeILLEGAL) ∧
      (live → serves → fits → (∃ x ∈ o.stored, x.module = p.from_) → Does (.firnFcontrib i) s fun t =>
        t.net = s.net.eraseIdx i ∧ (object t).stored = o.stored ∧ ∃ x, (object t).waiting = o.waiting ++ [x] ∧ mine x) ∧
      (live → serves → fits → (∀ x ∈ o.stored, x.module ≠ p.from_) →
        (∃ k, k < 72 ∧ (colPmask d).testBit k = true ∧ k ≠ p.from_ % 72 ∧ ∀ x ∈ o.stored, x.module % 72 ≠ k) → Does (.firnFcontrib i) s fun t =>
          (∃ q, t.net = s.net.eraseIdx i ++ [q] ∧ ack q 1 0) ∧ (object t).waiting = o.waiting ∧ ∃ x, (object t).stored = o.stored ++ [x] ∧ mine x) ∧
      (live → serves → fits → (∀ x ∈ o.stored, x.module ≠ p.from_) → o.waiting = [] → colPmask d ≠ 0 →
        (∀ k, k < 72 → (colPmask d).testBit k = true → k = p.from_ % 72 ∨ ∃ x ∈ o.stored, x.module % 72 = k) → Does (.firnFcontrib i) s fun t =>
          (object t).stored = [] ∧ (object t).number = (o.number + 1) % 2 ^ 32 ∧
          ∃ q qs, t.net = s.net.eraseIdx i ++ q :: qs ∧ ack q 1 0 ∧ qs ≠ [] ∧
            (∀ x ∈ qs, x.kind = 20 ∧ x.addr = colTag d ∧ x.dest = 1024 + sw ∧ x.payload.take 8 = leBytes 8 (colDst d)) ∧
            (qs.flatMap fun x => x.payload.drop 8) = (roundResult (colOp d) (o.stored ++ [p.contribution])).flatMap fun v => leBytes 128 v.toNat)) ∧
    (p.kind = 16 → (s.thr p.thread).live = true →
      ((s.thr p.thread).wait ≠ .fred p.addr → Does (.firnFrack i) s fun t => t = { s with net := s.net.eraseIdx i }) ∧
      ((s.thr p.thread).wait = .fred p.addr → p.status = 0 → p.aux = 1 → Does (.firnFrack i) s fun t =>
        OnlyThread p.thread ({ s with net := s.net.eraseIdx i }.respond p.thread 57) t ∧ Completed none_ 0 (s.thr p.thread) (t.thr p.thread)) ∧
      ((s.thr p.thread).wait = .fred p.addr → p.status = 0 → p.aux ≠ 1 → Does (.firnFrack i) s fun t =>
        OnlyThread p.thread ({ s with net := s.net.eraseIdx i }.respond p.thread 57) t ∧ ParkedThread .ready (s.thr p.thread) (t.thr p.thread)) ∧
      ((s.thr p.thread).wait = .fred p.addr → p.status ≠ 0 → (s.thr p.thread).run.active = false → (s.thr p.thread).run.ordered = false →
        Does (.firnFrack i) s (Trapped p.thread p.status (BitVec.ofNat 64 p.addr) (s.thr p.thread).pc
          ({ s with net := s.net.eraseIdx i }.respond p.thread 57)))) ∧
    (p.kind = 18 → s.toLost p = true → Does (.firnFwdraw i) s fun t => t = { s with net := s.net.eraseIdx i }) ∧
    (p.kind = 18 → live → p.sw = sw →
      ((∀ x ∈ o.waiting, ¬(x.module = p.from_ ∧ x.thread = p.thread)) → Does (.firnFwdraw i) s fun t => t = { s with net := s.net.eraseIdx i }) ∧
      ((∃ x ∈ o.waiting, x.module = p.from_ ∧ x.thread = p.thread) → Does (.firnFwdraw i) s fun t =>
        (∃ q, t.net = s.net.eraseIdx i ++ [q] ∧ ack q 0 0) ∧ (object t).stored = o.stored ∧
        ∀ x ∈ (object t).waiting, ¬(x.module = p.from_ ∧ x.thread = p.thread)))

/-- Combine (R338, R339): FP32, BF16 and INT32 sums, maxima and minima of two contributions, lane by lane; and the triple of LSE3, whose
maximum is NaN where one of the two is. -/
def CombineLanes : Prop :=
  (∀ (u v : Vec) (i : Nat), i < 32 →
    let l (op : Nat) : Option W32 := (combine op [u] [v])[0]?.map fun x => lane x i
    let h (w : W32) (k : Nat) : Nat := w.toNat / 2 ^ (16 * k) % 2 ^ 16
    let sum (k : Nat) : BitVec 16 := BitVec.ofNat 16 (rne16 ((num16 (h (lane u i) k)).add (num16 (h (lane v i) k))))
    l 0 = some (rne32 ((num32 (lane u i)).add (num32 (lane v i)))) ∧
    l 1 = some (sum 1 ++ sum 0) ∧
    l 2 = some (BitVec.ofNat 32 ((lane u i).toNat + (lane v i).toNat)) ∧
    l 3 = some (max32 (lane u i) (lane v i)) ∧ l 4 = some (min32 (lane u i) (lane v i))) ∧
  ∀ (u v x y : Vec),
    let m : W32 := if isNan (lane u 0) || isNan (lane x 0) then 0x7FC00000 else max32 (lane u 0) (lane x 0)
    let times (w z : W32) : W32 := rne32 ((num32 w).mul (num32 z))
    let mix (w z : W32) : W32 := rne32 ((num32 (times w (exp2Scale (lane u 0) m))).add (num32 (times z (exp2Scale (lane x 0) m))))
    ∃ p q, combine 5 [u, v] [x, y] = [p, q] ∧ lane p 0 = m ∧ lane p 1 = mix (lane u 1) (lane x 1) ∧
      (∀ i < 32, lane q i = mix (lane v i) (lane y i)) ∧ ∀ i, 2 ≤ i → i < 32 → lane p i = 0

/-- A write of FCOLCFG while no installation runs reads the descriptor: a bad address gives code 1, a bad descriptor code 2, a switch that
the hub holds for failed code 4, else the descriptor travels to its switch; while one runs the write is LOST (R334, R335). FIRN_FCFG installs
the object, or answers code 3 where a round or a phase is in progress; a barrier's phase number is then 0, at its hubs too (R334). -/
def CollectiveConfiguration : Prop :=
  (∀ (m : Nat) (v : BitVec 64) (s : State),
    let x := s.module m
    let pa := v.toNat / 64 % 2 ^ 46 * 64
    let badAddress := v.toNat % 64 ≠ 0 ∨ 2 ^ 52 ≤ v.toNat ∨ inHbm pa = false
    let d := s.num (locOf m pa) 64
    let ends (code : Nat) := Does (.fcolcfg m v) s fun t => OnlyModule m s t ∧ t.module m = { x with fcol := none, fcolCode := code }
    (x.fcol.isSome = true → Does (.fcolcfg m v) s fun t => OnlyModule m s t ∧ t.module m = { x with fcolLost := true }) ∧
    (x.fcol = none → badAddress → ends 1) ∧
    (x.fcol = none → ¬ badAddress → colOk d = false → ends 2) ∧
    (x.fcol = none → ¬ badAddress → colOk d = true → x.failed.contains (m / 72 * 16 + colObj d % 16) = true → ends 4) ∧
    (x.fcol = none → ¬ badAddress → colOk d = true → x.failed.contains (m / 72 * 16 + colObj d % 16) = false → Does (.fcolcfg m v) s fun t =>
      t.module m = { x with fcol := some v } ∧ (∀ k, k ≠ m → t.module k = s.module k) ∧ t.threads = s.threads ∧ SameBytes s t ∧
      ∃ p, t.net = s.net ++ [p] ∧ p.kind = 10 ∧ p.from_ = m ∧ p.dest = 1024 + (m / 72 * 16 + colObj d % 16) ∧ p.addr = colObj d ∧
        p.payload = leBytes 64 d)) ∧
  (∀ (i : Nat) (s : State) (p : Packet), s.arriving i = some p → p.kind = 10 → s.toDead p = false →
    let m := p.from_
    let sw := m / 72 * 16 + p.addr % 16
    let o := SMap.getD (s.switch sw).objects p.addr {}
    let d := leNat (p.payload.take 64)
    let ends (code : Nat) (t : State) : Prop := t.module m = { s.module m with fcol := none, fcolCode := code } ∧ t.net = s.net.eraseIdx i ∧
      t.threads = s.threads ∧ SameBytes s t
    (s.toLost p = true → Does (.firnFcfg i) s fun t => ends 4 t ∧ t.switches = s.switches) ∧
    (s.toLost p = false → o.busy = true → Does (.firnFcfg i) s fun t => ends 3 t ∧ t.switches = s.switches) ∧
    (s.toLost p = false → o.busy = false → p.sw = sw → Does (.firnFcfg i) s fun t =>
      { t.module m with hubBarriers := (s.module m).hubBarriers } = { s.module m with fcol := none, fcolCode := 0 } ∧
      (colKind d = 2 → ∀ k, k / 72 = m / 72 → (colPmask d).testBit (k % 72) = true → (t.hubBarrier k p.addr).phase = 0) ∧
      (colKind d ≠ 2 → ends 0 t) ∧ t.net = s.net.eraseIdx i ∧ t.threads = s.threads ∧ SameBytes s t ∧
      (∀ k, k ≠ sw → t.switch k = s.switch k) ∧
      SMap.get? (t.switch sw).objects p.addr = (if colKind d = 0 then none else some { desc := BitVec.ofNat 512 d }) ∧
      ∀ k, k ≠ p.addr → SMap.get? (t.switch sw).objects k = SMap.get? (s.switch sw).objects k))

/-- FIRN_FBARR: a report that completes the phase advances the phase number and sends a release to each module of PMASK, any other one is
kept; FIRN_FBREL wakes exactly the module's threads of that phase; FIRN_FBPOLL answers the phase, the reports and the module's arrivals in
the current phase, MCOUNT once it has reported, and all ones for an object that does not serve the module (R340, R341). -/
def FirnBarriers : Prop :=
  ∀ (i : Nat) (s : State) (p : Packet), s.arriving i = some p →
    let sw := p.from_ / 72 * 16 + p.addr % 16
    let o := SMap.getD (s.switch sw).objects p.addr {}
    let d := o.desc.toNat
    let live := s.toLost p = false ∧ s.toDead p = false
    let met := ∀ k, k < 72 → (colPmask d).testBit k = true → k = p.from_ % 72 ∨ ∃ m ∈ o.reported, m % 72 = k
    let object (t : State) : FabricObj := SMap.getD (t.switch sw).objects p.addr {}
    let b := s.hubBarrier p.dest p.addr
    (p.kind = 17 → p.sw = sw → live → ¬ met → Does (.firnFbarr i) s fun t =>
      object t = { o with reported := o.reported ++ [p.from_] } ∧ t.net = s.net.eraseIdx i ∧ t.threads = s.threads ∧ SameBytes s t) ∧
    (p.kind = 17 → p.sw = sw → live → met → Does (.firnFbarr i) s fun t =>
      (object t).number = (o.number + 1) % 2 ^ 32 ∧
      (∃ qs, t.net = s.net.eraseIdx i ++ qs ∧ (qs.map fun q => (q.kind, q.from_, q.dest, q.addr, q.aux)) =
        ((List.range 72).filter fun k => (colPmask d).testBit k).map fun k =>
          (21, p.dest, sw / 16 * 72 + k, p.addr, (o.number + 1) % 2 ^ 32)) ∧
      t.threads = s.threads ∧ SameBytes s t) ∧
    (p.kind = 21 → s.threads.Ok → Does (.firnFbrel i) s fun t =>
      t.hubBarrier p.dest p.addr = { b with released := b.released + 1, phase := p.aux } ∧ t.net = s.net.eraseIdx i ∧
      (∀ v, (s.thr v).live = true → threadModule v = p.dest → (s.thr v).wait = .fbarrier p.addr b.released → Completed none_ 0 (s.thr v) (t.thr v)) ∧
      (∀ v, (s.thr v).live = false ∨ threadModule v ≠ p.dest ∨ (s.thr v).wait ≠ .fbarrier p.addr b.released → t.thr v = s.thr v) ∧ SameBytes s t) ∧
    (p.kind = 11 → s.toDead p = false →
      let served := s.toLost p = false ∧ colKind d = 2 ∧ colCtx d = p.ctx ∧ (colPmask d).testBit (p.from_ % 72) = true
      let reports := p.from_ ∈ o.reported ∨ ∃ x ∈ s.net, x.kind = 17 ∧ x.from_ = p.from_ ∧ x.addr = p.addr
      let v := o.number * 2 ^ 32 + o.reported.eraseDups.length * 2 ^ 16 +
        if reports then colMcount d else (s.hubBarrier p.from_ p.addr).arrivals
      Does (.firnFbpoll i) s fun t => { t with net := s.net } = s ∧
        (served → Answered i p 13 0 (leBytes 8 v) s t) ∧ (¬ served → Answered i p 13 0 (leBytes 8 (2 ^ 64 - 1)) s t))

end Claim

/-- In-switch collectives: `Claim.FirnMulticast`, `Claim.FirnReductions`, `Claim.CombineLanes`, `Claim.CollectiveConfiguration`,
`Claim.FirnBarriers`. -/
def Obligations.FirnCollectives : Prop := Claim.FirnMulticast ∧ Claim.FirnReductions ∧ Claim.CombineLanes ∧ Claim.CollectiveConfiguration ∧ Claim.FirnBarriers

namespace Claim

/-- FIRN_RDATA and FIRN_ACK (R142, R144, R323): the last reply of an access completes it with the bytes that came, or raises the error; a
reply of a posted access leaves one fewer outstanding, and its error is kept for the next release; other threads never change. The answer to
MGRANT is the thread's result, and binds the granted pages to the layout entry, unless it is a refusal; it waits while the entry's line is in X
(R167, R328). A stomped packet is discarded and a NAK goes to its source, which sends it again (R324). -/
def FirnReplies : Prop :=
  ∀ (i : Nat) (delay : BitVec 16) (s : State),
    (∀ p, s.arriving i = some p →
      let u := { s with net := s.net.eraseIdx i }
      let v := s.thr p.thread
      (∀ bank d addrs, p.kind = 12 → p.posted = false → p.held = false → p.status = 0 → v.live = true →
        v.wait = .fabric bank 1 [] none (.load d addrs false) → addrs = (List.range p.payload.length).map (p.addr + ·) →
        p.payload.length ≤ 8 → Does (.firnRdata i delay) s fun t =>
          Completed (one d (BitVec.ofNat 64 (leNat p.payload))) 0 v (t.thr p.thread) ∧ (∀ k, k ≠ p.thread → t.thr k = s.thr k) ∧
          (∀ g, { t.core g with dbg := (s.core g).dbg } = s.core g) ∧ { t with threads := s.threads, cores := s.cores } = u) ∧
      (∀ bank d, p.kind = 13 → p.posted = false → p.held = false → p.status = 0 → v.live = true → p.payload.length = 8 →
        v.wait = .fabric bank 1 [] none (.scalar d) → Does (.firnAck i delay) s fun t =>
          Completed (one d (BitVec.ofNat 64 (leNat p.payload))) 0 v (t.thr p.thread) ∧ (∀ k, k ≠ p.thread → t.thr k = s.thr k) ∧
          (∀ g, { t.core g with dbg := (s.core g).dbg } = s.core g) ∧ { t with threads := s.threads, cores := s.cores } = u) ∧
      (∀ bank fin, p.kind = 13 → p.posted = false → p.held = false → p.status ≠ 0 → v.run.active = false → v.run.ordered = false →
        v.wait = .fabric bank 1 [] none fin → Does (.firnAck i delay) s fun t =>
          Trapped p.thread p.status (BitVec.ofNat 64 (if p.status = causeREMOTE then p.addr else if p.status = causeQUOTA then 0 else p.va)) v.pc u t) ∧
      (∀ bank d w, p.kind = 13 → p.posted = false → p.held = false → p.status = 0 → v.live = true → p.payload.length = 8 →
        v.wait = .fabric bank 1 [] none (.grant d w) →
        let addr := leNat p.payload
        let loc := s.entryLoc p.thread (bits w.toNat 35 28)
        (addr < 2 ^ 64 - 3 → lineOf loc ∈ s.xlines ∨ lineOf (loc + 63) ∈ s.xlines → Does (.firnAck i delay) s fun t => t = s) ∧
        (addr < 2 ^ 64 - 3 → lineOf loc ∉ s.xlines → lineOf (loc + 63) ∉ s.xlines → (∀ m, s.holders m = []) → s.dirQueue = [] → s.MemoryOk →
          (∀ j, j < 64 → SameKey s 0 (loc + j)) → Does (.firnAck i delay) s fun t =>
            Completed (one d (BitVec.ofNat 64 addr)) 0 v (t.thr p.thread) ∧ (∀ k, k ≠ p.thread → t.thr k = s.thr k) ∧ t.net = u.net ∧
            (∀ j, j < 64 → Memory.get t.mem (loc + j) = byteOf (grantEntry w.toNat addr) j) ∧
            SameBytesBut ((List.range 64).map (loc + ·)) s t) ∧
        (2 ^ 64 - 3 ≤ addr → Does (.firnAck i delay) s fun t => Completed (one d (BitVec.ofNat 64 addr)) 0 v (t.thr p.thread) ∧
          (∀ k, k ≠ p.thread → t.thr k = s.thr k) ∧ t.net = u.net ∧ SameBytes s t)) ∧
      (p.kind = 13 → p.posted = true → p.held = false → Does (.firnAck i delay) s fun t =>
        (t.thr p.thread).posted = v.posted - 1 ∧ (p.status = 0 → t.records = s.records ∧ (t.thr p.thread).postedErr = v.postedErr) ∧
        (p.status ≠ 0 → v.postedErr = none → (t.thr p.thread).postedErr = some (p.status, p.tval)) ∧
        { t.thr p.thread with posted := v.posted, postedErr := v.postedErr } = v ∧ (∀ k, k ≠ p.thread → t.thr k = s.thr k) ∧
        t.net = u.net ∧ SameBytes s t) ∧
      (∀ k x, u.net[k]? = some x → p.kind = 14 → x.stomped = true → x.thread = p.thread → x.srcu = p.srcu → x.dest = p.from_ → x.seq = p.seq →
        (∀ y ∈ u.net.take k, ¬(y.stomped = true ∧ y.thread = p.thread ∧ y.srcu = p.srcu ∧ y.dest = p.from_ ∧ y.seq = p.seq)) →
        Does (.firnNak i) s fun t => t = { s with net := u.net.set k { x with stomped := false } })) ∧
    (∀ p, s.net[i]? = some p → p.stomped = false → p.kind ≠ 14 → Does (.stompedPacket i) s fun t =>
      { t with net := s.net } = s ∧ ∃ q, t.net = s.net.set i { p with stomped := true } ++ [q] ∧ q.kind = 14 ∧ q.dest = p.from_ ∧
        q.from_ = p.dest ∧ q.seq = p.seq ∧ q.thread = p.thread ∧ q.srcu = p.srcu)

/-- A SEND that arrives once its release has taken effect (R113, R114, R144): it is refused where the destination holds no residency of its context, and waits while the mailbox and
the inbound queue are full; else the value stands in an empty mailbox, behind it in the queue, or with the thread that waits for it. Inside
the module the sender wakes at once, its answer counted in bank 63 (R358); from another module a reply travels. -/
def FirnSend : Prop :=
  ∀ (i : Nat) (s : State) (p : Packet), s.arriving i = some p → p.kind = 4 → s.present.contains p.dest = true →
    let g := p.addr
    let c := s.core g
    let v := BitVec.ofNat 64 (p.operand 0)
    let allowed := s.mailAllowed g p.ctx
    let local_ := p.from_ = p.dest
    let waits := (s.thr p.thread).wait = .send ∧ (s.thr p.thread).live = true ∧ p.held = false
    let placed (t : State) : Prop := s.receiver g p.aux = none → c.present.getLsbD p.aux = false → (∀ q ∈ c.inbound, q.1 ≠ p.aux) → p.aux < 32 →
      SMap.getD (t.core g).mail p.aux 0 = v ∧ (t.core g).present = c.present ||| (1#32 <<< p.aux) ∧
      (∀ k, k ≠ p.aux → SMap.getD (t.core g).mail k 0 = SMap.getD c.mail k 0) ∧ (t.core g).inbound = c.inbound
    let queued (t : State) : Prop := s.receiver g p.aux = none → c.present.getLsbD p.aux = true →
      { t.core g with dbg := c.dbg } = { c with inbound := c.inbound ++ [(p.aux, v)] }
    (p.gate = true → p.held = false → s.releaseStatus p.thread true = .wait → (local_ → Does (.mailboxArrival i) s fun t => t = s) ∧
      (¬ local_ → Does (.firnSend i) s fun t => t = s)) ∧
    ((p.gate = true → p.held = false → s.releaseStatus p.thread true = .go) →
    (local_ → allowed = true → s.mailRoom g p.aux = false → Does (.mailboxArrival i) s fun t => t = s) ∧
    (¬ local_ → allowed = true → s.mailRoom g p.aux = false → Does (.firnSend i) s fun t => t = s) ∧
    (local_ → allowed = true → s.mailRoom g p.aux = true → waits → s.receiver g p.aux = none → Does (.mailboxArrival i) s fun t =>
      placed t ∧ queued t ∧ Completed none_ 0 (s.thr p.thread) (t.thr p.thread) ∧ (∀ k, k ≠ p.thread → t.thr k = s.thr k) ∧
      t.net = s.net.eraseIdx i ∧ (∀ h, h ≠ g → { t.core h with dbg := (s.core h).dbg } = s.core h) ∧ SameBytes s t) ∧
    (local_ → allowed = false → waits → (s.thr p.thread).run.active = false → (s.thr p.thread).run.ordered = false →
      Does (.mailboxArrival i) s (Trapped p.thread causeREMOTE (BitVec.ofNat 64 p.addr) (s.thr p.thread).pc
        ({ s with net := s.net.eraseIdx i }.respond p.thread 63))) ∧
    (¬ local_ → allowed = true → s.mailRoom g p.aux = true → s.receiver g p.aux = none → Does (.firnSend i) s fun t =>
      placed t ∧ queued t ∧ Answered i p 13 0 [] s t ∧ t.threads = s.threads ∧ (∀ h, h ≠ g → t.core h = s.core h) ∧ SameBytes s t) ∧
    (¬ local_ → allowed = false → Does (.firnSend i) s fun t => Answered i p 13 causeREMOTE [] s t ∧ { t with net := s.net } = s))

/-- Each packet of the collectives, where it arrives at a switch that serves it, has its effect (R248 to R250, R334, R336, R337, R340, R341,
R343): a tag's port is set, an object installed, a contribution or a report kept, a phase released, a waiting contribution taken back, and the
thread, the operation or the module that asked is answered. -/
def CollectivePackets : Prop :=
  ∀ (i : Nat) (s : State) (p : Packet), s.arriving i = some p → s.toDead p = false → s.toLost p = false →
    let sw := p.from_ / 72 * 16 + p.addr % 16
    let o := SMap.getD (s.switch sw).objects p.addr {}
    let d := o.desc.toNat
    let th := s.thr p.thread
    let cl := threadCluster p.thread
    let object (t : State) : FabricObj := SMap.getD (t.switch sw).objects p.addr {}
    let rest := s.net.eraseIdx i
    (p.kind = 8 → threadModule p.thread = p.from_ → Does (.firnJoin i) s fun t =>
      Answered i p 13 0 [] s t ∧ p.from_ % 72 ∈ SMap.getD (t.switch sw).tags p.addr []) ∧
    (p.kind = 9 → threadModule p.thread = p.from_ → Does (.firnLeave i) s (Answered i p 13 0 [] s)) ∧
    (p.kind = 10 → p.sw = sw → o.busy = false → Does (.firnFcfg i) s fun t =>
      t.net = rest ∧ (t.module p.from_).fcol = none ∧ (t.module p.from_).fcolCode = 0 ∧
      (colKind (leNat (p.payload.take 64)) ≠ 0 → object t = { desc := BitVec.ofNat 512 (leNat (p.payload.take 64)) })) ∧
    (p.kind = 11 → Does (.firnFbpoll i) s fun t => ∃ v, Answered i p 13 0 (leBytes 8 v) s t) ∧
    (p.kind = 15 → p.sw = sw → colKind d = 1 → colCtx d = p.ctx → (colPmask d).testBit (p.from_ % 72) = true → p.opc = colOp d →
      p.aux + 1 = colNreg d → (∀ x ∈ o.stored, x.module ≠ p.from_) →
      (∃ k, k < 72 ∧ (colPmask d).testBit k = true ∧ k ≠ p.from_ % 72 ∧ ∀ x ∈ o.stored, x.module % 72 ≠ k) → Does (.firnFcontrib i) s fun t =>
        ∃ x q, (object t).stored = o.stored ++ [x] ∧ x.module = p.from_ ∧ x.thread = p.thread ∧ t.net = rest ++ [q] ∧ q.kind = 16 ∧ q.aux = 1) ∧
    (p.kind = 16 → th.live = true → th.wait = .fred p.addr → p.status = 0 → p.aux = 1 → Does (.firnFrack i) s fun t =>
      Completed none_ 0 th (t.thr p.thread) ∧ t.net = rest) ∧
    (p.kind = 17 → p.sw = sw → (∃ k, k < 72 ∧ (colPmask d).testBit k = true ∧ k ≠ p.from_ % 72 ∧ ∀ m ∈ o.reported, m % 72 ≠ k) →
      Does (.firnFbarr i) s fun t => object t = { o with reported := o.reported ++ [p.from_] } ∧ t.net = rest) ∧
    (p.kind = 18 → p.sw = sw → (∃ x ∈ o.waiting, x.module = p.from_ ∧ x.thread = p.thread) → Does (.firnFwdraw i) s fun t =>
      ∀ x ∈ (object t).waiting, ¬(x.module = p.from_ ∧ x.thread = p.thread)) ∧
    (p.kind = 19 → ∀ x r, s.subscribers p.addr (s.tagModules (p.from_ / 72) p.addr) = [x] → s.receive p x = .ok r → Does (.firnMcdata i) s fun t =>
      (p.last = false → t = { r with net := r.net.eraseIdx i }) ∧ (p.last = true → Answered i p 22 0 [] r t)) ∧
    (p.kind = 20 → ∀ x r, s.subscribers p.addr (s.tagModules (p.sw / 16) p.addr) = [x] → s.receive p x = .ok r →
      Does (.firnMcresult i) s fun t => t = { r with net := r.net.eraseIdx i }) ∧
    (p.kind = 21 → Does (.firnFbrel i) s fun t =>
      (t.hubBarrier p.dest p.addr).released = (s.hubBarrier p.dest p.addr).released + 1 ∧ t.net = rest) ∧
    (p.kind = 22 → ∀ o, (s.cluster cl).copies = [o] → o.sent = true → o.thread = p.thread → o.tag = p.addr → Does (.firnMcack i) s fun t =>
      (t.cluster cl).copies = [] ∧ Counted o.sel o.cnt o.cause s t ∧ t.net = rest)

/-- A write of FCOLCFG that names a descriptor which passes the checks of R335, on a switch that the hub does not hold for failed, sends it
there (R334). -/
def CollectiveIsAsked : Prop :=
  ∀ (m : Nat) (v : BitVec 64) (s : State),
    let pa := v.toNat
    let d := s.num (locOf m pa) 64
    (s.module m).fcol = none → pa % 64 = 0 → pa < 2 ^ 52 → inHbm pa = true → colOk d = true →
    (s.module m).failed.contains (m / 72 * 16 + colObj d % 16) = false → Does (.fcolcfg m v) s fun t =>
      (t.module m).fcol = some v ∧ ∃ p, t.net = s.net ++ [p] ∧ p.kind = 10 ∧ p.payload = leBytes 64 d

end Claim

/-- Fabric instructions at their issue, and the packets of the collectives: `Claim.FabricRequests`, `Claim.FabricBarrierArrives`,
`Claim.FabricInTransaction`, `Claim.FirnSend`, `Claim.CollectivePackets`, `Claim.CollectiveIsAsked`. -/
def Obligations.FabricInstructions : Prop :=
  Claim.FabricRequests ∧ Claim.FabricBarrierArrives ∧ Claim.FabricInTransaction ∧ Claim.FirnSend ∧ Claim.CollectivePackets ∧
  Claim.CollectiveIsAsked

namespace Claim

/-- FIRN_SWFAIL: a second declaration of a switch at a module changes nothing; the first gives the switch no page to serve, the pages that
have no other copy are LOST, the module's hub holds it for failed, and its threads that are parked on an object of the switch raise
MORAINE_LOST (R333, R342). SWITCH_REPLACEMENT: the switch is live at every hub, with no page, object or tag (R333). That it keeps the quotas, and
the entries of its LOST pages in the budgets, is the model's reading (DEDUCED, log 47). -/
def SwitchFailure : Prop :=
  ∀ (m sw : Nat) (s : State),
    let w := s.switch sw
    ((s.module m).failed.contains sw = true → Does (.firnSwfail m sw) s fun t => t = s) ∧
    ((s.module m).failed.contains sw = false → w.failed = false → Does (.firnSwfail m sw) s fun t =>
      (t.switch sw).failed = true ∧ (t.switch sw).pages = [] ∧ (t.module m).failed.contains sw = true ∧
      (∀ k, k ≠ m → (t.module k).failed = (s.module k).failed) ∧ SameBytes s t) ∧
    ((s.module m).failed.contains sw = false → w.failed = false → w.pages.Ok → ∀ key x, SMap.get? w.pages key = some x → x.primary = sw →
      (∀ k, k ≠ sw → k / 16 = sw / 16 → SMap.get? (s.switch k).pages key = none) → Does (.firnSwfail m sw) s fun t =>
        SMap.get? (t.switch sw).lost key = some { x with lostAt := some sw }) ∧
    ((s.module m).failed.contains sw = false → w.failed = true → s.threads.Ok →
      (∀ u, (s.thr u).run.active = false ∧ (s.thr u).run.ordered = false) → ∀ v n, (s.thr v).live = true → threadModule v = m →
      (s.thr v).wait = .fred n → m / 72 * 16 + n % 16 = sw →
      Does (.firnSwfail m sw) s fun t => (t.thr v).wait = .trapped ∧ ∃ r ∈ t.records, r.handle = threadHandle v ∧ r.cause = causeLOST ∧
        r.tval = BitVec.ofNat 64 n) ∧
    Does (.switchReplacement sw) s (fun t =>
      (∀ key, SMap.get? (t.switch sw).lost key = (SMap.get? w.lost key).map fun x => { x with lostAt := none }) ∧
      { t.switch sw with lost := [] } = { quota := w.quota } ∧ (∀ k, k ≠ sw → { t.switch k with lost := (s.switch k).lost } = s.switch k ∧
        ∀ key, SMap.get? (t.switch k).lost key = (SMap.get? (s.switch k).lost key).map fun x =>
          if x.lostAt = some sw then { x with lostAt := none } else x) ∧
      (∀ k, (t.module k).failed = (s.module k).failed.filter (· ≠ sw)) ∧ t.threads = s.threads ∧ t.net = s.net ∧ SameBytes s t)

end Claim

/-- Replies, and the failure of a switch: `Claim.FirnReplies`, `Claim.SwitchFailure`. -/
def Obligations.FirnRepliesAndFailures : Prop := Claim.FirnReplies ∧ Claim.SwitchFailure

/-! ### System instructions and special registers (chapters 04, 08, 21) -/

namespace Claim

/-- The thread b is the thread a with its instruction complete and no result: the PC moved on and the instruction counts. -/
def Retired (a b : Thread) : Prop := b = { a with pc := a.pc + 4, insn := a.insn + 1, wait := .ready }

/-- The issuing thread became `a` and completed its instruction; nothing else changed. -/
def Became (a : Thread) (s t : State) : Prop := OnlyThread s.cur s t ∧ Retired a (t.thr s.cur)

/-- The state in which the issuing thread has completed its instruction and nothing else is changed. -/
def retired (s : State) : State := s.setMe { s.me with pc := s.me.pc + 4, insn := s.me.insn + 1, wait := .ready }

/-- CSRR and CSRW of the user CSRs, in either mode: FFLAGS and XCLIP as 5 and 9 bits, RUNST as R271 lays it out, the generators in pairs, and
zero from TRES (R290, R291, R271, R192). -/
def UserCsrs : Prop :=
  ∀ (d a : BitVec 6) (s : State),
    let v := s.sr a
    let th := s.me
    Does (.csrr d 0x001) s (Wrote (one d (th.fflags.setWidth 64)) 0 s) ∧
    Does (.csrr d 0x002) s (Wrote (one d (th.xclip.setWidth 64)) 0 s) ∧
    Does (.csrr d 0x003) s (Wrote (one d 0) 0 s) ∧
    Does (.csrr d 0x004) s (Wrote (one d (BitVec.ofNat 64
      (th.cause + th.confl * 2 ^ 12 + (if th.irrev then 2 ^ 18 else 0) + th.depth * 2 ^ 19 + th.code * 2 ^ 56))) 0 s) ∧
    Does (.csrw a 0x001) s (Became { th with fflags := v.setWidth 5 } s) ∧
    Does (.csrw a 0x002) s (Became { th with xclip := v.setWidth 9 } s) ∧
    ∀ j < 16,
      Does (.csrr d (BitVec.ofNat 12 (16 + j))) s (Wrote (one d (th.gen (2 * j + 1) ++ th.gen (2 * j))) 0 s) ∧
      Does (.csrw a (BitVec.ofNat 12 (16 + j))) s fun t =>
        OnlyThread s.cur s t ∧ Retired th { t.thr s.cur with gens := th.gens } ∧
        (t.thr s.cur).gen (2 * j) = v.setWidth 32 ∧ (t.thr s.cur).gen (2 * j + 1) = (v >>> 32).setWidth 32 ∧
        ∀ k < 32, k ≠ 2 * j → k ≠ 2 * j + 1 → (t.thr s.cur).gen k = th.gen k

/-- CSRR and CSRW of the supervisor CSRs without a further effect, in supervisor mode: each reads back what it holds, the registers of the
TSEL record read zero and ignore writes while TSEL names no pending record of the cluster, and PRECTL reads zero (R290, R293). That TSEL
keeps every bit written, and that TXIDX, CCTX, CLTAB and PREIMG keep the bits the tables give them, is the model's reading. -/
def SupervisorCsrs : Prop :=
  ∀ (d a : BitVec 6) (s : State), s.supervisor s.cur = true →
    let v := s.sr a
    let th := s.me
    let cl := threadCluster s.cur
    let k := s.cluster cl
    (∀ p ∈ [(0x801#12, th.tsel), (0x810#12, 0), (0x812#12, k.preimg), (0x820#12, th.cctx), (0x821#12, th.cltab),
      (0x822#12, th.chbase), (0x823#12, th.chlimit), (0x824#12, th.choff),
      (0x811#12, BitVec.ofNat 64 (k.preCode + if k.preBusy then 2 ^ 63 else 0))],
      Does (.csrr d p.1) s (Wrote (one d p.2) 0 s)) ∧
    (∀ p ∈ [(0x801#12, { th with tsel := v }), (0x820#12, { th with cctx := v &&& 0x1FFFFFF }),
      (0x821#12, { th with cltab := v &&& ~~~0x3FFF }), (0x822#12, { th with chbase := v }), (0x823#12, { th with chlimit := v }),
      (0x824#12, { th with choff := v })],
      Does (.csrw a p.1) s (Became p.2 s)) ∧
    Does (.csrw a 0x812) s (fun t =>
      OnlyThreadAndCluster s.cur cl s t ∧ Retired th (t.thr s.cur) ∧
      t.cluster cl = { k with preimg := v &&& 0x000FFFFFFFFFF000 }) ∧
    (s.tselRecord s.cur = none → ∀ n ∈ [0x802#12, 0x803#12, 0x804#12, 0x805#12, 0x806#12, 0x808#12, 0x809#12, 0x80A#12, 0x80B#12],
      Does (.csrr d n) s (Wrote (one d 0) 0 s) ∧ Does (.csrw a 0x804) s (Became th s) ∧ Does (.csrw a 0x806) s (Became th s)) ∧
    ∀ r, s.tselRecord s.cur = some r →
      (∀ p ∈ [(0x802#12, BitVec.ofNat 64 r.cause), (0x803#12, r.tpc), (0x804#12, r.tnpc), (0x805#12, r.tval), (0x806#12, th.txidx),
        (0x808#12, r.opens.setWidth 64), (0x809#12, (r.opens >>> 64).setWidth 64), (0x80A#12, (r.opens >>> 128).setWidth 64),
        (0x80B#12, (r.opens >>> 192).setWidth 64)],
        Does (.csrr d p.1) s (Wrote (one d p.2) 0 s)) ∧
      Does (.csrw a 0x806) s (Became { th with txidx := v &&& 0xFFFFFF } s) ∧
      Does (.csrw a 0x804) s fun t =>
        Retired th (t.thr s.cur) ∧ (∀ u, u ≠ s.cur → t.thr u = s.thr u) ∧
        t.records = s.records.map (fun x => if x.handle = r.handle then { x with tnpc := v } else x) ∧
        { t with threads := s.threads, records := s.records } = s ∧ SameBytes s t

/-- A supervisor instruction in user mode raises PRIV with its word, inside a run too (R68 step 6, R70, R263); outside a run the thread is
trapped and nothing else changes. TQ and TXDATA are accesses to their CSRs. -/
def PrivilegeTraps : Prop :=
  ∀ (d a b : BitVec 6) (n : BitVec 12) (wr : Bool) (s : State), s.supervisor s.cur = false →
    let Denied (i : Instr) (t : State) : Prop :=
      t = s.trap causePRIV ((encode i).setWidth 64) ∧ (NoRun s → Trapped s.cur causePRIV ((encode i).setWidth 64) s.me.pc s t)
    (∀ i ∈ [Instr.tret, .wfi, .tlbinv a b], Does i s (Denied i)) ∧
    (0x800#12 ≤ n → ∀ i ∈ [Instr.csrr d n, .csrw a n], Does i s (Denied i)) ∧
    Does (.tq d) s (Denied (.csrr d 0x800)) ∧
    Does (.txdata wr a) s (Denied (if wr then .csrw a 0x807 else .csrr a 0x807))

/-- A compute-core thread runs in user mode, and on a CCC every instruction of the major opcodes 0x15, 0x19, 0x1A, 0x1B, 0x50 to 0x54 and 0x69
raises ILLEGAL with its word (R68 step 5, R70, R14). -/
def ComputeCoreOnly : Prop :=
  ∀ (d a b : BitVec 6) (e : BitVec 5) (f g : BitVec 2) (z u : BitVec 1) (l : BitVec 8) (i : BitVec 13) (s : State),
    (isCcc s.cur = false → s.supervisor s.cur = false) ∧
    (isCcc s.cur = true →
      ∀ x ∈ [Instr.tend, .yield, .dqpush a, .dqpop d, .dqsplit d a, .dqsteal d, .dqcount d, .sclose, .sdrop a, .sdepth d, .sopen i,
        .mma e a b f z u, .acczero e, .accld e a, .accst e a, .acccvt e a f, .fmtw d a, .fmtr d a, .nbmv d l a f g, .termrd d a, .termclr a,
        .mrecv d a, .mpoll d],
        (encode x).toNat % 128 ∈ [0x15, 0x19, 0x1A, 0x1B, 0x50, 0x51, 0x52, 0x53, 0x54, 0x69] ∧
        Does x s fun t => t = s.trap causeILLEGAL ((encode x).setWidth 64) ∧
          (NoRun s → Trapped s.cur causeILLEGAL ((encode x).setWidth 64) s.me.pc s t))

end Claim

/-- What user mode and a CCC may not execute: `Claim.PrivilegeTraps`, `Claim.ComputeCoreOnly`. -/
def Obligations.ModesAndUnits : Prop := Claim.PrivilegeTraps ∧ Claim.ComputeCoreOnly

namespace Claim

/-- The all-zero word, ECALL and EBREAK take their exceptions, and after ECALL RESUME continues at PC + 4; EBREAK on a compute core whose
debug module is enabled stops the core instead, and the thread's instruction is complete; an explicit transaction aborts with FAULT and BREAK
first (R71, R263, R277, R287, R347). -/
def TrapInstructions : Prop :=
  ∀ (s : State),
    let g := threadCore s.cur
    (NoRun s → Does .illegal s (Trapped s.cur causeILLEGAL 0 s.me.pc s)) ∧
    (NoRun s → Does .ecall s (Trapped s.cur causeECALL 0 (s.me.pc + 4) s)) ∧
    (NoRun s → isCcc s.cur = true ∨ (s.core g).dbg.en = false → Does .ebreak s (Trapped s.cur causeBREAK 0 s.me.pc s)) ∧
    (InTransaction s → isCcc s.cur = false → (s.core g).dbg.en = true → (s.core g).dbg.stopped = false → Does .ebreak s fun t =>
      (t.core g).dbg.stopped = true ∧ (t.core g).dbg.cause = 2 ∧ (t.core g).dbg.slot = threadSlot s.cur ∧ (t.thr s.cur).pc = s.me.fallback ∧
      (t.thr s.cur).run = {} ∧ (t.thr s.cur).depth = 0 ∧ (t.thr s.cur).wait = .ready ∧ (t.thr s.cur).cause = abortFAULT ∧
      (t.thr s.cur).code = causeBREAK ∧ (∀ v, v ≠ s.cur → t.thr v = s.thr v) ∧ SameBytes s t) ∧
    (NoRun s → isCcc s.cur = false → (s.core g).dbg.en = true → (s.core g).dbg.stopped = false → Does .ebreak s fun t =>
      let b := (t.core g).dbg
      OnlyThreadAndCore s.cur g s t ∧ Retired s.me (t.thr s.cur) ∧ { t.core g with dbg := (s.core g).dbg } = s.core g ∧
      b.stopped = true ∧ b.cause = 2 ∧ b.slot = threadSlot s.cur ∧ b.index = 0 ∧ b.en = true)

/-- RDTIME, RDCYCLE and RDINSN (R288, R20): the package timebase, the cycles of the core's die, and the instructions that the thread had
completed before this one. -/
def CounterReads : Prop :=
  ∀ (d : BitVec 6) (s : State),
    let x := s.die (threadDie s.cur)
    Does (.rdtime d) s (Wrote (one d (BitVec.ofNat 64 (s.time / tickUnits))) 0 s) ∧
    Does (.rdinsn d) s (Wrote (one d s.me.insn) 0 s) ∧
    Does (.rdcycle d) s (Wrote (one d (BitVec.ofNat 64
      (if x.halted then x.cycles else x.cycles + (s.time - x.since) / cycleUnits x.vf))) 0 s)

end Claim

/-- ILLEGAL, ECALL, EBREAK and the counter reads: `Claim.TrapInstructions`, `Claim.CounterReads`. -/
def Obligations.TrapInstructionsAndCounters : Prop := Claim.TrapInstructions ∧ Claim.CounterReads

namespace Claim

/-- TQ, and CSRR of TQ, in supervisor mode: the handle of the oldest record of the cluster's trap queue that was not read is returned and the
record is marked read; zero is returned where none remains (R290). -/
def TrapQueueReads : Prop :=
  ∀ (d : BitVec 6) (s : State), s.supervisor s.cur = true →
    let cl := threadCluster s.cur
    ∀ i ∈ [Instr.tq d, .csrr d 0x800],
      ((∀ r ∈ s.records, ¬(r.place = .queue false ∧ handleId r.handle / 8 = cl)) → Does i s (Wrote (one d 0) 0 s)) ∧
      ∀ p r q, s.records = p ++ r :: q → (∀ x ∈ p, ¬(x.place = .queue false ∧ handleId x.handle / 8 = cl)) →
        r.place = .queue false → handleId r.handle / 8 = cl → (∀ x ∈ p ++ q, x.handle ≠ r.handle) →
        Does i s fun t =>
          t.records = p ++ { r with place := .queue true } :: q ∧ Completed (one d r.handle) 0 s.me (t.thr s.cur) ∧
          (∀ u, u ≠ s.cur → t.thr u = s.thr u) ∧
          { t with threads := s.threads, records := s.records } = s ∧ SameBytes s t

/-- TXDATA, and CSRR and CSRW of it, in supervisor mode, where TSEL names a record of kind 1 of another thread and no lock or uncorrectable word
stands in the way: each class that TXIDX selects reads and writes the state of that thread, writes of s0 and p0 are discarded, and any
other selection, and a TSEL that names no such record, raise ILLEGAL (R292). That a write of TRES or RUNST there changes nothing is the model's reading
(DEDUCED, log 58). -/
def SelectedState : Prop :=
  ∀ (a : BitVec 6) (s : State), s.supervisor s.cur = true →
    let v := s.sr a
    let c := s.me.txidx.toNat / 2 ^ 20 % 16
    let k := s.me.txidx.toNat % 2 ^ 20
    (NoRun s → (s.tselRecord s.cur).all (fun r => decide (handleKind r.handle ≠ 1)) = true → ∀ i ∈ [Instr.txdata false a, .csrr a 0x807],
      Does i s (Trapped s.cur causeILLEGAL ((encode (.csrr a 0x807)).setWidth 64) s.me.pc s)) ∧
    (NoRun s → (s.tselRecord s.cur).all (fun r => decide (handleKind r.handle ≠ 1)) = true → ∀ i ∈ [Instr.txdata true a, .csrw a 0x807],
      Does i s (Trapped s.cur causeILLEGAL ((encode (.csrw a 0x807)).setWidth 64) s.me.pc s)) ∧
    ∀ r, s.tselRecord s.cur = some r →
      let u := handleThread r.handle
      handleKind r.handle = 1 → u ≠ s.cur → (s.core (threadCore u)).locks = [] → s.badRegs = [] → s.badAccs = [] →
      let th := s.thr u
      let g := threadCore u
      let word (i : Instr) : Word := (encode i).setWidth 64
      (∀ i ∈ [Instr.txdata false a, .csrr a 0x807],
        (NoRun s → 6 ≤ c ∨ (c = 0 ∧ 64 ≤ k) ∨ (c = 1 ∧ 8 ≤ k) ∨ (c = 2 ∧ 4 ≤ k) ∨ (c = 3 ∧ 32 * winSize u th ≤ k) ∨
          (c = 4 ∧ 256 * th.tiles.length ≤ k) ∨ (c = 5 ∧ isUserCsr k = false) →
          Does i s (Trapped s.cur causeILLEGAL (word (.csrr a 0x807)) s.me.pc s)) ∧
        (c = 0 → k < 64 → Does i s (Wrote (one a (th.s k)) 0 s)) ∧
        (c = 1 → k < 8 → Does i s (Wrote (one a ((th.p k).setWidth 64)) 0 s)) ∧
        (c = 2 → k < 4 → Does i s (Wrote (one a (th.fmtRead (winStart u th) k)) 0 s)) ∧
        (c = 3 → k < 32 * winSize u th → Does i s (Wrote (one a ((lane (s.vecAt u (k / 32)) (k % 32)).setWidth 64)) 0 s)) ∧
        (c = 4 → k < 256 * th.tiles.length → Does i s (Wrote (one a ((elemOf (s.tileAt g (th.tile (k / 256))) (k % 256)).setWidth 64)) 0 s)) ∧
        (c = 5 → isUserCsr k = true → Does i s (Wrote (one a (th.userCsr k)) 0 s))) ∧
      ∀ i ∈ [Instr.txdata true a, .csrw a 0x807],
        (NoRun s → 6 ≤ c ∨ (c = 0 ∧ 64 ≤ k) ∨ (c = 1 ∧ 8 ≤ k) ∨ (c = 2 ∧ 4 ≤ k) ∨ (c = 3 ∧ 32 * winSize u th ≤ k) ∨
          (c = 4 ∧ 256 * th.tiles.length ≤ k) ∨ (c = 5 ∧ isUserCsr k = false) →
          Does i s (Trapped s.cur causeILLEGAL (word (.csrw a 0x807)) s.me.pc s)) ∧
        let Changed (f : Thread → Prop) (t : State) : Prop :=
          f (t.thr u) ∧ Retired s.me (t.thr s.cur) ∧ (∀ w, w ≠ u → w ≠ s.cur → t.thr w = s.thr w) ∧
          { t with threads := s.threads } = s ∧ SameBytes s t
        (c = 0 → k < 64 → Does i s (Changed fun x =>
          x.s 0 = 0 ∧ (∀ n, n ≠ 0 → x.s n = if n = k then v else th.s n) ∧ { x with sreg := th.sreg } = th)) ∧
        (c = 1 → k < 8 → Does i s (Changed fun x =>
          x.p 0 = BitVec.allOnes 32 ∧ (∀ n, n ≠ 0 → x.p n = if n = k then v.setWidth 32 else th.p n) ∧ { x with preg := th.preg } = th)) ∧
        (c = 2 → k < 4 → Does i s (Changed fun x =>
          x.fmtRead (winStart u th) k = v &&& 0xFFFFFF7FFF ∧ (∀ n, n ≠ k → x.fmtRead (winStart u th) n = th.fmtRead (winStart u th) n) ∧
          { x with fmt := th.fmt } = th)) ∧
        (c = 5 → k = 1 → Does i s (Changed fun x => x = { th with fflags := v.setWidth 5 })) ∧
        (c = 5 → k = 2 → Does i s (Changed fun x => x = { th with xclip := v.setWidth 9 })) ∧
        (c = 5 → k = 3 ∨ k = 4 → Does i s (Changed fun x => x = th)) ∧
        (c = 3 → k < 32 * winSize u th → Does i s fun t =>
          (∀ n, lane (t.vecAt u (k / 32)) n = if n = k % 32 then v.setWidth 32 else lane (s.vecAt u (k / 32)) n) ∧
          (∀ n, n ≠ s.phys u (k / 32) → SMap.getD (t.core g).store n 0 = SMap.getD (s.core g).store n 0) ∧
          { t.core g with store := (s.core g).store, dirty := (s.core g).dirty } = s.core g ∧
          (∀ h, h ≠ g → t.core h = s.core h) ∧ Retired s.me (t.thr s.cur) ∧ (∀ w, w ≠ u → w ≠ s.cur → t.thr w = s.thr w) ∧
          { t.thr u with run := (s.thr u).run } = s.thr u ∧
          { t with threads := s.threads, cores := s.cores } = s ∧ SameBytes s t) ∧
        (c = 4 → k < 256 * th.tiles.length → Does i s fun t =>
          let q := th.tile (k / 256)
          (∀ e < 256, elemOf (t.tileAt g q) e = if e = k % 256 then v.setWidth 32 else elemOf (s.tileAt g q) e) ∧
          (∀ n, n ≠ q → t.tileAt g n = s.tileAt g n) ∧ { t.core g with accs := (s.core g).accs } = s.core g ∧
          (∀ h, h ≠ g → t.core h = s.core h) ∧ Retired s.me (t.thr s.cur) ∧ (∀ w, w ≠ u → w ≠ s.cur → t.thr w = s.thr w) ∧
          { t.thr u with run := (s.thr u).run } = s.thr u ∧
          { t with threads := s.threads, cores := s.cores } = s ∧ SameBytes s t)

end Claim

/-- TXDATA reads and writes the state of the trapped thread: `Claim.SelectedState`. -/
def Obligations.SelectedState : Prop := Claim.SelectedState

namespace Claim

/-- The checks of a write of TRES, in the order of R283: a handle that names nothing, FORWARD in user mode, another module, and, in user
mode, a record of a region that the executing region does not reach. -/
def ResolutionChecks : Prop :=
  ∀ (a : BitVec 6) (s : State), NoRun s →
    let v := s.sr a
    let x := v.toNat
    let kind := x / 2 ^ 60
    let word : Word := (encode (.csrw a 0x003)).setWidth 64
    let nothing := kind = 0 ∨ 6 ≤ kind ∨ 2 ≤ x / 2 ^ 24 % 4 ∨ (kind ≤ 4 ∧ x / 4 % 2 ^ 22 ≠ 0)
    let denied := x % 4 = 3 ∧ s.supervisor s.cur = false
    (nothing → Does (.csrw a 0x003) s (Trapped s.cur causeILLEGAL word s.me.pc s)) ∧
    (¬nothing → denied → Does (.csrw a 0x003) s (Trapped s.cur causePRIV word s.me.pc s)) ∧
    (¬nothing → ¬denied → x / 2 ^ 50 % 2 ^ 10 ≠ threadModule s.cur →
      Does (.csrw a 0x003) s (Trapped s.cur causeREMOTE v s.me.pc s)) ∧
    (¬nothing → ¬denied → x / 2 ^ 50 % 2 ^ 10 = threadModule s.cur → s.supervisor s.cur = false →
      ∀ r, s.findRecord (v &&& ~~~3#64) = some r → s.mayReach s.cur r.region = false →
      Does (.csrw a 0x003) s (Trapped s.cur causeREMOTE v s.me.pc s))

/-- A write of TRES that passes its checks, and TRET, complete as an instruction that is a release and resolve the record as the step of
that action does; a handle that names no pending record is ignored, and TRET is denied a record of another module (R283, R287). -/
def ResolutionWrites : Prop :=
  ∀ (a : BitVec 6) (s : State), NoRun s → Settled s →
    let v := s.sr a
    let x := v.toNat
    let kind := x / 2 ^ 60
    let h := v &&& ~~~3#64
    let passes := 1 ≤ kind ∧ kind ≤ 5 ∧ x / 2 ^ 24 % 4 < 2 ∧ (kind ≤ 4 → x / 4 % 2 ^ 22 = 0) ∧
      (x % 4 = 3 → s.supervisor s.cur = true) ∧ x / 2 ^ 50 % 2 ^ 10 = threadModule s.cur
    (passes → s.findRecord h = none → Does (.csrw a 0x003) s (Became s.me s)) ∧
    (∀ r, s.findRecord h = some r → passes → s.supervisor s.cur = true ∨ s.mayReach s.cur r.region = true →
      (x % 4 = 0 → Does (.csrw a 0x003) s fun t => Does (.tresResume h) (retired s) fun u => t = u) ∧
      (x % 4 = 1 → Does (.csrw a 0x003) s fun t => Does (.tresSkip h) (retired s) fun u => t = u) ∧
      (x % 4 = 2 → Does (.csrw a 0x003) s fun t => Does (.tresDiscard h) (retired s) fun u => t = u) ∧
      (x % 4 = 3 → Does (.csrw a 0x003) s fun t => Does (.tresForward h) (retired s) fun u => t = u)) ∧
    (s.supervisor s.cur = true → s.findRecord s.me.tsel = none → Does .tret s (Became s.me s)) ∧
    (s.supervisor s.cur = true → ∀ r, s.findRecord s.me.tsel = some r →
      (handleId s.me.tsel / 1024 = threadModule s.cur → Does .tret s fun t => Does (.tresResume s.me.tsel) (retired s) fun u => t = u) ∧
      (handleId s.me.tsel / 1024 ≠ threadModule s.cur → Does .tret s (Trapped s.cur causeREMOTE s.me.tsel s.me.pc s)))

end Claim

/-- TRES and TRET: checks in order, and the resolution: `Claim.ResolutionChecks`, `Claim.ResolutionWrites`. -/
def Obligations.TrapResolution : Prop := Claim.ResolutionChecks ∧ Claim.ResolutionWrites

namespace Claim

/-- The thread of a kind-1 record goes on at a PC: its record is gone, its assist's tile is unlocked, and where it issues its instruction
`again` the watch entries that trapped it let it pass once (R283, R286, R352). -/
def Resumes (r : Record) (pc : Word) (again : Bool) (s t : State) : Prop :=
  let u := handleThread r.handle
  let th := s.thr u
  t.records = s.records.filter (fun x => x.handle ≠ r.handle) ∧
  t.thr u = { th with
    pc := pc, wait := .ready, nextPc := none
    passWatch := if again = true ∧ r.cause = causeWATCH then some r.tpc else th.passWatch } ∧
  (∀ v, v ≠ u → t.thr v = s.thr v) ∧
  (∀ g, r.cause ≠ causeASSIST ∨ g ≠ threadCore u → t.core g = s.core g) ∧
  (r.cause = causeASSIST → { t.core (threadCore u) with unlocked := (s.core (threadCore u)).unlocked } =
    { s.core (threadCore u) with locks := (s.core (threadCore u)).locks.filter (· ≠ r.tile) }) ∧
  { t with threads := s.threads, cores := s.cores, records := s.records } = s ∧ SameBytes s t

/-- The task in a descriptor slot is aborted: the slot is free, its thread has left its own, and no other task, other thread, region or byte
of memory is changed (R36, R283). -/
def TaskGone (cl n : Nat) (h : BitVec 64) (s t : State) : Prop :=
  SMap.has (t.cluster cl).tasks n = false ∧ (∀ c k, (c, k) ≠ (cl, n) → t.task c k = s.task c k) ∧
  ((s.task cl n).state = .dispatched → (t.thr (s.task cl n).thread).live = false) ∧
  (∀ v, v ≠ (s.task cl n).thread → t.thr v = s.thr v) ∧ t.findRecord h = none ∧ t.modules = s.modules ∧ SameBytes s t

/-- The resolution of a record by each action, for each kind (R283): a thread resumes at TNPC or at TPC + 4 or its task is aborted; a side
log retries or drops its head entry, and the thread of a release store that is dropped goes on; staging restarts, an ordered task may be dispatched, or the task is aborted; a report is retired; and
FORWARD moves a record of a trap queue to the chain of its region, and one that a handler holds to the parent of its handling region; that it does
nothing to a record that is not delivered yet, or is on its way up the chain, is the model's reading (DEDUCED, log 36). A handle that names no pending
record changes nothing. -/
def Resolutions : Prop :=
  ∀ (h : BitVec 64) (s : State),
    let kind := handleKind h
    let g := handleId h
    let cl := handleId h / 8
    let n := handleDslot h
    let u := handleThread h
    let gone := s.records.filter fun x => x.handle ≠ h
    (s.findRecord h = none → ∀ i ∈ [Instr.tresResume h, .tresSkip h, .tresDiscard h, .tresForward h], Does i s fun t => t = s) ∧
    ∀ r, s.findRecord h = some r →
      (kind = 1 → Does (.tresResume h) s (Resumes r r.tnpc true s) ∧ Does (.tresSkip h) s (Resumes r (r.tpc + 4) false s)) ∧
      (kind = 1 → isCcc u = true → Does (.tresDiscard h) s fun t =>
        t.records = gone ∧ (t.thr u).live = false ∧ (∀ v, v ≠ u → t.thr v = s.thr v) ∧ SameBytes s t) ∧
      (kind = 1 → isCcc u = false → (s.task (s.thr u).slice (s.thr u).dslot).state = .dispatched →
        (s.task (s.thr u).slice (s.thr u).dslot).thread = u → s.childrenOf (s.thr u).slice (s.thr u).dslot = [] →
        Does (.tresDiscard h) s (TaskGone (s.thr u).slice (s.thr u).dslot h s)) ∧
      (kind = 2 → ∀ e rest, (s.core g).sideLog = e :: rest →
        Does (.tresResume h) s (fun t =>
          t.records = gone ∧ t.core g = { s.core g with sideLog := { e with recorded := false } :: rest } ∧
          (∀ k, k ≠ g → t.core k = s.core k) ∧ { t with records := s.records, cores := s.cores } = s ∧ SameBytes s t) ∧
        ∀ i ∈ [Instr.tresSkip h, .tresDiscard h], Does i s fun t =>
          t.records = gone ∧ t.core g = { s.core g with sideLog := rest } ∧ (∀ k, k ≠ g → t.core k = s.core k) ∧
          (e.stream = none → e.rel = false → { t with records := s.records, cores := s.cores } = s) ∧
          (e.rel = true → (s.thr e.thread).wait = .logged → Completed none_ 0 (s.thr e.thread) (t.thr e.thread)) ∧ SameBytes s t) ∧
      (kind = 3 → Does (.tresResume h) s fun t =>
        t.records = gone ∧ t.task cl n = { s.task cl n with stagingFault := false, captured := none } ∧ (∀ c k, (c, k) ≠ (cl, n) → t.task c k = s.task c k) ∧
        { t with records := s.records, clusters := s.clusters } = s ∧ SameBytes s t) ∧
      (kind = 4 → Does (.tresResume h) s fun t =>
        t.records = gone ∧ t.task cl n = { s.task cl n with heldBack := false, readyTick := s.ticks, aged := 0 } ∧
        (∀ c k, (c, k) ≠ (cl, n) → t.task c k = s.task c k) ∧
        { t with records := s.records, clusters := s.clusters } = s ∧ SameBytes s t) ∧
      (kind = 3 ∨ (kind = 4 ∧ s.childrenOf cl n = []) → ∀ i ∈ [Instr.tresSkip h, .tresDiscard h], Does i s (TaskGone cl n h s)) ∧
      (kind = 5 → ∀ i ∈ [Instr.tresResume h, .tresSkip h, .tresDiscard h], Does i s fun t =>
        t.records = gone ∧ { t with records := s.records } = s ∧ SameBytes s t) ∧
      (let Moved (p : Place) (t : State) : Prop :=
          t.records = s.records.map (fun x => if x.handle = h then { x with place := p } else x) ∧ { t with records := s.records } = s ∧
          SameBytes s t;
        (∀ b, r.place = .queue b → Does (.tresForward h) s (Moved (.chain (if r.region = noRegion then none else some r.region)))) ∧
        (∀ q, r.place = .handler q → Does (.tresForward h) s (Moved (.chain (s.region (handleId h / 1024) q).parent))) ∧
        ((r.place = .fresh ∨ ∃ q, r.place = .chain q) → Does (.tresForward h) s fun t => t = s))

end Claim

/-- What each action does to a record of each kind: `Claim.Resolutions`. -/
def Obligations.ResolutionActions : Prop := Claim.Resolutions

namespace Claim

/-- A record of PAGE, ASSIST or ECALL that has just arisen enters the trap queue of its cluster's CCC, unread, while the queue has a place for
it; every other record stays where it is (R280). -/
def TrapQueueEntry : Prop :=
  ∀ (h : BitVec 64) (s : State),
    (s.findRecord h = none → Does (.trapQueueEntry h) s fun t => t = s) ∧
    ∀ r, s.findRecord h = some r →
      let cl := handleId r.handle / 8
      let others := (s.records.filter fun q =>
        decide ((q.place = .queue false ∨ q.place = .queue true) ∧ handleId q.handle / 8 = cl ∧ handleKind q.handle ≠ 1)).length
      let enters := r.place = .fresh ∧ (r.cause = causePAGE ∨ r.cause = causeASSIST ∨ r.cause = causeECALL) ∧ (handleKind h = 1 ∨ others < 64)
      (enters → Does (.trapQueueEntry h) s fun t =>
        t.records = s.records.map (fun q => if q.handle = h then { q with place := .queue false } else q) ∧
        { t with records := s.records } = s ∧ SameBytes s t) ∧
      (¬enters → Does (.trapQueueEntry h) s fun t => t = s)

end Claim

/-- The trap queue: entry and TQ: `Claim.TrapQueueReads`, `Claim.TrapQueueEntry`. -/
def Obligations.TrapQueue : Prop := Claim.TrapQueueReads ∧ Claim.TrapQueueEntry

namespace Claim

/-- Nothing holds an access of the hub to some lines: none of them is in X, no run is open, and nothing waits at a directory (R167, R261). -/
structure HubClear (ls : List Nat) (s : State) : Prop where
  lines : ∀ l ∈ ls, l ∉ s.xlines
  runs : ∀ m, s.holders m = []
  queue : s.dirQueue = []

/-- Whether a region is a handling region of a cause, for records of a cluster: FHAND is not zero, FMASK has the cause's bit, and the
descriptor at FHAND, which must name the region, passes the checks of R34 (R281). -/
def handles (s : State) (cl q cause : Nat) : Bool :=
  let x := s.region (clusterModule cl) q
  let d := BitVec.ofNat 512 (s.num (locOf (clusterModule cl) (x.f 383 320)) 64)
  decide (x.f 383 320 ≠ 0) && bit (x.f 447 384) cause && s.descriptorOk cl d fun n => decide (n = q)

/-- The oldest record on the chain of its cluster. A region that handles the cause, the faulting task's or its parent, has the descriptor at
its FHAND entered in the cluster with the arguments of R281, and the record is with it; without a free slot the record stays. Where the
region is a root that does not handle the cause, it fails: every task of the root and its descendants that no MMA holds is aborted, and once
nothing of theirs is outstanding, and nothing holds the lines of their STATE, they run no more and their records are retired (R281, R282). -/
def HandlerEntry : Prop :=
  ∀ (h : BitVec 64) (s : State),
    (s.findRecord h = none → Does (.handlerEntry h) s fun t => t = s) ∧
    ∀ r, s.findRecord h = some r → r.place = .fresh → r.cause ≠ causePAGE → r.cause ≠ causeASSIST → r.cause ≠ causeECALL → r.region < 256 →
      let cl := handleId r.handle / 8
      let m := clusterModule cl
      (s.module m).failing = [] →
      (s.records.find? fun q => q.walkFrom.isSome && decide (handleId q.handle / 8 = cl ∧ q.region ≠ noRegion)) = some r →
      let handled (q : Nat) : Prop :=
        let d := BitVec.ofNat 512 (s.num (locOf m ((s.region m q).f 383 320)) 64);
        (s.freeSlot cl = none → Does (.handlerEntry h) s fun t => t = s) ∧
        ∀ n, s.freeSlot cl = some n → Does (.handlerEntry h) s fun t =>
          let e := (t.task cl n).desc
          t.records = s.records.map (fun x => if x.handle = h then { x with place := .handler q } else x) ∧
          dArg e 1 = r.cause % 64 + (if handleKind h = 5 then q else r.region) * 2 ^ 8 + q % 256 * 2 ^ 16 + handleKind h * 2 ^ 24 ∧
          dArg e 2 = (if handleKind h = 1 then r.tpc.toNat else 0) ∧ dArg e 3 = r.tval.toNat ∧ dArg e 4 = h.toNat ∧
          e.extractLsb' 0 128 = d.extractLsb' 0 128 ∧ e.extractLsb' 384 128 = d.extractLsb' 384 128 ∧
          (∀ k, k ≠ n → t.task cl k = s.task cl k) ∧ (∀ c, c ≠ cl → t.cluster c = s.cluster c) ∧
          { t with records := s.records, clusters := s.clusters, cores := s.cores, fresh := s.fresh } = s ∧
          (∀ g, { t.core g with dbg := (s.core g).dbg } = s.core g) ∧ SameBytes s t
      (r.cause < 64 → handles s cl r.region r.cause = true → handled r.region) ∧
      (∀ q, (s.region m r.region).parent = some q → r.cause < 64 → q < 256 → handles s cl r.region r.cause = false →
        handles s cl q r.cause = true → handled q) ∧
      ((s.region m r.region).parent = none → handles s cl r.region r.cause = false → SMap.has (s.module m).regions r.region = true →
        let tree (q : Nat) : Prop := SMap.has (s.module m).regions q = true ∧ s.descends m 256 q r.region = true
        ((∀ q, tree q → s.quiet m q = true) → (∀ e ∈ s.images, ¬(clusterModule e.2.cluster = m ∧ tree e.2.region)) →
          HubClear ((s.family m r.region).map fun q => stateLine m (s.region m q).rcb) s →
          Does (.handlerEntry h) s fun t =>
            (∀ q, tree q → SMap.has (t.module m).regions q = false ∧ ∀ x ∈ t.records, ¬(handleId x.handle / 1024 = m ∧ x.region = q)) ∧
            (t.module m).msix = (s.module m).msix ++
              (if (s.region m r.region).f 102 102 = 1 then [(s.region m r.region).f 113 103] else []) ∧
            t.findRecord h = none) ∧
        ((∃ c n, clusterModule c = m ∧ SMap.has (s.cluster c).tasks n = true ∧ tree (dRegion (s.task c n).desc) ∧
            ((s.task c n).state ≠ .dispatched ∨ (s.thr (s.task c n).thread).wait.inArray = false)) →
          Does (.handlerEntry h) s fun t =>
            r.region ∈ (t.module m).failing ∧ (t.module m).regions = (s.module m).regions ∧
            ∀ c n, clusterModule c = m → SMap.has (s.cluster c).tasks n = true → tree (dRegion (s.task c n).desc) →
              (s.task c n).state ≠ .dispatched ∨ (s.thr (s.task c n).thread).wait.inArray = false →
              SMap.has (t.cluster c).tasks n = false))

end Claim

/-- The fault-domain chain: handlers and failing roots: `Claim.HandlerEntry`. -/
def Obligations.HandlerEntry : Prop := Claim.HandlerEntry

namespace Claim

/-- TLBINV in supervisor mode, with nothing outstanding: the entries of the module that match go, no other entry and nothing else changes, and
the thread waits until what translated through them is complete; bits above [17:16] or mode 3 are ILLEGAL (R133). -/
def TlbInvalidation : Prop :=
  ∀ (a b : BitVec 6) (s : State), NoRun s → s.supervisor s.cur = true →
    let x := (s.sr a).toNat
    let m := threadModule s.cur
    let ctx := x % 2 ^ 16
    let mode := x / 2 ^ 16
    let keeps (e : TlbEntry) : Bool :=
      !(decide (mode = 2) || decide (e.ctx = ctx) && (decide (mode = 1) || decide (e.va = (s.sr b).toNat / e.size * e.size)))
    (3 ≤ mode → Does (.tlbinv a b) s (Trapped s.cur causeILLEGAL ((encode (.tlbinv a b)).setWidth 64) s.me.pc s)) ∧
    (mode < 3 → Settled s → Does (.tlbinv a b) s fun t =>
      ParkedThread (.tlbinv mode ctx) s.me (t.thr s.cur) ∧ (∀ v, v ≠ s.cur → t.thr v = s.thr v) ∧
      (∀ g, clusterModule (coreCluster g) = m → t.core g = { s.core g with tlb := (s.core g).tlb.filter keeps }) ∧
      (∀ g, clusterModule (coreCluster g) ≠ m → t.core g = s.core g) ∧
      (∀ c, clusterModule c = m → t.cluster c = { s.cluster c with tlb := (s.cluster c).tlb.filter keeps }) ∧
      (∀ c, clusterModule c ≠ m → t.cluster c = s.cluster c) ∧
      { t with threads := s.threads, cores := s.cores, clusters := s.clusters } = s ∧ SameBytes s t) ∧
    ∀ (u : Nat), (s.thr u).live = true → (s.thr u).wait = .tlbinv mode ctx →
      (s.translationsDone (threadModule u) mode ctx = true → Does (.accessResponse u 0) s fun t =>
        OnlyThread u s t ∧ Completed none_ 0 (s.thr u) (t.thr u)) ∧
      (s.translationsDone (threadModule u) mode ctx = false → Does (.accessResponse u 0) s fun t => t = s)

/-- WFI in supervisor mode parks the thread until its cluster's trap queue holds a record, or 1,048,576 ticks have passed; then it completes
(R289). -/
def WaitForInterrupt : Prop :=
  ∀ (s : State) (u : Nat),
    (s.supervisor s.cur = true → Does .wfi s (Parked (.wfi (s.time / tickUnits + 1048576)) s)) ∧
    ∀ n, (s.thr u).wait = .wfi n → (s.thr u).live = true →
      let ended := n ≤ s.time / tickUnits ∨
        ∃ r ∈ s.records, (r.place = .queue false ∨ r.place = .queue true) ∧ handleId r.handle / 8 = threadCluster u
      (ended → Does (.wfiWake u) s fun t => OnlyThread u s t ∧ Completed none_ 0 (s.thr u) (t.thr u)) ∧
      (¬ended → Does (.wfiWake u) s fun t => t = s)

end Claim

/-- TLBINV and WFI: `Claim.TlbInvalidation`, `Claim.WaitForInterrupt`. -/
def Obligations.TlbAndInterruptWaits : Prop := Claim.TlbInvalidation ∧ Claim.WaitForInterrupt

/-! ### The hardware task scheduler (chapter 02) -/

namespace Claim

/-- A write of RGNSTART asks for a launch while none is being checked; a write during one is lost and says so (R27, R28). The register answers
once the module has booted. -/
def LaunchRequest : Prop :=
  ∀ (m : Nat) (v : BitVec 64) (s : State),
    let x := s.module m
    (x.ready = true → x.launch = none → Does (.rgnstart m v) s fun t => OnlyModule m s t ∧ t.module m = { x with launch := some v }) ∧
    (x.ready = true → ∀ w, x.launch = some w → Does (.rgnstart m v) s fun t => OnlyModule m s t ∧ t.module m = { x with rgnLost := true }) ∧
    (x.ready = false → Does (.rgnstart m v) s fun t => t = s)

/-- A launch ends with a code and takes nothing: no region number, no descriptor slot, no CSM. -/
structure LaunchFailed (m code : Nat) (s t : State) : Prop where
  module : t.module m = { s.module m with launch := none, rgnCode := code }
  others : ∀ k, k ≠ m → t.module k = s.module k
  rest : { t with modules := s.modules, mem := s.mem, badMem := s.badMem } = s

/-- A reserved field of an RCB is not zero, STATE is not 0, or a field other than TCOUNT that the region does not inherit is out of its range
(R24, R25, R28). -/
def rcbOutOfRange (f : Nat → Nat → Nat) : Prop :=
  f 2047 1216 ≠ 0 ∨ f 1215 1186 ≠ 0 ∨ f 1087 1035 ≠ 0 ∨ f 1023 966 ≠ 0 ∨ f 255 216 ≠ 0 ∨ f 191 178 ≠ 0 ∨ f 127 114 ≠ 0 ∨
  f 1033 1032 ≠ 0 ∨ f 1093 1088 ≠ 0 ∨ f 7 0 ≠ 0 ∨ f 319 256 % 2 ^ 21 ≠ 0 ∨ 8388608 < f 215 192 ∨ f 177 160 % 2048 ≠ 0 ∨ 131072 < f 177 160 ∨
  32 < f 159 154 ∨ f 153 139 = 0 ∨ 16384 < f 153 139 ∨ f 138 128 = 0 ∨ 1024 < f 138 128 ∨
  (f 962 962 = 0 ∧ f 461 448 ≠ 0) ∨ (f 963 963 = 0 ∧ (f 527 512 ≠ 0 ∨ f 591 576 ≠ 0 ∨ f 655 640 ≠ 0)) ∨ (f 965 965 = 0 ∧ f 325 320 ≠ 0)

/-- The launch that RGNSTART asked for fails at the first failing check of R28: an address that is no RCB's (1), a field out of its range, a
STATE that is not zero, or CEIL above PRIO (2), a parent that does not run (3), inheritance without a parent (4), a budget above the parent's (5), a
list that is empty or too long, or a descriptor that would be refused (6), no number free or the one asked for in use (7), no descriptor slot (8), no
CSM offset (9). With STATE zero in the RCB, its STATE becomes 3; otherwise memory is as before. Without a launch asked for there is nothing to
do, and one whose lines an engine holds waits for them (R167). -/
def LaunchFailures : Prop :=
  ∀ (m : Nat) (s : State),
    ((s.module m).launch = none → Does (.regionLaunch m) s fun t => t = s) ∧
    ∀ v, (s.module m).launch = some v →
      let x := v.toNat
      let rcb := x / 2 ^ 8 % 2 ^ 44 * 2 ^ 8
      let raw := s.num (locOf m rcb) 256
      let f := bits raw
      let valid := x < 2 ^ 52 ∧ x % 2 ^ 8 = 0 ∧ inHbm rcb = true
      let lines := s.launchReads m rcb ++ [stateLine m rcb]
      let Fails (code : Nat) : Prop := Does (.regionLaunch m) s fun t =>
        LaunchFailed m code s t ∧
        (if valid ∧ f 1033 1032 = 0 then
          t.num (locOf m rcb + 129) 1 % 4 = 3 ∧ t.num (locOf m rcb + 129) 1 / 4 = s.num (locOf m rcb + 129) 1 / 4 ∧
          SameBytesBut [locOf m rcb + 129] s t
        else SameBytes s t)
      let ok := valid ∧ ¬rcbOutOfRange f ∧ f 960 960 = 0 ∧ f 69 67 ≤ f 66 64
      let own := f 63 0 = 0 ∧ f 965 960 = 0
      let n := f 1162 1152
      let desc (i : Nat) : BitVec 512 := BitVec.ofNat 512 (s.num (locOf m (f 1151 1088 + 64 * i)) 64)
      let num := if f 1034 1034 = 1 then some (f 1031 1024) else SMap.free (s.module m).regions 256 0
      let slice (i : Nat) : Nat := m * 128 + i % 128
      let refused (i : Nat) : Prop := let d := desc i
        dEntry d / 2 ^ 57 ≠ 0 ∨ 32 < dAccn d ∨ f 177 160 < dWin d * 32 ∨ f 159 154 < dAccn d ∨ (∃ r, num = some r ∧ dRegion d ≠ r) ∨
        (dCntv d = true ∧ (s.counter (slice i) (dCnt d)).bound.isSome = true)
      let listed := ok ∧ own ∧ 1 ≤ n ∧ n ≤ 1024
      let passes := listed ∧ (∀ i, i < n → ¬refused i) ∧ s.countersTaken m ((List.range n).map fun i => (i, desc i)) [] = false
      let free := passes ∧ ∃ r, num = some r ∧ SMap.has (s.module m).regions r = false
      let place := s.placement m ((List.range n).map fun i => (i, desc i))
      (valid → (∃ l ∈ lines, l ∈ s.xlines) → Does (.regionLaunch m) s fun t => t = s) ∧
      (HubClear lines s → SameKey s 0 (locOf m rcb + 129) →
        (¬valid → Fails 1) ∧
        (valid → rcbOutOfRange f → Fails 2) ∧
        (valid → f 960 960 = 0 → f 66 64 < f 69 67 → Fails 2) ∧
        (valid → f 960 960 = 1 → ∀ p, s.regionAt m (f 63 0) = some p → f 63 0 ≠ 0 → (s.region m p).f 66 64 < (s.region m p).f 69 67 → Fails 2) ∧
        (ok → f 63 0 ≠ 0 → s.regionAt m (f 63 0) = none → Fails 3) ∧
        (ok → f 63 0 = 0 → f 965 960 ≠ 0 → Fails 4) ∧
        (ok → f 63 0 ≠ 0 → ∀ p, s.regionAt m (f 63 0) = some p →
          (∃ y ∈ [(319, 256), (215, 192), (177, 160), (159, 154), (153, 139), (138, 128)], (s.region m p).f y.1 y.2 < f y.1 y.2) ∨
          (f 215 192 ≠ 0 ∧ ∃ a ∈ s.ancestors m 256 p, (s.region m a).f 215 192 < s.csmUse m a + (f 215 192 + 65535) / 65536 * 65536) → Fails 5) ∧
        (ok → own → n = 0 ∨ 1024 < n → Fails 6) ∧
        (listed → (∃ i, i < n ∧ refused i) → Fails 6) ∧
        (passes → (∀ r, num = some r → SMap.has (s.module m).regions r = true) → Fails 7) ∧
        (free → place = none ∨ (∃ i, i < n ∧ dCntv (desc i) = true ∧ 1024 ≤ (s.cluster (slice i)).tasks.length) → Fails 8) ∧
        (free → place.isSome = true → f 215 192 ≠ 0 →
          (∀ b, b + csmBlocks (f 215 192) ≤ 128 → ∃ k, k < csmBlocks (f 215 192) ∧ b + k ∈ s.csmTaken m) → Fails 9))

/-- A launch that passes every check of R28: the region runs under its number with the effective values of its RCB, the RCB holds the
number, the CSM offset and STATE 1, each descriptor of the list is a task of the slice where it was placed, and the launch is over with
code 0 (R26, R28, R30). -/
def LaunchSucceeds : Prop :=
  ∀ (m : Nat) (s : State), ∀ v, (s.module m).launch = some v → ∀ l, s.checkLaunch m v.toNat = .ok l →
    HubClear (s.launchReads m l.rcb ++ [stateLine m l.rcb]) s →
    let raw := s.num (locOf m l.rcb) 256
    (l.rcb = v.toNat ∧ inHbm l.rcb = true ∧ bits raw 1033 1032 = 0 ∧ SMap.has (s.module m).regions l.num = false ∧
      l.descs.length = bits raw 1162 1152 ∧ 0 < l.descs.length ∧ l.descs.length ≤ 1024 ∧
      (bits raw 1034 1034 = 1 → l.num = bits raw 1031 1024) ∧ (bits raw 1034 1034 = 0 → ∀ k < l.num, SMap.has (s.module m).regions k = true) ∧
      ∀ e ∈ l.descs, dRegion e.2 = l.num) ∧
    Does (.regionLaunch m) s fun t =>
      let r := t.region m l.num
      (t.module m).launch = none ∧ (t.module m).rgnCode = 0 ∧ (t.module m).rgnNum = l.num ∧
      SMap.has (t.module m).regions l.num = true ∧ r.rcb = l.rcb ∧ r.parent = l.parent ∧
      (∀ q, q ≠ l.num → SMap.get? (t.module m).regions q = SMap.get? (s.module m).regions q) ∧ (∀ k, k ≠ m → t.module k = s.module k) ∧
      (let now := t.num (locOf m l.rcb) 256;
        bits now 1033 1032 = 1 ∧ bits now 1031 1024 = l.num % 256 ∧ bits now 1185 1163 = l.block * 65536 % 2 ^ 23 ∧
        bits now 1023 0 = bits raw 1023 0 ∧ bits now 1162 1034 = bits raw 1162 1034) ∧
      (∀ e ∈ l.descs, let cl := SMap.getD l.place e.1 0
        cl / 128 = m ∧ (t.cluster cl).tasks.any (fun k => decide (k.2.desc = e.2 ∧ k.2.home = cl ∧ (k.2.state = .ready ∨ k.2.state = .waiting))) = true ∧
        (dCntv e.2 = true → cl = m * 128 + e.1 % 128)) ∧
      t.threads = s.threads ∧ (∀ g, { t.core g with dbg := (s.core g).dbg } = s.core g) ∧ t.records = s.records ∧ t.switches = s.switches

/-- A region that has nothing left finishes: its number is free, its RCB holds STATE 2, its message goes to the host where NOTIFY is 1, and
its barriers and subscriptions are gone. One that has a task, a running child, a record, a held image or a commit, a stream or a copy that is
not over, and one that fails, does not (R29, R282); and while an engine holds the line of its STATE, it waits (R167). -/
def RegionFinish : Prop :=
  ∀ (m r : Nat) (s : State), m < 1024 →
    let x := s.region m r
    (s.finished m r = true → stateLine m x.rcb ∈ s.xlines → Does (.regionFinish m r) s fun t => t = s) ∧
    (s.finished m r = true → inHbm x.rcb = true → HubClear [stateLine m x.rcb] s → SameKey s 0 (locOf m x.rcb + 129) → Does (.regionFinish m r) s fun t =>
      SMap.has (t.module m).regions r = false ∧ (∀ q, q ≠ r → SMap.has (t.module m).regions q = SMap.has (s.module m).regions q) ∧
      t.num (locOf m x.rcb + 129) 1 % 4 = 2 ∧ SameBytesBut [locOf m x.rcb + 129] s t ∧
      (t.module m).msix = (s.module m).msix ++ (if x.f 102 102 = 1 then [x.f 113 103] else []) ∧
      (∀ b ∈ (t.module m).barriers, b.2.owner ≠ r) ∧ (∀ b ∈ (t.module m).subs, b.region ≠ r) ∧
      t.threads = s.threads ∧ t.cores = s.cores ∧ t.records = s.records) ∧
    (SMap.has (s.module m).regions r = false ∨ (∃ e ∈ (s.module m).regions, e.2.parent = some r) ∨
      (∃ e ∈ s.clusters, clusterModule e.1 = m ∧ ∃ k ∈ e.2.tasks, dRegion k.2.desc = r) ∨
      (∃ q ∈ s.records, q.region = r ∧ handleId q.handle / 1024 = m) ∨
      (∃ e ∈ s.images, clusterModule e.2.cluster = m ∧ e.2.region = r) ∨ s.isFailing m r = true ∨
      (∃ e ∈ s.clusters, clusterModule e.1 = m ∧ ((∃ k ∈ e.2.commits, k.owner.region = r) ∨ (∃ k ∈ e.2.copies, k.region = r) ∨
        (∃ k ∈ e.2.nears, k.region = r) ∨ ∃ k ∈ e.2.streams, k.2.region = r ∧ k.2.ended = false)) →
      Does (.regionFinish m r) s fun t => t = s)

end Claim

/-- A region is launched, fails to launch, and finishes: `Claim.LaunchRequest`, `Claim.LaunchFailures`, `Claim.LaunchSucceeds`,
`Claim.RegionFinish`. -/
def Obligations.RegionLifetime : Prop := Claim.LaunchRequest ∧ Claim.LaunchFailures ∧ Claim.LaunchSucceeds ∧ Claim.RegionFinish

namespace Claim

/-- A region comes and goes (R27 to R29): after boot a write of RGNSTART asks for a launch; a launch that passes every check ends with code 0
and the region runs under its number; and a region that is finished runs no more, and its RCB's STATE is 2. -/
def RegionSteps : Prop :=
  ∀ (m r : Nat) (v : BitVec 64) (s : State), m < 1024 →
    let x := s.module m
    (x.ready = true → x.launch = none → Does (.rgnstart m v) s fun t =>
      (t.module m).launch = some v ∧ { t with modules := s.modules } = s ∧ SameBytes s t) ∧
    (x.launch = some v → ∀ l, s.checkLaunch m v.toNat = .ok l → HubClear (s.launchReads m l.rcb ++ [stateLine m l.rcb]) s →
      Does (.regionLaunch m) s fun t => (t.module m).launch = none ∧ (t.module m).rgnCode = 0 ∧ (t.module m).rgnNum = l.num ∧
        SMap.has (t.module m).regions l.num = true ∧ t.threads = s.threads ∧ t.records = s.records) ∧
    (s.finished m r = true → inHbm (s.region m r).rcb = true → HubClear [stateLine m (s.region m r).rcb] s →
      SameKey s 0 (locOf m (s.region m r).rcb + 129) → Does (.regionFinish m r) s fun t => SMap.has (t.module m).regions r = false ∧ t.num (locOf m (s.region m r).rcb + 129) 1 % 4 = 2 ∧
        SameBytesBut [locOf m (s.region m r).rcb + 129] s t ∧ t.threads = s.threads ∧ t.records = s.records)

/-- The task that a slice chooses among the tasks it may dispatch is one of them, none of them has a better effective priority, and among
unordered tasks of its region at that priority none has been ready for longer; nothing is chosen only where there is none (R44, R45). Which tasks
count for 'both kinds are ready' is the model's choice (log 31). -/
def TaskChoice : Prop :=
  ∀ (cl : Nat) (s : State),
    let m := clusterModule cl
    let pool := s.dispatchPool cl
    (pool = [] ↔ s.choose cl pool = none) ∧
    ∀ n x b, s.choose cl pool = some (n, x, b) →
      (n, x) ∈ pool ∧ x.state = .ready ∧ x.heldBack = false ∧
      (∀ e ∈ pool, s.priority m x ≤ s.priority m e.2) ∧
      (dOrd x.desc = false → ∀ e ∈ pool, dRegion e.2.desc = dRegion x.desc → s.priority m e.2 = s.priority m x → dOrd e.2.desc = false →
        x.readySeq ≤ e.2.readySeq)

/-- A dispatch with no task held: the chosen task gets a thread slot, a window and tiles on a core that had them free, and the thread's state
is as R39 states; the counter's STATUS and UNDER pass to s5; the turn bit of the region flips where both kinds were ready, which the model
does at the choice (DEDUCED, log 31). With no task that may be dispatched nothing changes (R33, R37 to R39, R44). An ordered task finds fewer than 255
ordered tasks held in the cluster, or is the least ready one before the last place (R47, R51; DESIGN CHOICE, log 32). Registers and tiles that another launch or context held last read zero (R364). -/
def TaskDispatch : Prop :=
  ∀ (cl : Nat) (s : State), (s.cluster cl).held = none →
    let m := clusterModule cl
    let pool := s.dispatchPool cl
    (s.cluster cl).orderedHeld.length < 256 →
    (pool = [] → Does (.taskDispatch cl) s fun t => t = s) ∧
    ∀ n x both, s.choose cl pool = some (n, x, both) → x = s.task cl n →
      (dOrd x.desc = true → (s.cluster cl).orderedHeld.length < 255 ∨
        ∀ e ∈ (s.cluster cl).readyTasks, dOrd e.2.desc = true → orderLt e.2.order x.order = false) →
      let r := dRegion x.desc
      let y := s.region m r
      let q := s.counter x.home (dCnt x.desc)
      let cores := (s.coreOrder cl r).filter fun g => decide ((s.cluster cl).reserved ≠ some g)
      ∀ g slot start tiles, s.firstFit r (dWin x.desc) (dAccn x.desc) cores = some (g, slot, start, tiles) →
        (slot < 16 ∧ start % 64 = 0 ∧ start + dWin x.desc ≤ 4096 ∧ tiles.length = dAccn x.desc ∧ g / 8 = cl ∧
          (s.thr (slotThread g slot)).live = false ∧ (∀ k ∈ tiles, k < 32 ∧ k ∉ s.tilesUsed g) ∧
          (∀ b, start / 64 ≤ b → b < (start + dWin x.desc) / 64 → b ∉ s.blocksUsed g) ∧
          ((s.core g).resident = some r ∨ (s.core g).resident = none)) ∧
        Does (.taskDispatch cl) s fun t =>
          let u := slotThread g slot
          let th := t.thr u
          let mine (z : Option (Nat × Nat)) : Bool := decide (z = some (y.serial, y.f 101 86))
          (th.live = true ∧ th.pc = BitVec.ofNat 64 (dEntry x.desc) ∧
            (∀ k, th.s k =
              if 1 ≤ k ∧ k ≤ 4 then BitVec.ofNat 64 (dArg x.desc k)
              else if k = 5 ∧ dCntv x.desc = true then BitVec.ofNat 64 (q.status + if q.under then 64 else 0) else 0) ∧
            (∀ k, th.p k = if k = 0 then BitVec.allOnes 32 else 0) ∧ th.fflags = 0 ∧ th.xclip = 0 ∧ th.runst = 0 ∧ th.insn = 0 ∧
            (∀ j < 32, th.gen j = BitVec.ofNat 32 (0x9E3779B9 * (j + 1))) ∧
            th.fmtRead start 0 = (if dFmtv x.desc
              then BitVec.ofNat 64 (dFmt x.desc + 16 * dAscl x.desc * 2 ^ 16 + 16 * dBscl x.desc * 2 ^ 28)
              else BitVec.ofNat 64 (y.f 767 704) &&& 0xFFFFFF7FFF) ∧
            th.fmtRead start 1 = BitVec.ofNat 64 (y.f 831 768) &&& 0xFFFFFF7FFF ∧
            th.fmtRead start 2 = BitVec.ofNat 64 (y.f 895 832) &&& 0xFFFFFF7FFF ∧
            th.fmtRead start 3 = BitVec.ofNat 64 (y.f 959 896) &&& 0xFFFFFF7FFF ∧
            th.winStart = start ∧ th.winRegs = dWin x.desc ∧ th.tiles = tiles ∧ th.region = r ∧ th.ctx = y.f 101 86 ∧
            th.ordered = dOrd x.desc ∧ th.slice = cl ∧ th.dslot = n ∧ th.wait = .ready ∧
            th.staging = (bit (dTile x.desc 0) 0 || bit (dTile x.desc 1) 0 || bit (dTile x.desc 2) 0 || bit (dTile x.desc 3) 0)) ∧
          ((t.task cl n).state = .dispatched ∧ (t.task cl n).thread = u ∧ (t.task cl n).desc = x.desc ∧ (t.task cl n).staged = 0 ∧
            (t.task cl n).captured = none) ∧
          SMap.getD (t.cluster cl).turn r true = (SMap.getD (s.cluster cl).turn r true != both) ∧
          (∀ c k, (c, k) ≠ (cl, n) → t.task c k = s.task c k) ∧ (∀ v, v ≠ u → t.thr v = s.thr v) ∧
          (t.core g).resident = some r ∧
          (∀ k, SMap.getD (t.core g).store k 0 =
            if start ≤ k ∧ k < start + dWin x.desc ∧ mine (SMap.get? (s.core g).regOwner (k / 64)) = false then 0
            else SMap.getD (s.core g).store k 0) ∧
          (∀ k, t.tileAt g k = if k ∈ tiles ∧ mine (SMap.get? (s.core g).tileOwner k) = false then 0 else s.tileAt g k) ∧
          (dCntv x.desc = true → t.counter x.home (dCnt x.desc) = { q with status := 0, under := false }) ∧
          (∀ h, h ≠ g → t.core h = s.core h) ∧ t.modules = s.modules ∧ t.records = s.records ∧ SameBytes s t

/-- Staging begins with the capture of the layout entries of the tiles that are still to be staged; an entry with an uncorrectable byte stops it
with DATA_ERROR at the byte's physical address (DESIGN CHOICE, log 39), and one that is held is waited for. A tile that is not valid is passed over; a tile without an entry, without read access or outside its entry's extent, and one
whose registers reach past the window, stops the staging with a record of kind 3 and changes no register; a tile whose bytes are read is
written to its registers, row by row with padding; and after the fourth tile the thread may issue (R32, R40, R127). -/
def TileStaging : Prop :=
  ∀ (u : Nat) (s : State),
    let th := s.thr u
    let cl := th.slice
    let x := s.task cl th.dslot
    let idle := th.live = false ∨ th.staging = false ∨ x.stagingFault = true
    let agent : Agent := { s.agent u with unit := 3 }
    let due := (List.range 4).filter fun i => decide (x.staged ≤ i ∧ dTile x.desc i % 2 = 1)
    let Staged (v t : State) : Prop := t.task cl th.dslot = { v.task cl th.dslot with staged := x.staged + 1 } ∧
      (∀ c k, (c, k) ≠ (cl, th.dslot) → t.task c k = v.task c k)
    (idle → Does (.tileStaging u) s fun t => t = s) ∧
    (¬idle → s.engineHeld (threadCluster u) = false → 4 ≤ x.staged → Does (.tileStaging u) s fun t =>
      OnlyThread u s t ∧ t.thr u = { th with staging := false }) ∧
    (¬idle → s.engineHeld (threadCluster u) = false → x.staged < 4 → x.captured = none →
      let reads := s.meetEntries agent (due.map fun i => dTile x.desc i / 2 % 256)
      (∀ v, reads = (v, .ok) → (v.thr u).live = true → Does (.tileStaging u) s fun t =>
        (∃ es : List Nat, t.task cl th.dslot = { v.task cl th.dslot with captured := some es } ∧ es.length = 4 ∧
          ∀ i ∈ due, es.getD i 0 = v.tableEntry u (dTile x.desc i / 2 % 256)) ∧
        (∀ c k, (c, k) ≠ (cl, th.dslot) → t.task c k = v.task c k) ∧ { t with clusters := v.clusters } = v ∧ SameBytes v t) ∧
      (∀ v loc, reads = (v, .bad loc) → (v.thr u).live = true → v.thr u = th → Does (.tileStaging u) s fun t =>
        t.task cl th.dslot = { v.task cl th.dslot with stagingFault := true } ∧
        t.records = v.records ++ [{ handle := mkHandle 3 (cl * 8) 0 th.dslot 0 0, cause := causeDATA, tval := BitVec.ofNat 64 (locPa loc), region := th.region }] ∧
        { t with clusters := v.clusters, records := v.records } = v ∧ SameBytes v t) ∧
      (∀ r, reads = (s, .wait r) → Does (.tileStaging u) s fun t => t = s)) ∧
    (∀ es, ¬idle → s.engineHeld (threadCluster u) = false → x.staged < 4 → x.captured = some es →
      let f := dTile x.desc x.staged
      let l := f / 2 % 256
      let e := es.getD x.staged 0
      let a : BitVec 64 := BitVec.ofNat 64 (dArg x.desc (f / 512 % 4 + 1))
      let first := 16 * (f / 2048 % 64)
      let n := registerImage e
      let good := layValid e = true ∧ layGrants e 1 = true ∧ linearFits e a.toNat (imageBytes e) = true
      let Stops (cause tval : Nat) (t : State) : Prop :=
        t.task cl th.dslot = { x with stagingFault := true } ∧ (∀ c k, (c, k) ≠ (cl, th.dslot) → t.task c k = s.task c k) ∧
        t.records = s.records ++ [{ handle := mkHandle 3 (cl * 8) 0 th.dslot 0 0, cause := cause, tval := BitVec.ofNat 64 tval, region := th.region }] ∧
        { t with clusters := s.clusters, records := s.records } = s ∧ SameBytes s t
      (f % 2 = 0 → Does (.tileStaging u) s fun t => Staged s t ∧ { t with clusters := s.clusters } = s ∧ SameBytes s t) ∧
      (f % 2 = 1 → ¬good → Does (.tileStaging u) s (Stops causeLAYOUT l)) ∧
      (f % 2 = 1 → good → winSize u th < first + n / 128 → Does (.tileStaging u) s (Stops causeLAYOUT (2 ^ 63 + first))) ∧
      (f % 2 = 1 → good → first + n / 128 ≤ winSize u th →
        let src (b : Nat) : Option Nat := (rowByte e b).bind fun k => imageVa e e a.toNat k
        let vas := (List.range n).filterMap src
        ∀ v bs, s.engineRead agent e [] vas = (v, .done bs) → (v.thr u).live = true → Does (.tileStaging u) s fun t =>
          Staged v t ∧
          (∀ b < n, (BitVec.ofNat 8 ((t.vecAt u (first + b / 128)).toNat / 2 ^ (8 * (b % 128))) : Byte) = match src b with
            | some _ => bs.getD ((List.range b).filterMap src).length 0
            | none => padByte e (b % (((tileDims e).headD 1 * shapeElem e + 127) / 128 * 128) % shapeElem e)) ∧
          (∀ k, (∀ i < n / 128, k ≠ s.phys u (first + i)) →
            SMap.getD (t.core (threadCore u)).store k 0 = SMap.getD (s.core (threadCore u)).store k 0) ∧
          (∀ w, w ≠ u → t.thr w = v.thr w) ∧ t.records = v.records ∧ SameBytes v t))

end Claim

/-- A region comes and goes, and its tasks are chosen, placed and staged: `Claim.RegionSteps`, `Claim.TaskChoice`, `Claim.TaskDispatch`,
`Claim.TileStaging`. -/
def Obligations.TaskDispatching : Prop := Claim.RegionSteps ∧ Claim.TaskChoice ∧ Claim.TaskDispatch ∧ Claim.TileStaging

namespace Claim

/-- A slice with a ready task that it could place, or without anything to take, steals nothing; otherwise the first slice in the order of
R46 gives its oldest ready unordered task of the best priority that the thief can place, and that task stays as it is, in a slot of the
thief (R46). That the task takes a free slot of the thief, and that a thief without one steals nothing, is the model's choice (log 31). -/
def TaskSteal : Prop :=
  ∀ (cl : Nat) (s : State),
    let fits := (s.cluster cl).readyTasks.any (fun e => s.placeable cl e.2) = true
    let order := ((List.range 16).map fun i => cl / 16 * 16 + (cl % 16 + i) % 16).drop 1 ++
      ((List.range 128).map fun i => cl / 128 * 128 + i).filter fun c => c / 16 ≠ cl / 16
    (fits ∨ s.freeSlot cl = none ∨ (∀ c ∈ order, s.stealable cl c = none) → Does (.taskSteal cl) s fun t => t = s) ∧
    ∀ p v q, order = p ++ v :: q → (∀ c ∈ p, s.stealable cl c = none) → ∀ slot x, s.stealable cl v = some (slot, x) →
      (x.state = .ready ∧ x.heldBack = false ∧ dOrd x.desc = false ∧ s.placeable cl x = true ∧
        (∀ e ∈ (s.cluster v).readyTasks, dOrd e.2.desc = false → s.placeable cl e.2 = true →
          s.priority (clusterModule v) x ≤ s.priority (clusterModule v) e.2)) ∧
      ∀ n, s.freeSlot cl = some n → ¬fits → Does (.taskSteal cl) s fun t =>
        t.task cl n = x ∧ SMap.has (t.cluster v).tasks slot = false ∧
        (∀ c k, (c, k) ≠ (cl, n) → (c, k) ≠ (v, slot) → t.task c k = s.task c k) ∧
        ((s.cluster v).held = some slot → (t.cluster v).held = none ∧ (t.cluster v).reserved = none) ∧
        (∀ c, c ≠ cl → c ≠ v → t.cluster c = s.cluster c) ∧ { t with clusters := s.clusters } = s ∧ SameBytes s t

/-- A complete ageing interval of a ready task, which R273 does not hold back, moves its effective priority one level up, until it is CEIL;
otherwise the step changes nothing (R45). -/
def AgeingInterval : Prop :=
  ∀ (cl n : Nat) (s : State),
    let x := s.task cl n
    let y := s.region (clusterModule cl) (dRegion x.desc)
    let age := 256 * y.f 85 70
    let ages := SMap.has (s.cluster cl).tasks n = true ∧ x.state = .ready ∧ x.heldBack = false ∧ age ≠ 0 ∧
      x.aged < (s.ticks - x.readyTick) / age ∧ y.f 69 67 + x.aged < y.f 66 64
    (ages → Does (.ageingInterval cl n) s fun t =>
      t.task cl n = { x with aged := x.aged + 1 } ∧ t.priority (clusterModule cl) (t.task cl n) + 1 = s.priority (clusterModule cl) x ∧
      (∀ c k, (c, k) ≠ (cl, n) → t.task c k = s.task c k) ∧ (∀ c, c ≠ cl → t.cluster c = s.cluster c) ∧
      { t with clusters := s.clusters } = s ∧ SameBytes s t) ∧
    (¬ages → Does (.ageingInterval cl n) s fun t => t = s)

/-- GVT of each running region becomes the least timestamp and tiebreak of its ordered tasks that have not finished, none without such a task;
with no finished task below it nothing else changes, and the one finished task below it commits its run and frees its slot (R48, R274). -/
def GvtRecompute : Prop :=
  ∀ (m : Nat) (s : State),
    let open_ := (s.orderedTasks m).filter fun e => decide (e.2.2.state ≠ .finishedSpeculative)
    let below (e : Nat × Nat × Task) : Prop := e.2.2.state = .finishedSpeculative ∧
      ∀ o ∈ open_, dRegion o.2.2.desc = dRegion e.2.2.desc → orderLt e.2.2.order o.2.2.order = true
    let Gvt (t : State) : Prop := ∀ r, SMap.has (s.module m).regions r = true →
      (SMap.getD (t.module m).gvt r none = none → ∀ o ∈ open_, dRegion o.2.2.desc ≠ r) ∧
      ∀ a, SMap.getD (t.module m).gvt r none = some a →
        (∃ o ∈ open_, dRegion o.2.2.desc = r ∧ o.2.2.order = a) ∧ ∀ o ∈ open_, dRegion o.2.2.desc = r → orderLt o.2.2.order a = false
    (∀ e ∈ s.orderedTasks m, SMap.has (s.module m).regions (dRegion e.2.2.desc) = true) →
    ((∀ e ∈ s.orderedTasks m, ¬below e) → Does (.gvtRecompute m) s fun t =>
      Gvt t ∧ OnlyModule m s t ∧ t.module m = { s.module m with
        gvt := (t.module m).gvt, oldest := (t.module m).oldest, gvtTick := s.ticks / 256 * 256 }) ∧
    (∀ cl n x, s.orderedTasks m = [(cl, n, x)] → x.state = .finishedSpeculative → x.run.log = [] → x.run.buf = [] → x.run.held = [] →
      Does (.gvtRecompute m) s fun t =>
        SMap.has (t.cluster cl).tasks n = false ∧ (∀ c k, (c, k) ≠ (cl, n) → t.task c k = s.task c k) ∧
        t.threads = s.threads ∧ t.records = s.records ∧ SameBytes s t)

end Claim

/-- Steals of tasks, ageing and global virtual time: `Claim.TaskSteal`, `Claim.AgeingInterval`, `Claim.GvtRecompute`. -/
def Obligations.TaskMovement : Prop := Claim.TaskSteal ∧ Claim.AgeingInterval ∧ Claim.GvtRecompute

/-! ### Pre-emption (chapter 21, R293 to R299) -/

namespace Claim

/-- The thread waits in WFI. -/
def inWfi (th : Thread) : Bool := th.live && match th.wait with
  | .wfi _ => true
  | _ => false

/-- A save, restore or discard of a cluster has ended with a code: BUSY is 0, a CCC thread of the cluster that waited in WFI goes on, and
nothing else changed (R289, R293). -/
structure PreemptEnded (cl code : Nat) (s t : State) : Prop where
  status : t.cluster cl = { s.cluster cl with preBusy := false, preCode := code, saving := none, restoring := none }
  others : ∀ c, c ≠ cl → t.cluster c = s.cluster c
  woken : ∀ i < 4, inWfi (s.thr (cccBase + cl * 4 + i)) = true → Completed none_ 0 (s.thr (cccBase + cl * 4 + i)) (t.thr (cccBase + cl * 4 + i))
  threads : ∀ v, v < cccBase + cl * 4 ∨ cccBase + cl * 4 + 4 ≤ v ∨ inWfi (s.thr v) = false → t.thr v = s.thr v
  rest : { t with threads := s.threads, clusters := s.clusters } = s
  bytes : SameBytes s t

/-- A save, restore or discard is refused with a code; nothing else changed, and no thread wakes (R289, R293). -/
def PreemptRefused (cl code : Nat) (s t : State) : Prop :=
  OnlyCluster cl s t ∧ t.cluster cl = { s.cluster cl with preCode := code }

/-- A value of PRECTL has a bit set that must be zero (R293). -/
def badPrectl (x : Nat) : Prop := x / 2 ^ 16 ≠ 0 ∨ x / 2 ^ 3 % 2 ^ 10 ≠ 0 ∨ (x / 2 ^ 15 % 2 = 0 ∧ x / 2 ^ 13 % 2 = 1)

/-- A write of PRECTL in supervisor mode is the step of its operation; one while BUSY is 1 is ignored (R290, R293). -/
def PrectlWrites : Prop :=
  ∀ (a : BitVec 6) (s : State), s.supervisor s.cur = true →
    let cl := threadCluster s.cur
    let v := s.sr a
    ((s.cluster cl).preBusy = true → Does (.csrw a 0x810) s (Became s.me s)) ∧
    ((s.cluster cl).preBusy = false → v.getLsbD 15 = false →
      Does (.csrw a 0x810) s fun t => Does (.preemptSave cl v) (retired s) fun u => t = u) ∧
    ((s.cluster cl).preBusy = false → v.getLsbD 15 = true → v.getLsbD 13 = false →
      Does (.csrw a 0x810) s fun t => Does (.preemptRestore cl v) (retired s) fun u => t = u) ∧
    ((s.cluster cl).preBusy = false → v.getLsbD 15 = true → v.getLsbD 13 = true →
      Does (.csrw a 0x810) s fun t => Does (.imageDiscard cl v) (retired s) fun u => t = u)

end Claim

/-- CSRR and CSRW of every register without a further effect, and of PRECTL: `Claim.UserCsrs`, `Claim.SupervisorCsrs`,
`Claim.PrectlWrites`. -/
def Obligations.SpecialRegisters : Prop := Claim.UserCsrs ∧ Claim.SupervisorCsrs ∧ Claim.PrectlWrites

namespace Claim

/-- The decision of a save: a bad value, or an image that would not lie aligned in device memory, refuses it with CODE 1, a core with no
residency with CODE 3 (that CODE 1 comes before CODE 3, and that an image lies in HBM, is the model's choice, log 22); otherwise BUSY is 1 and the save runs, a run of the core that was open aborts with PREEMPT, and a FRED of the core that
waits is withdrawn (R293, R294, R343). -/
def SaveDecision : Prop :=
  ∀ (cl : Nat) (v : BitVec 64) (s : State),
    let k := s.cluster cl
    let x := v.toNat
    let g := cl * 8 + x % 8
    let pa := k.preimg.toNat
    let loc := locOf (clusterModule cl) pa
    let n := 0x90000 + if x / 2 ^ 14 % 2 = 1 then (s.region (clusterModule cl) ((s.core g).resident.getD noRegion)).f 215 192 else 0
    let placed := pa % 65536 = 0 ∧ inHbm (pa + n - 1) = true
    let here (p : Nat → Thread → Prop) : Prop := ∀ e ∈ s.liveThreads, threadCore e.1 = g → p e.1 e.2
    (k.preBusy = true ∨ x / 2 ^ 15 % 2 = 1 → Does (.preemptSave cl v) s fun t => t = s) ∧
    (k.preBusy = false → x / 2 ^ 15 % 2 = 0 →
      (badPrectl x ∨ ¬placed → Does (.preemptSave cl v) s (PreemptRefused cl 1 s)) ∧
      (¬badPrectl x → placed → (s.core g).resident = none → Does (.preemptSave cl v) s (PreemptRefused cl 3 s)) ∧
      (¬badPrectl x → placed → ∀ r, (s.core g).resident = some r →
        (Does (.preemptSave cl v) s fun t =>
          (t.cluster cl).preBusy = true ∧ (t.cluster cl).preCode = 0 ∧
          (t.cluster cl).saving = some (g, decide (x / 2 ^ 14 % 2 = 1), loc)) ∧
        (here (fun _ th => th.ordered = false ∧ th.run.ordered = false) → Does (.preemptSave cl v) s fun t =>
          here fun u th => th.run.active = true → th.wait.inArray = false →
            (t.thr u).run.active = false ∧ (t.thr u).depth = 0 ∧ (t.thr u).cause = abortPREEMPT ∧ (t.thr u).pc = th.fallback) ∧
        (here (fun _ th => th.ordered = false ∧ th.run.active = false) → Does (.preemptSave cl v) s fun t =>
          t.cluster cl = { k with preBusy := true, preCode := 0, saving := some (g, decide (x / 2 ^ 14 % 2 = 1), loc) } ∧
          (here fun u th => ∀ o, th.wait = .fred o → ∃ p ∈ t.net ++ t.egress, p.kind = 18 ∧ p.thread = u ∧ p.addr = o ∧
            p.dest = 1024 + objectSwitch (threadModule u) o) ∧
          (here (fun _ th => ∀ o, th.wait ≠ .fred o) → OnlyCluster cl s t))))

/-- Where a part of a thread's block lies in an image: word k of the slot's 128 words. -/
def imageWord (s : State) (loc slot k : Nat) : Nat := s.num (loc + 0x100 + 1024 * slot + 8 * k) 8

/-- The image of a save, once its core is drained: the header, the thread blocks, the mailboxes, the deque, the tiles and the registers stand
in memory at the image, the registers all of them or only those written since the image was last restored; the image is held, the core has no
residency, and the tasks are saved. A core that is not drained is not saved yet (R294, R296, R297, R299). The order of the words in a thread
block and of the fields of the mailbox and deque sections is the model's choice (log 22). -/
def SaveImage : Prop :=
  ∀ (cl : Nat) (s : State),
    let k := s.cluster cl
    (k.saving = none → Does (.saveImageWrite cl) s fun t => t = s) ∧
    ∀ g csm loc, k.saving = some (g, csm, loc) →
      ((s.core g).resident = none → Does (.saveImageWrite cl) s (PreemptEnded cl 0 s)) ∧
      ∀ r, (s.core g).resident = some r →
        let ths := s.threadsOf g
        let m := clusterModule cl
        let gen := if s.num loc 8 = 0x445A494D then s.num (loc + 8) 8 + 1 else 1
        let src := locOf m (csmBase + cl % 128 * 2 ^ 23 + (s.region m r).f 1185 1163)
        let n := (s.region m r).f 215 192
        let again := (s.core g).image = some loc
        (s.drained g = false → Does (.saveImageWrite cl) s fun t => t = s) ∧
        (s.drained g = true → (ths.map fun e => threadSlot e.1).Nodup →
          csm = false ∨ (n % 128 = 0 ∧ src % 128 = 0 ∧ (loc + 0x90000 + n ≤ src ∨ src + n ≤ loc)) → Does (.saveImageWrite cl) s fun t =>
          t.num loc 8 = 0x445A494D ∧ t.num (loc + 8) 8 = gen % 2 ^ 64 ∧ t.num (loc + 16) 1 = r % 256 ∧
          t.num (loc + 18) 2 = (s.region m r).f 101 86 % 65536 ∧ t.num (loc + 20) 4 = g % 2 ^ 32 ∧
          (∀ e ∈ ths, let slot := threadSlot e.1
            (∀ i, 0 < i → i < 64 → imageWord t loc slot i = (e.2.s i).toNat) ∧ imageWord t loc slot 64 = e.2.pc.toNat ∧
            (∀ x ∈ [(119, e.2.nextPc), (121, e.2.passBreak), (123, e.2.passWatch)], ∀ v, x.2 = some v →
              imageWord t loc slot x.1 = 1 ∧ imageWord t loc slot (x.1 + 1) = v.toNat) ∧
            (∀ i < 4, imageWord t loc slot (69 + i) = (e.2.fmtRead (winStart e.1 e.2) i).toNat) ∧ imageWord t loc slot 74 = e.2.insn.toNat) ∧
          (∀ i < 32, t.num (loc + 0x4100 + 8 * i) 8 = (SMap.getD (s.core g).mail i 0).toNat) ∧
          t.num (loc + 0x4200) 4 = (s.core g).present.toNat ∧
          (∀ i x, i < 64 → (s.core g).deque[i]? = some x →
            t.num (loc + 0x4300 + 32 * i) 8 = x.lo.toNat ∧ t.num (loc + 0x4308 + 32 * i) 8 = x.hi.toNat) ∧
          (∀ q < 32, t.num (loc + 0x8000 + 1024 * q) 1024 = (s.tileAt g q).toNat) ∧
          (∀ i < 4096, (again → i ∈ (s.core g).dirty ∧ ∃ e ∈ ths, i ∈ windowOf e.1 e.2) →
            t.num (loc + 0x10000 + 128 * i) 128 = (SMap.getD (s.core g).store i 0).toNat) ∧
          (again → ∀ i < 4096, i ∉ (s.core g).dirty → t.num (loc + 0x10000 + 128 * i) 128 = s.num (loc + 0x10000 + 128 * i) 128) ∧
          (csm = true → ¬again → ∀ b < n, Memory.get t.mem (loc + 0x90000 + b) = Memory.get s.mem (src + b)) ∧
          (∀ l, l < loc ∨ loc + 0x90000 + (if csm then n else 0) ≤ l → Memory.get t.mem l = Memory.get s.mem l) ∧
          (t.core g).resident = none ∧ (t.core g).dirty = [] ∧ (∀ h, h ≠ g → (t.core h).store = (s.core h).store) ∧
          (∀ e ∈ ths, (t.thr e.1).live = false ∧ t.recordOf e.1 = none ∧ (t.task e.2.slice e.2.dslot).state = .saved) ∧
          (∀ v, threadCore v ≠ g → inWfi (s.thr v) = false → t.thr v = s.thr v) ∧
          (∃ q img, SMap.get? t.images q = some img ∧ img.core = g ∧ img.region = r ∧
            img.threads = ths.map (fun e => ⟨threadSlot e.1, e.2.slice, e.2.dslot, e.2.winRegs, e.2.tiles.length⟩)) ∧
          (t.cluster cl).preBusy = false ∧ (t.cluster cl).preCode = 0)

/-- A restore: CODE 1 for a bad value or where no image of a saved residency stands, CODE 2 for a core with a residency, CODE 4 for a region
that does not run; otherwise every thread of the image has its slot again with the state that its block holds, and waits on as R298 says, its
window and tiles hold what the image's memory holds at their index, its task is dispatched, its watches have fired, its record is raised again,
and the image is held no more. The CSM section is copied where the image has one and the CSM bit of PRECTL is set (R293). A restore whose stream slots or queues are in use, or for which the region's budgets have no room, waits for
them, which is the model's reading (log 23). -/
def RestoreImage : Prop :=
  ∀ (cl : Nat) (v : BitVec 64) (s : State), cl < 2 ^ 17 →
    let k := s.cluster cl
    let x := v.toNat
    let m := clusterModule cl
    let g := cl * 8 + x % 8
    let loc := locOf m k.preimg.toNat
    (x / 2 ^ 15 % 2 = 0 ∨ x / 2 ^ 13 % 2 = 1 → Does (.preemptRestore cl v) s fun t => t = s) ∧
    (k.preBusy = false → k.restoring = none → x / 2 ^ 15 % 2 = 1 → x / 2 ^ 13 % 2 = 0 →
      (s.heldAt cl = none → Does (.preemptRestore cl v) s (PreemptRefused cl 1 s)) ∧
      ∀ n img, s.heldAt cl = some (n, img) →
        let bad := badPrectl x
        let runs := SMap.has (s.module m).regions img.region = true
        (s.num loc 8 = 0x445A494D ∧ s.num (loc + 16) 1 = img.region ∧ s.num (loc + 20) 4 = img.core) ∧
        (bad → Does (.preemptRestore cl v) s (PreemptRefused cl 1 s)) ∧
        (∀ r, (s.core g).resident = some r → ¬bad → Does (.preemptRestore cl v) s (PreemptRefused cl 2 s)) ∧
        (¬bad → (s.core g).resident = none → ¬runs → Does (.preemptRestore cl v) s (PreemptRefused cl 4 s)) ∧
        (¬bad → (s.core g).resident = none → runs → (k.streamRoom img = false ∨ s.restoreRoom g n img = false) →
          Does (.preemptRestore cl v) s fun t => OnlyCluster cl s t ∧
            t.cluster cl = { k with preBusy := true, preCode := 0, restoring := some (g, decide (x / 2 ^ 14 % 2 = 1), loc) }) ∧
        (¬bad → (s.core g).resident = none → runs → s.restoreRoom g n img = true → img.csm = 0 ∨ x / 2 ^ 14 % 2 = 0 →
          (img.threads.map (·.slot)).Nodup → (∀ y ∈ img.threads, y.slot < 16) → img.streams = [] → img.queues = [] →
          (∀ y ∈ img.threads, ∀ o p, (s.imageThread loc img y.slot).wait = .fbarrier o p → s.objectLost m o = false) →
          Does (.preemptRestore cl v) s fun t =>
            (∀ y ∈ img.threads,
              let u := slotThread g y.slot
              let th := s.imageThread loc img y.slot
              (th.wait = .ready ∨ th.wait = .trapped → t.thr u = th) ∧
              (∀ d a, th.wait = .waitw d a → (t.thr u).wait = .ready ∧ (t.thr u).pc = th.pc + 4 ∧ (d ≠ 0 → (t.thr u).s d.toNat = 1)) ∧
              (∀ d b q, th.wait = .mrecv d b q → (BitVec.ofNat 32 (s.num (loc + 0x4200) 4)).getLsbD b = false →
                ∃ q', t.thr u = { th with wait := .mrecv d b q' }) ∧
              (∀ o p, th.wait = .barrier o p → ∀ b, s.barrier m o = some b →
                (b.phase = p → t.thr u = th) ∧ (b.phase ≠ p → Completed none_ 0 th (t.thr u))) ∧
              (∀ o p, th.wait = .fbarrier o p → (p < (s.hubBarrier m o).released → Completed none_ 0 th (t.thr u)) ∧
                ((s.hubBarrier m o).released ≤ p → t.thr u = th)) ∧
              (∀ i, 0 < i → i < 64 → (∀ d a, th.wait ≠ .waitw d a) → (∀ d b q, th.wait ≠ .mrecv d b q) →
                ((t.thr u).s i).toNat = imageWord s loc y.slot i) ∧
              (t.task y.slice y.dslot).state = .dispatched ∧
              (th.wait = .ready → ∀ w ∈ s.imageWatches loc y.slot u th.ctx, w.fired = true ∧
                w ∈ (t.cluster (csmCluster (locModule (w.word * 4)) (locPa (w.word * 4)))).watches) ∧
              (∀ i ∈ windowOf u th, (SMap.getD (t.core g).store i 0).toNat = s.num (loc + 0x10000 + 128 * i) 128) ∧
              (∀ q ∈ th.tiles, (t.tileAt g q).toNat = s.num (loc + 0x8000 + 1024 * q) 1024)) ∧
            (∀ u, threadCore u ≠ g → inWfi (s.thr u) = false → t.thr u = s.thr u) ∧
            (t.core g).resident = some img.region ∧ (t.core g).dirty = [] ∧ (t.core g).deque = (s.imageCore loc (s.core g)).deque ∧
            t.records = s.records ++ img.threads.filterMap (fun y => s.imageRecord loc y.slot (slotThread g y.slot) img.region) ∧
            SMap.has t.images n = false ∧ (t.cluster cl).preBusy = false ∧ (t.cluster cl).preCode = 0 ∧ SameBytes s t))

/-- A discard: CODE 1 for a bad value or where no image of a saved residency stands, and CODE 4 for a region that does not run; otherwise every
task of the image is aborted and its descriptor slot is free, the image is held no more, with its records, and a stream of the image that names a
counter decrements it with ILLEGAL (R293, R299, R317). -/
def DiscardImage : Prop :=
  ∀ (cl : Nat) (v : BitVec 64) (s : State),
    let k := s.cluster cl
    let x := v.toNat
    (k.preBusy = true ∨ x / 2 ^ 15 % 2 = 0 ∨ x / 2 ^ 13 % 2 = 0 → Does (.imageDiscard cl v) s fun t => t = s) ∧
    (k.preBusy = false → x / 2 ^ 15 % 2 = 1 → x / 2 ^ 13 % 2 = 1 →
      (s.heldAt cl = none → Does (.imageDiscard cl v) s (PreemptRefused cl 1 s)) ∧
      ∀ n img, s.heldAt cl = some (n, img) →
        let runs := SMap.has (s.module (clusterModule cl)).regions img.region = true
        (badPrectl x → Does (.imageDiscard cl v) s (PreemptRefused cl 1 s)) ∧
        (¬badPrectl x → ¬runs → Does (.imageDiscard cl v) s (PreemptRefused cl 4 s)) ∧
        (¬badPrectl x → runs → Does (.imageDiscard cl v) s fun t =>
          SMap.has t.images n = false ∧ (∀ l, l ≠ n → SMap.get? t.images l = SMap.get? s.images l) ∧
          (∀ y ∈ img.threads, SMap.has (t.cluster y.slice).tasks y.dslot = false) ∧
          (t.cluster cl).preBusy = false ∧ (t.cluster cl).preCode = 0 ∧ SameBytes s t ∧
          ((∀ e ∈ img.streams, e.2.cntv = true → e.2.ended = true) → t.records = s.records ∧ t.cores = s.cores ∧ t.modules = s.modules) ∧
          (∀ q o, img.streams = [(q, o)] → o.cntv = true → o.ended = false → (s.counter o.sel o.cnt).bound = none →
            Counted o.sel o.cnt causeILLEGAL s t)))

end Claim

/-- A residency is saved, restored and discarded: `Claim.SaveDecision`, `Claim.SaveImage`, `Claim.RestoreImage`, `Claim.DiscardImage`. -/
def Obligations.Preemption : Prop := Claim.SaveDecision ∧ Claim.SaveImage ∧ Claim.RestoreImage ∧ Claim.DiscardImage

/-! ### Debug and trace (chapter 27) -/

namespace Claim

/-- Only the debug block of one core differs. -/
def OnlyDebug (g : Nat) (b : Debug) (s t : State) : Prop := OnlyCore g s t ∧ t.core g = { s.core g with dbg := b }

/-- Before READY a core's debug block takes no write. HALT asks for a stop; RESUME and STEP let a stopped core go on, STEP for one instruction of its slot, which SSLOT then names. On a core
that is not stopped RESUME changes nothing, and STEP no more than SSLOT (R345, R347, R359). -/
def DebugControl : Prop :=
  ∀ (g slot : Nat) (v : BitVec 64) (wr : Bool) (s : State),
    let b := (s.core g).dbg
    let ready := (s.module (clusterModule (coreCluster g))).ready
    (ready = false → ∀ i ∈ [Instr.debugHalt g, .debugStep g slot, .debugResume g, .traceFlush g, .dlyclr g v, .ddata g wr v], Does i s fun t => t = s) ∧
    (ready = true →
    (b.stopped = true ∨ (∃ p, b.pending = some p ∧ 1 ≤ p.1 ∧ p.1 ≤ 6) → Does (.debugHalt g) s fun t => t = s) ∧
    (b.stopped = false → b.pending = none → Does (.debugHalt g) s (OnlyDebug g { b with pending := some (1, 0, 0) } s)) ∧
    (b.stopped = false → Does (.debugResume g) s (fun t => t = s) ∧
      Does (.debugStep g slot) s (OnlyDebug g { b with sslot := slot % 16 } s)) ∧
    (b.stopped = true →
      Does (.debugResume g) s (OnlyDebug g { b with stopped := false, step := none } s) ∧
      Does (.debugStep g slot) s (OnlyDebug g { b with stopped := false, step := some (slot % 16), sslot := slot % 16 } s)))

/-- A stop that was asked for takes effect, with its cause, slot and index in DSTAT; a directory watch waits until the accessing thread has
woken. A stopped core issues nothing (R346 to R348). -/
def CoreStops : Prop :=
  ∀ (g : Nat) (s : State),
    let b := (s.core g).dbg
    (b.pending = none → Does (.coreStop g) s fun t => t = s) ∧
    (∀ p, b.pending = some p → p.1 = 4 → (s.thr (slotThread g p.2.1)).wait.accessing = true → Does (.coreStop g) s fun t => t = s) ∧
    (∀ p, b.pending = some p → b.stopped = false → p.1 ≠ 4 ∨ (s.thr (slotThread g p.2.1)).wait.accessing = false →
      Does (.coreStop g) s fun t =>
        let c := (t.core g).dbg
        OnlyCore g s t ∧ { t.core g with dbg := b } = s.core g ∧ c.stopped = true ∧ c.cause = p.1 ∧ c.slot = p.2.1 ∧ c.index = p.2.2 ∧
        c.pending = none ∧ c.step = none ∧ c.en = b.en ∧ t.issueSlot g = none) ∧
    (b.stopped = true → s.issueSlot g = none)

/-- Breakpoint n of the core of a thread matches its next issue (R350). -/
def breaksAt (s : State) (u n : Nat) : Bool :=
  let b := (s.core (threadCore u)).dbg
  let c := SMap.getD b.ibpc n 0
  let pc := (s.thr u).pc
  b.en && c.getLsbD 0 && c.getLsbD (4 + threadSlot u) && decide (pc.toNat / 4 % 2 ^ 55 * 4 = (SMap.getD b.ibpa n 0).toNat)
    && !(c.getLsbD 2 && c.getLsbD 3) && decide ((s.thr u).passBreak ≠ some pc)

/-- The lowest-numbered breakpoint that matches a thread about to issue stops the core, forms a record, or raises BREAK at the instruction, and
after a stop or a trap the thread passes it once at this PC; without a match, and for an instruction that has issued, nothing happens (R347,
R350). -/
def Breakpoints : Prop :=
  ∀ (u n : Nat) (s : State),
    let g := threadCore u
    let b := (s.core g).dbg
    let action := (SMap.getD b.ibpc n 0).toNat / 4 % 4
    let passing : Thread := { s.thr u with passBreak := some (s.thr u).pc }
    (isCcc u = true ∨ (s.thr u).live = false ∨ (s.thr u).parked = true ∨ (∀ k < 4, breaksAt s u k = false) →
      Does (.breakpointMatch u) s fun t => t = s) ∧
    (isCcc u = false → (s.thr u).live = true → (s.thr u).parked = false → n < 4 → (∀ k < n, breaksAt s u k = false) → breaksAt s u n = true →
      (action = 0 → b.stopped = false → Does (.breakpointMatch u) s fun t =>
        let c := (t.core g).dbg
        OnlyThreadAndCore u g s t ∧ t.thr u = passing ∧ { t.core g with dbg := b } = s.core g ∧
        c.stopped = true ∧ c.cause = 3 ∧ c.slot = threadSlot u ∧ c.index = n) ∧
      (action = 1 → Does (.breakpointMatch u) s fun t =>
        let r := traceRecord 2 b.seq (threadSlot u) (s.die (clusterDie (coreCluster g))).vf g (s.time / tickUnits) n (s.thr u).pc.toNat
        OnlyCore g s t ∧ { t.core g with dbg := b } = s.core g ∧
        (t.core g).dbg.formed = b.formed ++ (if b.tctl.getLsbD 0 && b.tctl.getLsbD 34 && decide (g < 2 ^ 20) then [r] else [])) ∧
      (action = 2 → (s.thr u).run.active = false → (s.thr u).run.ordered = false →
        Does (.breakpointMatch u) s (Trapped u causeBREAK 0 (s.thr u).pc (s.setThr u passing))))

/-- DDATA reaches the state that DSEL selects of a thread of a stopped core: reads of each class return the value, writes of a scalar, a
predicate, a format word, a lane of a vector, an element of a tile, FFLAGS and the PC store it, and a thread that waits sees such a PC when its
access is complete (DEDUCED, log 58); any other selection, a core that runs and an empty slot refuse it with ERR, and a refused read returns
zero (R349, R292). -/
def DebugData : Prop :=
  ∀ (g : Nat) (v : BitVec 64) (s : State),
    let m := clusterModule (coreCluster g)
    let b := (s.core g).dbg
    let u := slotThread g (b.dsel.toNat / 2 ^ 24 % 16)
    let c := b.dsel.toNat / 2 ^ 20 % 16
    let k := b.dsel.toNat % 2 ^ 20
    let th := s.thr u
    let allowed := b.stopped = true ∧ th.live = true ∧
      ((c = 0 ∧ k < 64) ∨ (c = 1 ∧ k < 8) ∨ (c = 2 ∧ k < 4) ∨ (c = 3 ∧ k < 32 * winSize u th) ∨ (c = 4 ∧ k < 256 * th.tiles.length) ∨
        (c = 5 ∧ isUserCsr k = true) ∨ (c = 6 ∧ k = 0))
    let Reads (w : Word) (t : State) : Prop := OnlyModule m s t ∧ t.module m = { s.module m with hostRead := some w }
    (s.module m).ready = true →
    (¬allowed →
      Does (.ddata g false v) s (fun t => (t.core g).dbg = { b with err := true } ∧ (t.module m).hostRead = some 0 ∧
        (∀ h, h ≠ g → t.core h = s.core h) ∧ { t with cores := s.cores, modules := s.modules } = s ∧ SameBytes s t) ∧
      Does (.ddata g true v) s (OnlyDebug g { b with err := true } s)) ∧
    (allowed →
      (c = 0 → Does (.ddata g false v) s (Reads (th.s k))) ∧
      (c = 1 → Does (.ddata g false v) s (Reads ((th.p k).setWidth 64))) ∧
      (c = 2 → Does (.ddata g false v) s (Reads (th.fmtRead (winStart u th) k))) ∧
      (c = 3 → Does (.ddata g false v) s (Reads ((lane (s.vecAt u (k / 32)) (k % 32)).setWidth 64))) ∧
      (c = 4 → Does (.ddata g false v) s (Reads ((elemOf (s.tileAt (threadCore u) (th.tile (k / 256))) (k % 256)).setWidth 64))) ∧
      (c = 5 → Does (.ddata g false v) s (Reads (th.userCsr k))) ∧
      (c = 6 → th.parked = false → th.nextPc = none → Does (.ddata g false v) s (Reads th.pc)) ∧
      (c = 6 → ∀ w, th.nextPc = some w → Does (.ddata g false v) s (Reads w)) ∧
      (c = 0 → Does (.ddata g true v) s fun t => OnlyThread u s t ∧ (t.thr u).s 0 = 0 ∧
        (∀ n, n ≠ 0 → (t.thr u).s n = if n = k then v else th.s n) ∧ { t.thr u with sreg := th.sreg } = th) ∧
      (c = 1 → Does (.ddata g true v) s fun t => OnlyThread u s t ∧ (t.thr u).p 0 = BitVec.allOnes 32 ∧
        (∀ n, n ≠ 0 → (t.thr u).p n = if n = k then v.setWidth 32 else th.p n) ∧ { t.thr u with preg := th.preg } = th) ∧
      (c = 2 → Does (.ddata g true v) s fun t => OnlyThread u s t ∧ t.thr u = th.fmtWrite (winStart u th) k v) ∧
      (c = 3 → Does (.ddata g true v) s fun t =>
        ∀ i < 32, lane (t.vecAt u (k / 32)) i = if i = k % 32 then v.setWidth 32 else lane (s.vecAt u (k / 32)) i) ∧
      (c = 4 → Does (.ddata g true v) s fun t => let q := th.tile (k / 256)
        ∀ i < 256, elemOf (t.tileAt (threadCore u) q) i = if i = k % 256 then v.setWidth 32 else elemOf (s.tileAt (threadCore u) q) i) ∧
      (c = 5 → k = 1 → Does (.ddata g true v) s fun t => OnlyThread u s t ∧ t.thr u = { th with fflags := v.setWidth 5 }) ∧
      (c = 6 → th.parked = false → Does (.ddata g true v) s fun t => OnlyThread u s t ∧ t.thr u = { th with pc := v, nextPc := none }) ∧
      (c = 6 → th.parked = true → Does (.ddata g true v) s fun t => OnlyThread u s t ∧ t.thr u = { th with nextPc := some v }))

end Claim

/-- Debug: halts, stops, breakpoints and DDATA: `Claim.DebugControl`, `Claim.CoreStops`, `Claim.Breakpoints`, `Claim.DebugData`. -/
def Obligations.DebugStops : Prop := Claim.DebugControl ∧ Claim.CoreStops ∧ Claim.Breakpoints ∧ Claim.DebugData

namespace Claim

/-- FLUSH writes the formed records in order at TBASE + OFF, 32 bytes each, and OFF moves on modulo the buffer's size; into a buffer that is not
one, or one that is full without WRAP, the record is lost and counted, and memory is as before; before the next record that is written after a
loss a LOSS record with the number of lost records stands, where its mask bit and TON are set (R354, R355). -/
def TraceFlush : Prop :=
  ∀ (g : Nat) (s : State),
    let b := (s.core g).dbg
    let rs := b.formed
    let size := 4096 * 2 ^ (b.tctl.toNat / 16 % 16)
    let base := b.tbase.toNat / 4096 % 2 ^ 40 * 4096
    let loc := locOf (clusterModule (coreCluster g)) base
    let good := inHbm (base + size - 1) = true ∧ base % size = 0
    let free := (∀ m, s.holders m = []) ∧ s.dirQueue = [] ∧ s.xlines = []
    let wrap := b.tctl.getLsbD 2
    (s.module (clusterModule (coreCluster g))).ready = true →
    let elsewhere (t : State) : Prop := (∀ l, l < loc ∨ loc + size ≤ l → Memory.get t.mem l = Memory.get s.mem l) ∧
      (∀ h, h ≠ g → t.core h = s.core h) ∧ t.threads = s.threads ∧ t.clusters = s.clusters ∧ t.modules = s.modules
    (rs = [] → Does (.traceFlush g) s fun t => t = s) ∧
    (good → free → b.gap = 0 → rs.length * 32 ≤ size → wrap = true ∨ b.filled + rs.length * 32 ≤ size → b.twr % 32 = 0 → b.twr < size →
      Does (.traceFlush g) s fun t =>
        (∀ i r, rs[i]? = some r → t.num (loc + (b.twr + 32 * i) % size) 32 = r.toNat) ∧ elsewhere t ∧
        t.core g = { s.core g with dbg := { b with
          formed := [], twr := (b.twr + 32 * rs.length) % size, filled := b.filled + 32 * rs.length } }) ∧
    (∀ r, rs = [r] → good → free → b.gap ≠ 0 → b.tctl.getLsbD 0 = true → b.tctl.getLsbD 40 = true → wrap = true ∨ b.filled + 64 ≤ size →
      b.twr % 32 = 0 → b.twr < size → Does (.traceFlush g) s fun t =>
        (∃ l : BitVec 256, l.toNat % 256 = 8 ∧ l.toNat / 2 ^ 128 % 2 ^ 64 = b.gap % 2 ^ 64 ∧ t.num (loc + b.twr) 32 = l.toNat) ∧
        t.num (loc + (b.twr + 32) % size) 32 = r.toNat ∧ elsewhere t ∧
        t.core g = { s.core g with dbg := { b with formed := [], twr := (b.twr + 64) % size, filled := b.filled + 64, gap := 0 } }) ∧
    (∀ r, rs = [r] → ¬good →
      Does (.traceFlush g) s (OnlyDebug g { b with formed := [], lost := (b.lost + 1) % 2 ^ 32, gap := b.gap + 1 } s)) ∧
    (∀ r, rs = [r] → good → wrap = false → size < b.filled + 32 →
      Does (.traceFlush g) s (OnlyDebug g { b with formed := [], lost := (b.lost + 1) % 2 ^ 32, gap := b.gap + 1, full := true } s))

/-- A sample that is due, max(64, PERIOD) cycles after the last, forms a SAMPLE record: of the thread that issued in this cycle, or with
DATA0[63] set where none did; its descriptor slot and region are those of the issue, whatever the instruction made of the thread; before that, and with PERIOD 0, nothing happens (R354, R355). A write of DLYCLR with bit 0 clears the delay
accumulators (R358). -/
def TraceSampleAndDelay : Prop :=
  ∀ (g : Nat) (v : BitVec 64) (s : State),
    let b := (s.core g).dbg
    let die := s.die (clusterDie (coreCluster g))
    let now := s.dieCycle (clusterDie (coreCluster g))
    let period := b.tsamp.toNat % 2 ^ 32
    let due := period ≠ 0 ∧ b.sampled + max 64 period ≤ now
    let on := b.tctl.getLsbD 0 && b.tctl.getLsbD 37 && decide (g < 2 ^ 20)
    let rec_ (slot d0 d1 : Nat) := traceRecord 5 b.seq slot die.vf g (s.time / tickUnits) d0 d1
    let Sampled (r : BitVec 256) (t : State) : Prop := OnlyDebug g
      (if on then { b with sampled := now, formed := b.formed ++ [r], seq := (b.seq + 1) % 2 ^ 24 } else { b with sampled := now }) s t
    (¬due → Does (.traceSample g) s fun t => t = s) ∧
    (∀ i, b.issued = some i → due → i.2.1 = now →
      Does (.traceSample g) s (Sampled (rec_ i.1 i.2.2.2 i.2.2.1.toNat))) ∧
    (∀ i, b.issued = some i → due → i.2.1 ≠ now → Does (.traceSample g) s (Sampled (rec_ 0 (2 ^ 63) 0))) ∧
    (b.issued = none → due → Does (.traceSample g) s (Sampled (rec_ 0 (2 ^ 63) 0))) ∧
    ((s.module (clusterModule (coreCluster g))).ready = true →
      (v.getLsbD 0 = true → Does (.dlyclr g v) s (OnlyDebug g { b with dsum := [], dcnt := [] } s)) ∧
      (v.getLsbD 0 = false → Does (.dlyclr g v) s (OnlyDebug g b s))) ∧
    (∀ u, threadCore u = g → (s.thr u).parked = false → ((s.markIssue u).core g).dbg.issued =
      some (threadSlot u, s.dieCycle (threadDie u), (s.thr u).pc, (s.thr u).dslot * 256 + (s.thr u).region))

/-- HALT, the stop that follows, DDATA, STEP and RESUME on a core, and a breakpoint with action TRACE, each have their effect (R345, R347,
R349, R350): nothing but the debug block of the core changes, and a scalar of the selected thread where DDATA writes one. -/
def DebugSession : Prop :=
  ∀ (g slot k : Nat) (v : BitVec 64) (s : State), g < 2 ^ 20 →
    let b := (s.core g).dbg
    let u := slotThread g (b.dsel.toNat / 2 ^ 24 % 16)
    (s.module (clusterModule (coreCluster g))).ready = true →
    (b.stopped = false → b.pending = none → Does (.debugHalt g) s (OnlyDebug g { b with pending := some (1, 0, 0) } s)) ∧
    (b.stopped = false → b.pending = some (1, 0, 0) → Does (.coreStop g) s fun t =>
      OnlyCore g s t ∧ (t.core g).dbg.dstat % 2 ^ 12 = 1 ∧ (t.core g).dbg.stopped = true ∧ t.issueSlot g = none) ∧
    (b.stopped = true → Does (.debugResume g) s (OnlyDebug g { b with stopped := false, step := none } s)) ∧
    (b.stopped = true → slot < 16 →
      Does (.debugStep g slot) s (OnlyDebug g { b with stopped := false, step := some slot, sslot := slot } s)) ∧
    (b.stopped = true → (s.thr u).live = true → b.dsel.toNat / 2 ^ 20 % 16 = 0 →
      b.dsel.toNat % 2 ^ 20 = k → 0 < k → k < 64 → Does (.ddata g true v) s fun t => OnlyThread u s t ∧ (t.thr u).s k = v) ∧
    (∀ w, threadCore w = g → (s.thr w).live = true → (s.thr w).parked = false → breaksAt s w 0 = true →
      (SMap.getD b.ibpc 0 0).toNat / 4 % 4 = 1 → Does (.breakpointMatch w) s fun t =>
        OnlyCore g s t ∧ (b.tctl.getLsbD 0 = true → b.tctl.getLsbD 34 = true → (t.core g).dbg.formed.length = b.formed.length + 1))

end Claim

/-- Trace records, samples and DLYCLR, and a debug session: `Claim.TraceFlush`, `Claim.TraceSampleAndDelay`, `Claim.DebugSession`. -/
def Obligations.Trace : Prop := Claim.TraceFlush ∧ Claim.TraceSampleAndDelay ∧ Claim.DebugSession

/-! ### The platform, the host and the pod (chapters 01, 10, 25, 28) -/

namespace Claim

/-- Boot of a module that was reset starts with step 1 (R361). Its steps follow one another: an image below the fused minimum stops it with ERR
3, a step that fails stops it with its ERR, and step 6 sets the dies to vf0 and starts a supervisor thread in slot 0 of each CCC; after step 7
the module is READY, and the fused minimum rises to the image's version where that is the second boot in a row of a higher one. A module that has
booted does not boot again. That Kerlis starts so is the model's reading (DESIGN CHOICE, log 2). -/
def Boot : Prop :=
  ∀ (m err step version : Nat) (s : State), m < 1024 →
    let x := s.module m
    let u := s.bootStep m
    let old := x.stage = 4 ∧ version < x.fused
    let fails := err ≠ 0 ∧ step = x.stage
    let next (y : Module) : Prop := OnlyModule m s u ∧ u.module m = y
    let again := if version ≤ x.fused then 0 else if version = x.version then x.higherBoots + 1 else 1
    (x.stage ≠ 0 ∨ x.ready = true → Does (.boot m (err, step) version) s fun t => t = s) ∧
    (x.stage = 0 → x.ready = false → err = 0 ∨ (err, step) ∈ [(1, 2), (2, 3), (2, 4), (4, 5), (5, 6)] →
      Does (.boot m (err, step) version) s fun t =>
        OnlyModule m s t ∧ t.module m = { x with stage := 1, booting := some (err, step, version) }) ∧
    (x.booting = some (err, step, version) →
      s.moduleEvent m = some u ∧
      (old → next { x with err := 3, booting := none }) ∧
      (¬old → fails → next { x with err := err, booting := none }) ∧
      (¬old → ¬fails → x.stage < 6 → next { x with stage := x.stage + 1 }) ∧
      (¬fails → x.stage = 6 →
        u.module m = { x with stage := 7 } ∧ (∀ k, k ≠ m → u.module k = s.module k) ∧
        (∀ i < 128, let th := u.thr (cccBase + (m * 128 + i) * 4)
          th.live = true ∧ th.super = true ∧ th.wait = .ready ∧ th.insn = 0) ∧
        (∀ v, v < cccBase ∨ threadModule v ≠ m ∨ threadSlot v ≠ 0 → u.thr v = s.thr v) ∧
        (∀ i < 8, (u.die (m * 8 + i)).vf = 0 ∧ (u.die (m * 8 + i)).halted = false ∧ u.dieCycle (m * 8 + i) = s.dieCycle (m * 8 + i)) ∧
        { u with threads := s.threads, dies := s.dies, modules := s.modules } = s ∧ SameBytes s u) ∧
      (¬fails → x.stage = 7 → next { x with
        booting := none, ready := true, powerTick := s.time / tickUnits / 10000, ageTick := s.time / tickUnits, version := version
        fused := (if again = 2 then version else x.fused), higherBoots := (if again = 2 then 0 else again) }))

/-- A report holds the nonce and the count of signatures left before it, is signed with the lowest index not used, and uses it up; with none
left nothing is signed and an error is returned. It holds the fused minimum and the version that runs, and the public key takes 68 bytes after
the OID of its parameter set (R362). The order of the index's bytes, the count before this report, the four bytes of each version and the OID's value
are PRESUMED (log 26). What the hashes, the signature and the key hold is free. -/
def Attestation : Prop :=
  ∀ (m nonce : Nat) (s : State),
    let x := s.module m
    (x.ready = false →
      Does (.measurementReport m nonce) s (fun t => t = s) ∧ Does (.identityKey m) s fun t => t = s) ∧
    (x.ready = true → x.signIndex < 2 ^ 20 → Does (.measurementReport m nonce) s fun t =>
      OnlyModule m s t ∧ ∃ b, (t.module m).service.getLast? = some b ∧
        t.module m = { x with service := x.service ++ [b], signIndex := x.signIndex + 1 } ∧
        b.length = 512 + 4 + 2816 ∧
        leNat (b.take 32) = nonce % 2 ^ 256 ∧ leNat ((b.drop 224).take 4) = x.fused % 2 ^ 32 ∧
        leNat ((b.drop 228).take 4) = x.version % 2 ^ 32 ∧ leNat ((b.drop 232).take 8) = 2 ^ 20 - x.signIndex ∧
        ((b.drop 240).take 272).all (fun y => decide (y = 0)) = true ∧ leNat ((b.drop 512).take 4).reverse = x.signIndex) ∧
    (x.ready = true → 2 ^ 20 ≤ x.signIndex → Does (.measurementReport m nonce) s fun t =>
      OnlyModule m s t ∧ t.module m = { x with service := x.service ++ [[]] }) ∧
    (x.ready = true → Does (.identityKey m) s fun t =>
      OnlyModule m s t ∧ ∃ b, (t.module m).service.getLast? = some b ∧ b.length = 68 ∧ b.take 4 = [0, 0, 0, 0x12] ∧ t.module m = { x with service := x.service ++ [b] })

/-- A key slot from 1 to 63 is loaded, and slot 0 and numbers above 63 are never loaded; a line that was written under another key than the one
that its page's slot holds now does not read back (R363). That a line reads back under the key that it was written with, however often the slot was
loaded meanwhile, is the model's reading (DEDUCED, log 27). -/
def KeyLoad : Prop :=
  ∀ (m slot key : Nat) (s : State),
    let x := s.module m
    (slot = 0 ∨ 64 ≤ slot → Does (.keyLoad m slot key) s fun t => t = s) ∧
    (0 < slot → slot < 64 → Does (.keyLoad m slot key) s fun t =>
      OnlyModule m s t ∧ SMap.get? (t.module m).keys slot = some key ∧ (∀ k, k ≠ slot → SMap.get? (t.module m).keys k = SMap.get? x.keys k) ∧
      { t.module m with keys := x.keys } = x ∧
      ∀ loc w, loc < 2 ^ 62 → inHbm (locPa loc) = true → locModule loc = m → SMap.getD s.lineKey (lineOf loc) 0 = w →
        (w = key + 1 → t.byte slot loc = Memory.get s.mem loc) ∧
        (w ≠ key + 1 → t.byte slot loc = Config.otherKeyByte loc w (key + 1) (Memory.get s.mem loc)))

/-- A die is at another VF state and its clock halts for the transition; its cores' registers, the other dies and all the rest are as
before, but for the trace: ARM sets TON on each core of the die, and a THROTTLE record is formed where TON and its mask bit are set, with the
VF state before (R356, R365; log 25). A voltage that ageing has computed for the state takes effect (R367). -/
structure MovedVf (d vf reason : Nat) (s t : State) : Prop where
  state : (t.die d).vf = vf
  halted : (t.die d).halted = true
  cycles : t.dieCycle d = s.dieCycle d
  voltage : (t.die d).voltage = ((s.die d).volts[vf]?).or (s.die d).voltage
  heat : reason ≠ 2 → (t.die d).heatTick = (s.die d).heatTick
  die : { t.die d with
    vf := (s.die d).vf, halted := (s.die d).halted, cycles := (s.die d).cycles, since := (s.die d).since
    voltage := (s.die d).voltage, heatTick := (s.die d).heatTick } = s.die d
  others : ∀ e, e ≠ d → t.die e = s.die e
  cores : ∀ g, { t.core g with dbg := (s.core g).dbg } = s.core g
  traced : (s.cores.map (·.1)).Nodup → ∀ e ∈ s.cores, e.1 < 2 ^ 20 → clusterDie (coreCluster e.1) = d →
    let b := (s.core e.1).dbg
    let c := (t.core e.1).dbg
    c.tctl = (if b.tctl.getLsbD 3 then b.tctl ||| 1 else b.tctl) ∧
    c.formed = b.formed ++ (if c.tctl.getLsbD 0 && c.tctl.getLsbD 38
      then [traceRecord 6 b.seq 0 (s.die d).vf e.1 (s.time / tickUnits) ((s.die d).vf + vf * 16 + reason * 256) 0] else [])
  rest : { t with dies := s.dies, cores := s.cores, modules := s.modules } = s
  bytes : SameBytes s t

/-- The power check at the end of an interval: above PLIM by more than 200 W every die above vf0 moves down a VF state, above PLIM by at most
200 W the die that drew the most, after ten low intervals in a row the die at the lowest state moves one state up where that is not above its
VFCAP, and otherwise no die moves. PWR holds the value. During an interval, and before READY, nothing happens (R365). That a die at vf0 stays
there, and that the count of low intervals begins anew after the tenth, is the model's reading (log 25). -/
def PowerCheck : Prop :=
  ∀ (m watts die : Nat) (s : State), die < 8 →
    let x := s.module m
    let ends := x.ready = true ∧ x.powerTick < s.time / tickUnits / 10000
    let vf (i : Nat) := (s.die (m * 8 + i)).vf
    let Checked (low : Nat) (t : State) : Prop :=
      t.module m = { x with pwr := watts % 65536, powerTick := s.time / tickUnits / 10000, low := low } ∧ (∀ k, k ≠ m → t.module k = s.module k)
    (¬ends → Does (.powerLimitCheck m watts die) s fun t => t = s) ∧
    (ends → x.plim + 200 < watts → Does (.powerLimitCheck m watts die) s fun t =>
      Checked 0 t ∧ (∀ i < 8, (t.die (m * 8 + i)).vf = vf i - 1 ∧ (vf i ≠ 0 → (t.die (m * 8 + i)).halted = true) ∧
        (vf i = 0 → t.die (m * 8 + i) = s.die (m * 8 + i))) ∧
      (∀ e, e / 8 ≠ m → t.die e = s.die e) ∧ { t with dies := s.dies, cores := s.cores, modules := s.modules } = s ∧ SameBytes s t) ∧
    (ends → x.plim < watts → watts ≤ x.plim + 200 → vf die ≠ 0 → Does (.powerLimitCheck m watts die) s fun t =>
      Checked 0 t ∧ MovedVf (m * 8 + die) (vf die - 1) 1 s t) ∧
    (ends → x.plim < watts → watts ≤ x.plim + 200 → vf die = 0 → Does (.powerLimitCheck m watts die) s fun t => Checked 0 t ∧ OnlyModule m s t) ∧
    (ends → watts ≤ x.plim → x.plim ≤ watts + 200 → Does (.powerLimitCheck m watts die) s fun t => Checked 0 t ∧ OnlyModule m s t) ∧
    (ends → watts + 200 < x.plim → x.low ≠ 9 → Does (.powerLimitCheck m watts die) s fun t =>
      Checked (x.low + 1) t ∧ OnlyModule m s t) ∧
    (ends → watts + 200 < x.plim → x.low = 9 →
      let d := s.lowestDie m % 8
      let cap := x.vfcap.toNat / 2 ^ (4 * d) % 16
      (∀ i < 8, vf d ≤ vf i ∧ (vf i = vf d → d ≤ i)) ∧
      (vf d < cap → Does (.powerLimitCheck m watts die) s fun t => Checked 0 t ∧ MovedVf (m * 8 + d) (vf d + 1) 1 s t) ∧
      (cap ≤ vf d → Does (.powerLimitCheck m watts die) s fun t => Checked 0 t ∧ OnlyModule m s t))

/-- The end of a VF transition: the die's clock goes on from where it stood (R365). TEMPn takes a sensor's value; a sensor of a die, or of its HBM
stack, at its limit lowers the die by a VF state, at most once in 10,000 ticks, and does so again until it is 5 degrees below (R366). -/
def ThrottlingAndTransitions : Prop :=
  ∀ (m n : Nat) (temp : BitVec 16) (s : State),
    let d := m * 8 + n % 8
    ((s.die d).halted = true → Does (.vfTransitionEnd m n) s fun t =>
      OnlyDie d s t ∧ t.die d = { s.die d with halted := false, since := s.time } ∧ t.dieCycle d = s.dieCycle d) ∧
    ((s.die d).halted = false → Does (.vfTransitionEnd m n) s fun t => t = s) ∧
    (164 ≤ n → Does (.thermalThrottle m (n, temp)) s fun t => t = s) ∧
    (128 ≤ n → n < 132 → Does (.thermalThrottle m (n, temp)) s fun t =>
      OnlyModule m s t ∧ t.module m = { s.module m with temp := SMap.set (s.module m).temp n temp }) ∧
    (∀ p ∈ [(m * 8 + n / 16, 1680, decide (n < 128)), (m * 8 + (n - 132) / 4, 1520, decide (132 ≤ n ∧ n < 164))], p.2.2 = true →
      let e := p.1
      let limit : Int := p.2.1
      let due := ∀ k, (s.die e).heatTick = some k → k + 10000 ≤ s.time / tickUnits
      let Read (t : State) : Prop := SMap.get? (t.module m).temp n = some temp ∧
        { t.module m with temp := (s.module m).temp, hot := (s.module m).hot } = s.module m ∧ (∀ k, k ≠ m → t.module k = s.module k)
      (limit ≤ temp.toInt → Does (.thermalThrottle m (n, temp)) s fun t => Read t ∧ n ∈ (t.module m).hot ∧
        (due → (t.die e).vf = (s.die e).vf - 1 ∧ (t.die e).heatTick = some (s.time / tickUnits) ∧
          ((s.die e).vf ≠ 0 → MovedVf e ((s.die e).vf - 1) 2 s t)) ∧
        (¬due → { t with modules := s.modules } = s ∧ SameBytes s t)) ∧
      (temp.toInt < limit → Does (.thermalThrottle m (n, temp)) s fun t => Read t ∧ { t with modules := s.modules } = s ∧ SameBytes s t ∧
        (temp.toInt ≤ limit - 80 → n ∉ (t.module m).hot) ∧
        (limit - 80 < temp.toInt → (t.module m).hot = (s.module m).hot))) ∧
    (let e := m * 8 + n / 16;
      n < 128 → n ∈ (s.module m).hot → (∀ k, (s.die e).heatTick = some k → k + 10000 ≤ s.time / tickUnits) →
      ∃ u, s.heatStep e = some u ∧ (u.die e).vf = (s.die e).vf - 1 ∧ (u.die e).heatTick = some (s.time / tickUnits))

/-- A trip stops every core of the module, takes its Firn ports down, ends a save that was decided, and leaves ERR 6 with READY 0 (R366). What the
module's registers and its memory hold then is undefined, and nothing is said of it; Moraine memory and the other modules keep theirs. -/
def ThermalTrip : Prop :=
  ∀ (m : Nat) (s : State),
    Does (.thermalTrip m) s fun t =>
      t.module m = { s.module m with tripped := true, err := 6, ready := false, booting := none } ∧ (∀ k, k ≠ m → t.module k = s.module k) ∧
      t.present = s.present.filter (· ≠ m) ∧ (∀ g, g / 1024 = m → g < 2 ^ 20 → t.issueSlot g = none) ∧
      (∀ c, clusterModule c = m → t.cluster c = { s.cluster c with saving := none, restoring := none, preBusy := false }) ∧
      (∀ c, clusterModule c ≠ m → t.cluster c = s.cluster c) ∧ (∀ v, threadModule v ≠ m → t.thr v = s.thr v) ∧
      t.switches = s.switches ∧ t.net = s.net ∧ t.records = s.records ∧ ∀ l, 2 ^ 62 ≤ l ∨ l / 2 ^ 52 ≠ m → Memory.get t.mem l = Memory.get s.mem l

/-- An ageing sample holds the margins of a die, in units of 5 mV, and the voltages for its VF states, and lowers its VFCAP below the first state
that cannot keep 10 mV; it never raises it (R367). A soft error is counted in its field of SECNT,
which saturates; an uncorrectable one stays in its byte, register word or accumulator element (R285, R368). -/
def AgeingAndSoftErrors : Prop :=
  ∀ (m die kind loc : Nat) (margins : BitVec 64) (volts : List Nat) (s : State), die < 8 → kind < 4 →
    let x := s.module m
    let old := SMap.getD x.secnt die 0
    let cap (v : Word) (i : Nat) := v.toNat / 2 ^ (4 * i) % 16
    let Counted (t : State) : Prop :=
      let new := SMap.getD (t.module m).secnt die 0
      (∀ j < 4, new.toNat / 2 ^ (16 * j) % 2 ^ 16 =
        if j = kind then min 65535 (old.toNat / 2 ^ (16 * j) % 2 ^ 16 + 1) else old.toNat / 2 ^ (16 * j) % 2 ^ 16) ∧
      (∀ i, i ≠ die → SMap.getD (t.module m).secnt i 0 = SMap.getD x.secnt i 0) ∧
      { t.module m with secnt := x.secnt } = x ∧ (∀ k, k ≠ m → t.module k = s.module k)
    let d := m * 8 + die
    Does (.ageingSample m die margins volts) s (fun t =>
      SMap.getD (t.module m).margin die 0 = margins ∧ (∀ k, k ≠ m → t.module k = s.module k) ∧
      (∀ k, k < 16 → cap margins k < 2 → (∀ j, j < k → 2 ≤ cap margins j) → cap (t.module m).vfcap die = min (cap x.vfcap die) (k - 1)) ∧
      ((∀ k, k < 16 → 2 ≤ cap margins k) → cap (t.module m).vfcap die = cap x.vfcap die) ∧
      t.die d = { s.die d with volts := volts } ∧ (∀ e, e ≠ d → t.die e = s.die e) ∧
      { t with modules := s.modules, dies := s.dies } = s ∧ SameBytes s t ∧
      (∀ i < 8, i ≠ die → cap (t.module m).vfcap i = cap x.vfcap i ∧ SMap.getD (t.module m).margin i 0 = SMap.getD x.margin i 0) ∧
      { t.module m with margin := x.margin, vfcap := x.vfcap } = x) ∧
    (kind = 0 ∨ kind = 2 → Does (.softError m die kind (some loc)) s fun t => Counted t ∧ { t with modules := s.modules } = s ∧ SameBytes s t) ∧
    (kind = 1 ∨ kind = 3 → Does (.softError m die kind none) s fun t => Counted t ∧ { t with modules := s.modules } = s ∧ SameBytes s t) ∧
    (kind = 1 ∨ kind = 3 → loc < 2 ^ 70 → Does (.softError m die kind (some loc)) s fun t =>
      Counted t ∧ loc ∈ t.badMem ∧ (∀ l, l ≠ loc → (l ∈ t.badMem ↔ l ∈ s.badMem)) ∧
      { t with modules := s.modules, badMem := s.badMem } = s ∧ SameBytes s t) ∧
    (kind = 1 → ∀ g < 2 ^ 20, ∀ r < 4096, ∀ i < 32,
      Does (.softError m die kind (some (2 ^ 70 + (g * 4096 + r) * 32 + i))) s fun t =>
        Counted t ∧ (SMap.getD t.badRegs (g * 4096 + r) 0).getLsbD i = true ∧
        (∀ k, k ≠ g * 4096 + r → SMap.getD t.badRegs k 0 = SMap.getD s.badRegs k 0) ∧
        { t with modules := s.modules, badRegs := s.badRegs } = s ∧ SameBytes s t) ∧
    (kind = 1 → ∀ g < 2 ^ 20, ∀ k < 32, ∀ e < 256,
      Does (.softError m die kind (some (2 ^ 71 + (g * 32 + k) * 256 + e))) s fun t =>
        Counted t ∧ (SMap.getD t.badAccs (g * 32 + k) 0).getLsbD e = true ∧
        (∀ j, j ≠ g * 32 + k → SMap.getD t.badAccs j 0 = SMap.getD s.badAccs j 0) ∧
        { t with modules := s.modules, badAccs := s.badAccs } = s ∧ SameBytes s t)

end Claim

/-- Power, temperature, ageing and soft errors: `Claim.PowerCheck`, `Claim.ThrottlingAndTransitions`, `Claim.ThermalTrip`,
`Claim.AgeingAndSoftErrors`. -/
def Obligations.PowerAndErrors : Prop := Claim.PowerCheck ∧ Claim.ThrottlingAndTransitions ∧ Claim.ThermalTrip ∧ Claim.AgeingAndSoftErrors

namespace Claim

/-- A write of a control register by the management cluster, after boot: PLIM is kept between 3,000 and 6,400 W, VFCAP, FQMAX and SECNT take the
value, CTXTAB and PEERTAB their address bits; before READY, at an address outside the range or not a multiple of 8, and at a read-only register
nothing happens (R6, R359, R360, R128, R135). -/
def RegisterWrites : Prop :=
  ∀ (m pa : Nat) (v : BitVec 64) (s : State),
    let x := s.module m
    let off := pa - ctlBase
    let Is (y : Module) (t : State) : Prop := OnlyModule m s t ∧ t.module m = y
    (x.ready = false ∨ inCtl pa = false ∨ pa % 8 ≠ 0 → Does (.registerWrite m pa v) s fun t => t = s) ∧
    (x.ready = true → inCtl pa = true → pa % 8 = 0 →
      (off = 0x20000008 → Does (.registerWrite m pa v) s (Is { x with plim := max 3000 (min 6400 (v.toNat % 65536)) })) ∧
      (off = 0x20000018 → Does (.registerWrite m pa v) s (Is { x with vfcap := v &&& 0xFFFFFFFF })) ∧
      (off = 0x20000020 → Does (.registerWrite m pa v) s (Is { x with fqmax := v &&& 0xFFFFFFFF })) ∧
      (∀ d < 8, off = 0x20000A00 + 8 * d → Does (.registerWrite m pa v) s (Is { x with secnt := SMap.set x.secnt d v })) ∧
      (off = 0x20000000 ∨ off = 0x20000010 → Does (.registerWrite m pa v) s (Is x)) ∧
      (off = 0x200 → Does (.registerWrite m pa v) s (Is { x with ctxtab := v &&& 0x000FFFFFFFF00000 })) ∧
      (off = 0x208 → Does (.registerWrite m pa v) s (Is { x with peertab := v &&& 0x000FFFFFFFF00000 })) ∧
      (off = 0x100 → x.launch = none → Does (.registerWrite m pa v) s (Is { x with launch := some v })) ∧
      (off = 0x108 → Does (.registerWrite m pa v) s (Is { x with rgnLost := x.rgnLost && !v.getLsbD 62 })))

/-- An access of 1 to 8 bytes by the host. To memory that nothing holds, a write changes those bytes alone and a read returns them, lowest
address first; while an engine holds a line of it, it waits (R167). A read of PLSTAT, before READY too, returns STAGE, ERR and READY, and one of
RGNSTAT returns the state of the launch; a write of RGNSTART after boot asks for a launch, and one before is ignored (R172, R359, R360, R27). That an
access of no byte or of more than 8, and one that reaches an address with nothing behind it or, at a register, is not its 8 bytes, completes without an
effect, is the model's reading (DEDUCED, log 56). -/
def HostAccess : Prop :=
  ∀ (m pa n : Nat) (v : BitVec 64) (s : State),
    let x := s.module m
    let Reads (w : Nat) (t : State) : Prop := OnlyModule m s t ∧ t.module m = { x with hostRead := some (BitVec.ofNat 64 w) }
    let memory := 1 ≤ n ∧ n ≤ 8 ∧ inCtl pa = false ∧ ∀ j < n, assigned (pa + j) = true ∧ inCtl (pa + j) = false
    (¬memory → ¬(inCtl pa = true ∧ n = 8 ∧ pa % 8 = 0) →
      Does (.hostAccess m (pa, n) true v) s (fun t => t = s) ∧ Does (.hostAccess m (pa, n) false v) s fun t => t = s) ∧
    (memory → (∃ j, j < n ∧ lineOf (locOf m pa + j) ∈ s.xlines) →
      Does (.hostAccess m (pa, n) true v) s (fun t => t = s) ∧ Does (.hostAccess m (pa, n) false v) s fun t => t = s) ∧
    (memory → (∀ j, j < n → lineOf (locOf m pa + j) ∉ s.xlines) → (∀ k, s.holders k = []) → s.dirQueue = [] →
      (∀ j, j < n → SameKey s 0 (locOf m pa + j)) →
      Does (.hostAccess m (pa, n) true v) s (fun t =>
        (∀ j < n, Memory.get t.mem (locOf m pa + j) = BitVec.ofNat 8 (v.toNat / 2 ^ (8 * j))) ∧
        SameBytesBut ((List.range n).map fun j => locOf m pa + j) s t ∧ t.threads = s.threads ∧ t.cores = s.cores ∧ t.modules = s.modules) ∧
      (x.tripped = false → (∀ j < n, locOf m pa + j ∉ s.badMem) → Does (.hostAccess m (pa, n) false v) s
        (Reads ((List.range n).foldl (fun y j => y + (Memory.get s.mem (locOf m pa + j)).toNat * 2 ^ (8 * j)) 0)))) ∧
    (pa = ctlBase + 0x20000000 → Does (.hostAccess m (pa, 8) false v) s (Reads (x.stage + x.err * 2 ^ 8 + if x.ready then 2 ^ 63 else 0))) ∧
    (pa = ctlBase + 0x108 → x.ready = true → Does (.hostAccess m (pa, 8) false v) s (Reads
      (x.rgnCode + x.rgnNum * 16 + (if x.rgnLost then 2 ^ 62 else 0) + if x.launch.isSome then 2 ^ 63 else 0))) ∧
    (pa = ctlBase + 0x100 → x.ready = true → x.launch = none →
      Does (.hostAccess m (pa, 8) true v) s fun t => OnlyModule m s t ∧ t.module m = { x with launch := some v }) ∧
    (pa = ctlBase + 0x200 → x.ready = true → Does (.hostAccess m (pa, 8) true v) s fun t => OnlyModule m s t ∧ t.module m = x) ∧
    (pa = ctlBase + 0x100 → x.ready = false → Does (.hostAccess m (pa, 8) true v) s fun t => t = s)

/-- A pod's configuration gives its modules their place in the fabric and its switches their routes to the other pods; numbers of other pods, and
pods that do not exist, are left out (R17, R322). A tenant's quota on a switch is set and nothing else (R327). -/
def PodAndQuota : Prop :=
  ∀ (pod : Nat) (mods : List Nat) (sw ctx pages : Nat) (s : State),
    (13 ≤ pod → Does (.podConfiguration pod mods) s fun t => t = s) ∧
    (pod < 13 → Does (.podConfiguration pod mods) s fun t =>
      (∀ k, k ∈ t.present ↔ k ∈ s.present ∨ (k ∈ mods ∧ k / 72 = pod ∧ k ≤ 935)) ∧
      (∀ i < 16, (t.switch (pod * 16 + i)).routes.length = 52 ∧ ((t.switch (pod * 16 + i)).routes.all fun r => decide (r < 13)) = true ∧
        { t.switch (pod * 16 + i) with routes := (s.switch (pod * 16 + i)).routes } = s.switch (pod * 16 + i)) ∧
      (∀ w, w / 16 ≠ pod → t.switch w = s.switch w) ∧
      { t with present := s.present, switches := s.switches, fresh := s.fresh } = s ∧ SameBytes s t) ∧
    Does (.tenantQuota sw ctx pages) s fun t =>
      SMap.get? (t.switch sw).quota (ctx % 65536) = some pages ∧
      (∀ c, c ≠ ctx % 65536 → SMap.get? (t.switch sw).quota c = SMap.get? (s.switch sw).quota c) ∧
      { t.switch sw with quota := (s.switch sw).quota } = s.switch sw ∧ (∀ w, w ≠ sw → t.switch w = s.switch w) ∧
      { t with switches := s.switches } = s ∧ SameBytes s t

/-- What the management cluster does to a module in service (R365 to R368): above the limit by more than 200 W each die above vf0 moves down, a
sensor of a die at its limit moves its die down, a transition ends, an ageing sample holds its margins, an error is counted, and a trip takes
the module out of service. -/
def Upkeep : Prop :=
  ∀ (m n watts : Nat) (temp : BitVec 16) (margins : BitVec 64) (volts : List Nat) (s : State), n < 8 →
    let x := s.module m
    let d := m * 8 + n
    (x.ready = true → x.powerTick < s.time / tickUnits / 10000 → x.plim + 200 < watts → Does (.powerLimitCheck m watts n) s fun t =>
      (t.module m).pwr = watts % 65536 ∧ ∀ i < 8, (t.die (m * 8 + i)).vf = (s.die (m * 8 + i)).vf - 1) ∧
    ((s.die d).vf ≠ 0 → (s.die d).heatTick = none → 1680 ≤ temp.toInt → Does (.thermalThrottle m (16 * n, temp)) s fun t =>
      (t.die d).vf = (s.die d).vf - 1 ∧ (t.die d).halted = true ∧ ∀ e, e ≠ d → t.die e = s.die e) ∧
    ((s.die d).halted = true → Does (.vfTransitionEnd m n) s fun t =>
      OnlyDie d s t ∧ (t.die d).halted = false ∧ (t.die d).vf = (s.die d).vf) ∧
    (Does (.ageingSample m n margins volts) s fun t => { t with modules := s.modules, dies := s.dies } = s ∧
      SMap.getD (t.module m).margin n 0 = margins ∧ (t.die d).volts = volts) ∧
    (Does (.softError m n 0 none) s fun t =>
      OnlyModule m s t ∧ (SMap.getD (t.module m).secnt n 0).toNat % 65536 = min 65535 ((SMap.getD x.secnt n 0).toNat % 65536 + 1)) ∧
    (Does (.thermalTrip m) s fun t => (t.module m).err = 6 ∧ (t.module m).ready = false ∧ m ∉ t.present ∧
      ∀ g, g / 1024 = m → g < 2 ^ 20 → t.issueSlot g = none)

end Claim

/-- Boot, attestation, keys, registers, the host and the pod, and the upkeep of a module: `Claim.Boot`, `Claim.Attestation`, `Claim.KeyLoad`, `Claim.RegisterWrites`,
`Claim.HostAccess`, `Claim.PodAndQuota`, `Claim.Upkeep`. -/
def Obligations.PlatformServices : Prop :=
  Claim.Boot ∧ Claim.Attestation ∧ Claim.KeyLoad ∧ Claim.RegisterWrites ∧ Claim.HostAccess ∧ Claim.PodAndQuota ∧ Claim.Upkeep
end

