-- ==== Sys2Proof/Laws/Maps.lean ====
section
/-! SUPPORT. Laws of maps and of memory: read after write, the other places, the canonical form, and little-endian numbers. -/

namespace Sys2Proof.Machine

/-! ### Maps -/

@[simp] theorem SMap.get?_nil {α : Type} (k : Nat) : SMap.get? ([] : SMap α) k = none := rfl

@[simp] theorem SMap.getD_nil {α : Type} (k : Nat) (z : α) : SMap.getD ([] : SMap α) k z = z := rfl

theorem SMap.get?_set {α : Type} (m : SMap α) (k j : Nat) (v : α) :
    SMap.get? (SMap.set m k v) j = if j = k then some v else SMap.get? m j := by
  induction m with
  | nil => by_cases h : k = j <;> simp [SMap.set, SMap.get?, h, eq_comm]
  | cons e m ih =>
    obtain ⟨i, w⟩ := e
    simp only [SMap.set]
    split
    · next h =>
      subst h
      by_cases hj : i = j
      · simp [SMap.get?, hj]
      · simp [SMap.get?, hj, Ne.symm hj]
    · split
      · by_cases hj : k = j <;> simp [SMap.get?, hj, eq_comm]
      · next h _ =>
        simp only [SMap.get?, ih]
        by_cases hi : i = j
        · subst hi; simp [h]
        · simp [hi]

@[simp] theorem SMap.get?_set_self {α : Type} (m : SMap α) (k : Nat) (v : α) : SMap.get? (SMap.set m k v) k = some v := by
  simp [SMap.get?_set]

theorem SMap.get?_set_ne {α : Type} (m : SMap α) {k j : Nat} (v : α) (h : j ≠ k) :
    SMap.get? (SMap.set m k v) j = SMap.get? m j := by simp [SMap.get?_set, h]

@[simp] theorem SMap.getD_set_self {α : Type} (m : SMap α) (k : Nat) (v z : α) : SMap.getD (SMap.set m k v) k z = v := by
  simp [SMap.getD]

theorem SMap.getD_set_ne {α : Type} (m : SMap α) {k j : Nat} (v z : α) (h : j ≠ k) :
    SMap.getD (SMap.set m k v) j z = SMap.getD m j z := by simp [SMap.getD, SMap.get?_set_ne m v h]

theorem SMap.getD_set {α : Type} (m : SMap α) (k j : Nat) (v z : α) :
    SMap.getD (SMap.set m k v) j z = if j = k then v else SMap.getD m j z := by
  by_cases h : j = k
  · subst h; simp
  · simp [h, SMap.getD_set_ne]

theorem SMap.get?_filter {α : Type} (m : SMap α) (p : Nat → Bool) (j : Nat) :
    SMap.get? (m.filter fun e => p e.1) j = if p j then SMap.get? m j else none := by
  induction m with
  | nil => simp
  | cons e m ih =>
    obtain ⟨i, w⟩ := e
    by_cases hp : p i
    · simp only [List.filter_cons, hp, if_true, SMap.get?, ih]
      by_cases hi : i = j
      · subst hi; simp [hp]
      · simp [hi]
    · rw [List.filter_cons_of_neg (by simpa using hp), ih]
      by_cases hi : i = j
      · subst hi; simp [hp]
      · simp [SMap.get?, hi]

theorem SMap.get?_erase {α : Type} (m : SMap α) (k j : Nat) :
    SMap.get? (SMap.erase m k) j = if j = k then none else SMap.get? m j := by
  have h := SMap.get?_filter m (fun i => decide (i ≠ k)) j
  by_cases hj : j = k <;> simp_all [SMap.erase]

@[simp] theorem SMap.get?_erase_self {α : Type} (m : SMap α) (k : Nat) : SMap.get? (SMap.erase m k) k = none := by
  simp [SMap.get?_erase]

theorem SMap.get?_erase_ne {α : Type} (m : SMap α) {k j : Nat} (h : j ≠ k) :
    SMap.get? (SMap.erase m k) j = SMap.get? m j := by simp [SMap.get?_erase, h]

theorem SMap.getD_erase_ne {α : Type} (m : SMap α) {k j : Nat} (z : α) (h : j ≠ k) :
    SMap.getD (SMap.erase m k) j z = SMap.getD m j z := by simp [SMap.getD, SMap.get?_erase_ne m h]

@[simp] theorem SMap.getD_erase_self {α : Type} (m : SMap α) (k : Nat) (z : α) : SMap.getD (SMap.erase m k) k z = z := by
  simp [SMap.getD]

/-! ### Memory: reads -/

/-- Writing one byte leaves every other byte alone, whatever the memory's form. -/
theorem Memory.get_set_ne (m : Memory) {k j : Nat} (v : Byte) (h : j ≠ k) : Memory.get (Memory.set m k v) j = Memory.get m j := by
  induction m with
  | nil =>
    simp only [Memory.set]
    split
    · rfl
    · simp [Memory.get, SMap.getD, SMap.get?, Ne.symm h]
  | cons e m ih =>
    obtain ⟨i, w⟩ := e
    simp only [Memory.get, SMap.getD] at ih
    simp only [Memory.set, Memory.get, SMap.getD]
    split
    · next hi => subst hi; split <;> simp [SMap.get?, Ne.symm h]
    · split
      · split <;> simp [SMap.get?, Ne.symm h]
      · by_cases hi : i = j <;> simp [SMap.get?, hi, ih]

/-! ### Memory: the canonical form -/

theorem Memory.wfFrom_mono {a b : Nat} {m : Memory} (h : Memory.wfFrom (some b) m = true) (hab : a ≤ b) :
    Memory.wfFrom (some a) m = true := by
  cases m with
  | nil => rfl
  | cons e m =>
    simp only [Memory.wfFrom, Bool.and_eq_true, decide_eq_true_eq] at h ⊢
    exact ⟨⟨by omega, h.1.2⟩, h.2⟩

theorem Memory.wf_of_wfFrom {a : Nat} {m : Memory} (h : Memory.wfFrom (some a) m = true) : Memory.wf m = true := by
  cases m with
  | nil => rfl
  | cons e m =>
    simp only [Memory.wf, Memory.wfFrom, Bool.and_eq_true, decide_eq_true_eq] at h ⊢
    exact ⟨⟨trivial, h.1.2⟩, h.2⟩

/-- A byte below every listed location is not listed. -/
theorem Memory.get?_below {a k : Nat} {m : Memory} (h : Memory.wfFrom (some a) m = true) (hk : k ≤ a) : SMap.get? m k = none := by
  induction m generalizing a with
  | nil => rfl
  | cons e m ih =>
    obtain ⟨i, w⟩ := e
    simp only [Memory.wfFrom, Bool.and_eq_true, decide_eq_true_eq] at h
    have : i ≠ k := by omega
    simp [SMap.get?, this, ih h.2 (by omega)]

theorem Memory.wfFrom_set {m : Memory} (lo : Option Nat) (k : Nat) (v : Byte) (h : Memory.wfFrom lo m = true)
    (hk : ∀ l, lo = some l → l < k) : Memory.wfFrom lo (Memory.set m k v) = true := by
  induction m generalizing lo with
  | nil =>
    simp only [Memory.set]
    split
    · rfl
    · next hv => cases lo <;> simp_all [Memory.wfFrom]
  | cons e m ih =>
    obtain ⟨i, w⟩ := e
    simp only [Memory.wfFrom, Bool.and_eq_true, decide_eq_true_eq] at h
    simp only [Memory.set]
    split
    · next hi =>
      subst hi
      split
      · cases lo with
        | none => exact Memory.wf_of_wfFrom h.2
        | some l => exact Memory.wfFrom_mono h.2 (by have := hk l rfl; omega)
      · next hv => simp [Memory.wfFrom, h.1.1, h.2, hv]
    · split
      · next hlt =>
        split
        · simp [Memory.wfFrom, h.1.1, h.1.2, h.2]
        · next hv =>
          simp only [Memory.wfFrom, Bool.and_eq_true, decide_eq_true_eq]
          refine ⟨⟨?_, hv⟩, ⟨hlt, h.1.2⟩, h.2⟩
          cases lo with
          | none => rfl
          | some l => simpa using hk l rfl
      · next hne hlt =>
        simp only [Memory.wfFrom, Bool.and_eq_true, decide_eq_true_eq]
        exact ⟨h.1, ih (some i) h.2 (by intro l hl; cases hl; omega)⟩

/-- Writing a byte keeps the canonical form. -/
theorem Memory.wf_set {m : Memory} (k : Nat) (v : Byte) (h : Memory.wf m = true) : Memory.wf (Memory.set m k v) = true :=
  Memory.wfFrom_set none k v h (by intro l hl; cases hl)

/-- Writing cells keeps the canonical form. -/
theorem Memory.wf_setAll {m : Memory} (cells : List (Nat × Byte)) (h : Memory.wf m = true) :
    Memory.wf (Memory.setAll m cells) = true := by
  induction cells generalizing m with
  | nil => exact h
  | cons c cells ih => exact ih (Memory.wf_set c.1 c.2 h)

theorem Memory.wfFrom_filter {m : Memory} (lo : Option Nat) (p : Nat × Byte → Bool) (h : Memory.wfFrom lo m = true) :
    Memory.wfFrom lo (m.filter p) = true := by
  induction m generalizing lo with
  | nil => rfl
  | cons e m ih =>
    obtain ⟨i, w⟩ := e
    simp only [Memory.wfFrom, Bool.and_eq_true, decide_eq_true_eq] at h
    by_cases hp : p (i, w)
    · simp only [List.filter_cons, hp, if_true, Memory.wfFrom, Bool.and_eq_true, decide_eq_true_eq]
      exact ⟨h.1, ih (some i) h.2⟩
    · have h2 := ih (some i) h.2
      simp only [List.filter_cons, hp]
      cases lo with
      | none => exact Memory.wf_of_wfFrom h2
      | some l =>
        have : l < i := by simpa using h.1.1
        exact Memory.wfFrom_mono h2 (by omega)

/-- Removing listed bytes keeps the canonical form. -/
theorem Memory.wf_filter {m : Memory} (p : Nat × Byte → Bool) (h : Memory.wf m = true) : Memory.wf (m.filter p) = true :=
  Memory.wfFrom_filter none p h

/-- Zeroing a range keeps the canonical form. -/
theorem Memory.wf_zero {m : Memory} (k n : Nat) (h : Memory.wf m = true) : Memory.wf (Memory.zero m k n) = true :=
  Memory.wf_filter _ h

/-- Read after write, in a memory of canonical form. -/
theorem Memory.get_set_self {m : Memory} (k : Nat) (v : Byte) (h : Memory.wf m = true) : Memory.get (Memory.set m k v) k = v := by
  suffices H : ∀ lo, Memory.wfFrom lo m = true → Memory.get (Memory.set m k v) k = v from H none h
  clear h
  induction m with
  | nil =>
    intro lo _
    simp only [Memory.set]
    split
    · next hv => simp [Memory.get, hv]
    · simp [Memory.get, SMap.getD, SMap.get?]
  | cons e m ih =>
    intro lo h
    obtain ⟨i, w⟩ := e
    simp only [Memory.wfFrom, Bool.and_eq_true, decide_eq_true_eq] at h
    simp only [Memory.set]
    split
    · next hi =>
      subst hi
      split
      · next hv => simp [Memory.get, SMap.getD, Memory.get?_below h.2 (le_refl i), hv]
      · simp [Memory.get, SMap.getD, SMap.get?]
    · next hne =>
      split
      · next hlt =>
        split
        · next hv => simp [Memory.get, SMap.getD, SMap.get?, hne, Memory.get?_below h.2 (by omega : k ≤ i), hv]
        · simp [Memory.get, SMap.getD, SMap.get?]
      · have := ih (some i) h.2
        simpa [Memory.get, SMap.getD, SMap.get?, hne] using this

/-- A byte after one write, in a memory of canonical form. -/
theorem Memory.get_set {m : Memory} (k j : Nat) (v : Byte) (h : Memory.wf m = true) :
    Memory.get (Memory.set m k v) j = if j = k then v else Memory.get m j := by
  by_cases hj : j = k
  · subst hj; simp [Memory.get_set_self j v h]
  · simp [hj, Memory.get_set_ne m v hj]

/-- Cells that are written leave the other bytes alone. -/
theorem Memory.get_setAll_ne (m : Memory) (cells : List (Nat × Byte)) {j : Nat} (h : ∀ c ∈ cells, c.1 ≠ j) :
    Memory.get (Memory.setAll m cells) j = Memory.get m j := by
  induction cells generalizing m with
  | nil => rfl
  | cons c cells ih =>
    simp only [Memory.setAll, List.foldl_cons] at ih ⊢
    rw [ih _ fun x hx => h x (by simp [hx]), Memory.get_set_ne m c.2 (Ne.symm (h c (by simp)))]

/-- A byte after a range is zeroed. -/
theorem Memory.get_zero (m : Memory) (k n j : Nat) :
    Memory.get (Memory.zero m k n) j = if k ≤ j ∧ j < k + n then Memory.unlisted else Memory.get m j := by
  have h := SMap.get?_filter m (fun i => decide (i < k) || decide (k + n ≤ i)) j
  simp only [Memory.get, SMap.getD, Memory.zero, h]
  by_cases hj : k ≤ j ∧ j < k + n
  · have h1 : ¬ j < k := by omega
    have h2 : ¬ k + n ≤ j := by omega
    simp [hj, h1, h2]
  · by_cases h1 : j < k
    · simp [h1, hj]
    · have h2 : k + n ≤ j := by omega
      simp [h2, hj]

/-! ### Little-endian numbers (R2) -/

@[simp] theorem leBytes_length (n v : Nat) : (leBytes n v).length = n := by
  induction n generalizing v with
  | zero => rfl
  | succ n ih => simp [leBytes, ih]

theorem leNat_leBytes (n v : Nat) : leNat (leBytes n v) = v % 2 ^ (8 * n) := by
  induction n generalizing v with
  | zero => simp [leBytes, leNat, Nat.mod_one]
  | succ n ih =>
    have h : 2 ^ (8 * (n + 1)) = 256 * 2 ^ (8 * n) := by rw [show 8 * (n + 1) = 8 + 8 * n from by ring, Nat.pow_add]
    simp only [leBytes, leNat, ih, BitVec.toNat_ofNat, h, Nat.mod_mul]

@[simp] theorem cellsAt_length (k : Nat) (bs : List Byte) : (cellsAt k bs).length = bs.length := by
  induction bs generalizing k with
  | nil => rfl
  | cons b bs ih => simp [cellsAt, ih]

/-- The locations of consecutive cells. -/
theorem cellsAt_fst (k : Nat) (bs : List Byte) : (cellsAt k bs).map (·.1) = (List.range bs.length).map (k + ·) := by
  induction bs generalizing k with
  | nil => rfl
  | cons b bs ih =>
    simp only [cellsAt, List.map_cons, ih, List.length_cons, List.range_succ_eq_map, List.map_map]
    simp only [Nat.add_zero, List.cons.injEq, true_and]
    refine List.map_congr_left fun i _ => ?_
    simp only [Function.comp]
    omega

end Sys2Proof.Machine
end

