-- ==== Sys2Proof/Laws/State.lean ====
section
/-! SUPPORT. The fields of the state after each update, and the parts that the accessors read. -/

namespace Sys2Proof.Machine

/-! ### `setThr` -/

@[simp] theorem State.dirQueue_setThr (s : State) (t : Nat) (x : Thread) : (s.setThr t x).dirQueue = s.dirQueue := rfl
@[simp] theorem State.cores_setThr (s : State) (t : Nat) (x : Thread) : (s.setThr t x).cores = s.cores := rfl
@[simp] theorem State.clusters_setThr (s : State) (t : Nat) (x : Thread) : (s.setThr t x).clusters = s.clusters := rfl
@[simp] theorem State.dies_setThr (s : State) (t : Nat) (x : Thread) : (s.setThr t x).dies = s.dies := rfl
@[simp] theorem State.modules_setThr (s : State) (t : Nat) (x : Thread) : (s.setThr t x).modules = s.modules := rfl
@[simp] theorem State.switches_setThr (s : State) (t : Nat) (x : Thread) : (s.setThr t x).switches = s.switches := rfl
@[simp] theorem State.present_setThr (s : State) (t : Nat) (x : Thread) : (s.setThr t x).present = s.present := rfl
@[simp] theorem State.mem_setThr (s : State) (t : Nat) (x : Thread) : (s.setThr t x).mem = s.mem := rfl
@[simp] theorem State.lineKey_setThr (s : State) (t : Nat) (x : Thread) : (s.setThr t x).lineKey = s.lineKey := rfl
@[simp] theorem State.badMem_setThr (s : State) (t : Nat) (x : Thread) : (s.setThr t x).badMem = s.badMem := rfl
@[simp] theorem State.badRegs_setThr (s : State) (t : Nat) (x : Thread) : (s.setThr t x).badRegs = s.badRegs := rfl
@[simp] theorem State.badAccs_setThr (s : State) (t : Nat) (x : Thread) : (s.setThr t x).badAccs = s.badAccs := rfl
@[simp] theorem State.frameOwner_setThr (s : State) (t : Nat) (x : Thread) : (s.setThr t x).frameOwner = s.frameOwner := rfl
@[simp] theorem State.xlines_setThr (s : State) (t : Nat) (x : Thread) : (s.setThr t x).xlines = s.xlines := rfl
@[simp] theorem State.images_setThr (s : State) (t : Nat) (x : Thread) : (s.setThr t x).images = s.images := rfl
@[simp] theorem State.records_setThr (s : State) (t : Nat) (x : Thread) : (s.setThr t x).records = s.records := rfl
@[simp] theorem State.net_setThr (s : State) (t : Nat) (x : Thread) : (s.setThr t x).net = s.net := rfl
@[simp] theorem State.egress_setThr (s : State) (t : Nat) (x : Thread) : (s.setThr t x).egress = s.egress := rfl
@[simp] theorem State.time_setThr (s : State) (t : Nat) (x : Thread) : (s.setThr t x).time = s.time := rfl
@[simp] theorem State.agenda_setThr (s : State) (t : Nat) (x : Thread) : (s.setThr t x).agenda = s.agenda := rfl
@[simp] theorem State.cur_setThr (s : State) (t : Nat) (x : Thread) : (s.setThr t x).cur = s.cur := rfl
@[simp] theorem State.fresh_setThr (s : State) (t : Nat) (x : Thread) : (s.setThr t x).fresh = s.fresh := rfl

theorem State.thr_setThr (s : State) (t : Nat) (x : Thread) (j : Nat) : (s.setThr t x).thr j = if j = t then x else s.thr j := by
  simp [State.thr, State.setThr, SMap.getD_set]

@[simp] theorem State.thr_setThr_self (s : State) (t : Nat) (x : Thread) : (s.setThr t x).thr t = x := by
  simp [State.thr_setThr]

theorem State.thr_setThr_ne (s : State) {t j : Nat} (x : Thread) (h : j ≠ t) : (s.setThr t x).thr j = s.thr j := by
  simp [State.thr_setThr, h]

@[simp] theorem State.core_setThr (s : State) (t : Nat) (x : Thread) (j : Nat) : (s.setThr t x).core j = s.core j := rfl
@[simp] theorem State.cluster_setThr (s : State) (t : Nat) (x : Thread) (j : Nat) : (s.setThr t x).cluster j = s.cluster j := rfl
@[simp] theorem State.die_setThr (s : State) (t : Nat) (x : Thread) (j : Nat) : (s.setThr t x).die j = s.die j := rfl
@[simp] theorem State.module_setThr (s : State) (t : Nat) (x : Thread) (j : Nat) : (s.setThr t x).module j = s.module j := rfl
@[simp] theorem State.switch_setThr (s : State) (t : Nat) (x : Thread) (j : Nat) : (s.setThr t x).switch j = s.switch j := rfl

/-! ### `setCore` -/

@[simp] theorem State.dirQueue_setCore (s : State) (g : Nat) (x : Core) : (s.setCore g x).dirQueue = s.dirQueue := rfl
@[simp] theorem State.threads_setCore (s : State) (g : Nat) (x : Core) : (s.setCore g x).threads = s.threads := rfl
@[simp] theorem State.clusters_setCore (s : State) (g : Nat) (x : Core) : (s.setCore g x).clusters = s.clusters := rfl
@[simp] theorem State.dies_setCore (s : State) (g : Nat) (x : Core) : (s.setCore g x).dies = s.dies := rfl
@[simp] theorem State.modules_setCore (s : State) (g : Nat) (x : Core) : (s.setCore g x).modules = s.modules := rfl
@[simp] theorem State.switches_setCore (s : State) (g : Nat) (x : Core) : (s.setCore g x).switches = s.switches := rfl
@[simp] theorem State.present_setCore (s : State) (g : Nat) (x : Core) : (s.setCore g x).present = s.present := rfl
@[simp] theorem State.mem_setCore (s : State) (g : Nat) (x : Core) : (s.setCore g x).mem = s.mem := rfl
@[simp] theorem State.lineKey_setCore (s : State) (g : Nat) (x : Core) : (s.setCore g x).lineKey = s.lineKey := rfl
@[simp] theorem State.badMem_setCore (s : State) (g : Nat) (x : Core) : (s.setCore g x).badMem = s.badMem := rfl
@[simp] theorem State.badRegs_setCore (s : State) (g : Nat) (x : Core) : (s.setCore g x).badRegs = s.badRegs := rfl
@[simp] theorem State.badAccs_setCore (s : State) (g : Nat) (x : Core) : (s.setCore g x).badAccs = s.badAccs := rfl
@[simp] theorem State.frameOwner_setCore (s : State) (g : Nat) (x : Core) : (s.setCore g x).frameOwner = s.frameOwner := rfl
@[simp] theorem State.xlines_setCore (s : State) (g : Nat) (x : Core) : (s.setCore g x).xlines = s.xlines := rfl
@[simp] theorem State.images_setCore (s : State) (g : Nat) (x : Core) : (s.setCore g x).images = s.images := rfl
@[simp] theorem State.records_setCore (s : State) (g : Nat) (x : Core) : (s.setCore g x).records = s.records := rfl
@[simp] theorem State.net_setCore (s : State) (g : Nat) (x : Core) : (s.setCore g x).net = s.net := rfl
@[simp] theorem State.egress_setCore (s : State) (g : Nat) (x : Core) : (s.setCore g x).egress = s.egress := rfl
@[simp] theorem State.time_setCore (s : State) (g : Nat) (x : Core) : (s.setCore g x).time = s.time := rfl
@[simp] theorem State.agenda_setCore (s : State) (g : Nat) (x : Core) : (s.setCore g x).agenda = s.agenda := rfl
@[simp] theorem State.cur_setCore (s : State) (g : Nat) (x : Core) : (s.setCore g x).cur = s.cur := rfl
@[simp] theorem State.fresh_setCore (s : State) (g : Nat) (x : Core) : (s.setCore g x).fresh = s.fresh := rfl
@[simp] theorem State.thr_setCore (s : State) (g : Nat) (x : Core) (j : Nat) : (s.setCore g x).thr j = s.thr j := rfl

theorem State.core_setCore (s : State) (g : Nat) (x : Core) (j : Nat) : (s.setCore g x).core j = if j = g then x else s.core j := by
  simp [State.core, State.setCore, SMap.getD_set]

@[simp] theorem State.core_setCore_self (s : State) (g : Nat) (x : Core) : (s.setCore g x).core g = x := by
  simp [State.core_setCore]

theorem State.core_setCore_ne (s : State) {g j : Nat} (x : Core) (h : j ≠ g) : (s.setCore g x).core j = s.core j := by
  simp [State.core_setCore, h]

@[simp] theorem State.cluster_setCore (s : State) (g : Nat) (x : Core) (j : Nat) : (s.setCore g x).cluster j = s.cluster j := rfl
@[simp] theorem State.die_setCore (s : State) (g : Nat) (x : Core) (j : Nat) : (s.setCore g x).die j = s.die j := rfl
@[simp] theorem State.module_setCore (s : State) (g : Nat) (x : Core) (j : Nat) : (s.setCore g x).module j = s.module j := rfl
@[simp] theorem State.switch_setCore (s : State) (g : Nat) (x : Core) (j : Nat) : (s.setCore g x).switch j = s.switch j := rfl

/-! ### `setCluster` -/

@[simp] theorem State.dirQueue_setCluster (s : State) (cl : Nat) (x : Cluster) : (s.setCluster cl x).dirQueue = s.dirQueue := rfl
@[simp] theorem State.threads_setCluster (s : State) (cl : Nat) (x : Cluster) : (s.setCluster cl x).threads = s.threads := rfl
@[simp] theorem State.cores_setCluster (s : State) (cl : Nat) (x : Cluster) : (s.setCluster cl x).cores = s.cores := rfl
@[simp] theorem State.dies_setCluster (s : State) (cl : Nat) (x : Cluster) : (s.setCluster cl x).dies = s.dies := rfl
@[simp] theorem State.modules_setCluster (s : State) (cl : Nat) (x : Cluster) : (s.setCluster cl x).modules = s.modules := rfl
@[simp] theorem State.switches_setCluster (s : State) (cl : Nat) (x : Cluster) : (s.setCluster cl x).switches = s.switches := rfl
@[simp] theorem State.present_setCluster (s : State) (cl : Nat) (x : Cluster) : (s.setCluster cl x).present = s.present := rfl
@[simp] theorem State.mem_setCluster (s : State) (cl : Nat) (x : Cluster) : (s.setCluster cl x).mem = s.mem := rfl
@[simp] theorem State.lineKey_setCluster (s : State) (cl : Nat) (x : Cluster) : (s.setCluster cl x).lineKey = s.lineKey := rfl
@[simp] theorem State.badMem_setCluster (s : State) (cl : Nat) (x : Cluster) : (s.setCluster cl x).badMem = s.badMem := rfl
@[simp] theorem State.badRegs_setCluster (s : State) (cl : Nat) (x : Cluster) : (s.setCluster cl x).badRegs = s.badRegs := rfl
@[simp] theorem State.badAccs_setCluster (s : State) (cl : Nat) (x : Cluster) : (s.setCluster cl x).badAccs = s.badAccs := rfl
@[simp] theorem State.frameOwner_setCluster (s : State) (cl : Nat) (x : Cluster) : (s.setCluster cl x).frameOwner = s.frameOwner := rfl
@[simp] theorem State.xlines_setCluster (s : State) (cl : Nat) (x : Cluster) : (s.setCluster cl x).xlines = s.xlines := rfl
@[simp] theorem State.images_setCluster (s : State) (cl : Nat) (x : Cluster) : (s.setCluster cl x).images = s.images := rfl
@[simp] theorem State.records_setCluster (s : State) (cl : Nat) (x : Cluster) : (s.setCluster cl x).records = s.records := rfl
@[simp] theorem State.net_setCluster (s : State) (cl : Nat) (x : Cluster) : (s.setCluster cl x).net = s.net := rfl
@[simp] theorem State.egress_setCluster (s : State) (cl : Nat) (x : Cluster) : (s.setCluster cl x).egress = s.egress := rfl
@[simp] theorem State.time_setCluster (s : State) (cl : Nat) (x : Cluster) : (s.setCluster cl x).time = s.time := rfl
@[simp] theorem State.agenda_setCluster (s : State) (cl : Nat) (x : Cluster) : (s.setCluster cl x).agenda = s.agenda := rfl
@[simp] theorem State.cur_setCluster (s : State) (cl : Nat) (x : Cluster) : (s.setCluster cl x).cur = s.cur := rfl
@[simp] theorem State.fresh_setCluster (s : State) (cl : Nat) (x : Cluster) : (s.setCluster cl x).fresh = s.fresh := rfl
@[simp] theorem State.thr_setCluster (s : State) (cl : Nat) (x : Cluster) (j : Nat) : (s.setCluster cl x).thr j = s.thr j := rfl
@[simp] theorem State.core_setCluster (s : State) (cl : Nat) (x : Cluster) (j : Nat) : (s.setCluster cl x).core j = s.core j := rfl

theorem State.cluster_setCluster (s : State) (cl : Nat) (x : Cluster) (j : Nat) : (s.setCluster cl x).cluster j = if j = cl then x else s.cluster j := by
  simp [State.cluster, State.setCluster, SMap.getD_set]

@[simp] theorem State.cluster_setCluster_self (s : State) (cl : Nat) (x : Cluster) : (s.setCluster cl x).cluster cl = x := by
  simp [State.cluster_setCluster]

theorem State.cluster_setCluster_ne (s : State) {cl j : Nat} (x : Cluster) (h : j ≠ cl) : (s.setCluster cl x).cluster j = s.cluster j := by
  simp [State.cluster_setCluster, h]

@[simp] theorem State.die_setCluster (s : State) (cl : Nat) (x : Cluster) (j : Nat) : (s.setCluster cl x).die j = s.die j := rfl
@[simp] theorem State.module_setCluster (s : State) (cl : Nat) (x : Cluster) (j : Nat) : (s.setCluster cl x).module j = s.module j := rfl
@[simp] theorem State.switch_setCluster (s : State) (cl : Nat) (x : Cluster) (j : Nat) : (s.setCluster cl x).switch j = s.switch j := rfl

/-! ### `setDie` -/

@[simp] theorem State.dirQueue_setDie (s : State) (d : Nat) (x : Die) : (s.setDie d x).dirQueue = s.dirQueue := rfl
@[simp] theorem State.threads_setDie (s : State) (d : Nat) (x : Die) : (s.setDie d x).threads = s.threads := rfl
@[simp] theorem State.cores_setDie (s : State) (d : Nat) (x : Die) : (s.setDie d x).cores = s.cores := rfl
@[simp] theorem State.clusters_setDie (s : State) (d : Nat) (x : Die) : (s.setDie d x).clusters = s.clusters := rfl
@[simp] theorem State.modules_setDie (s : State) (d : Nat) (x : Die) : (s.setDie d x).modules = s.modules := rfl
@[simp] theorem State.switches_setDie (s : State) (d : Nat) (x : Die) : (s.setDie d x).switches = s.switches := rfl
@[simp] theorem State.present_setDie (s : State) (d : Nat) (x : Die) : (s.setDie d x).present = s.present := rfl
@[simp] theorem State.mem_setDie (s : State) (d : Nat) (x : Die) : (s.setDie d x).mem = s.mem := rfl
@[simp] theorem State.lineKey_setDie (s : State) (d : Nat) (x : Die) : (s.setDie d x).lineKey = s.lineKey := rfl
@[simp] theorem State.badMem_setDie (s : State) (d : Nat) (x : Die) : (s.setDie d x).badMem = s.badMem := rfl
@[simp] theorem State.badRegs_setDie (s : State) (d : Nat) (x : Die) : (s.setDie d x).badRegs = s.badRegs := rfl
@[simp] theorem State.badAccs_setDie (s : State) (d : Nat) (x : Die) : (s.setDie d x).badAccs = s.badAccs := rfl
@[simp] theorem State.frameOwner_setDie (s : State) (d : Nat) (x : Die) : (s.setDie d x).frameOwner = s.frameOwner := rfl
@[simp] theorem State.xlines_setDie (s : State) (d : Nat) (x : Die) : (s.setDie d x).xlines = s.xlines := rfl
@[simp] theorem State.images_setDie (s : State) (d : Nat) (x : Die) : (s.setDie d x).images = s.images := rfl
@[simp] theorem State.records_setDie (s : State) (d : Nat) (x : Die) : (s.setDie d x).records = s.records := rfl
@[simp] theorem State.net_setDie (s : State) (d : Nat) (x : Die) : (s.setDie d x).net = s.net := rfl
@[simp] theorem State.egress_setDie (s : State) (d : Nat) (x : Die) : (s.setDie d x).egress = s.egress := rfl
@[simp] theorem State.time_setDie (s : State) (d : Nat) (x : Die) : (s.setDie d x).time = s.time := rfl
@[simp] theorem State.agenda_setDie (s : State) (d : Nat) (x : Die) : (s.setDie d x).agenda = s.agenda := rfl
@[simp] theorem State.cur_setDie (s : State) (d : Nat) (x : Die) : (s.setDie d x).cur = s.cur := rfl
@[simp] theorem State.fresh_setDie (s : State) (d : Nat) (x : Die) : (s.setDie d x).fresh = s.fresh := rfl
@[simp] theorem State.thr_setDie (s : State) (d : Nat) (x : Die) (j : Nat) : (s.setDie d x).thr j = s.thr j := rfl
@[simp] theorem State.core_setDie (s : State) (d : Nat) (x : Die) (j : Nat) : (s.setDie d x).core j = s.core j := rfl
@[simp] theorem State.cluster_setDie (s : State) (d : Nat) (x : Die) (j : Nat) : (s.setDie d x).cluster j = s.cluster j := rfl

theorem State.die_setDie (s : State) (d : Nat) (x : Die) (j : Nat) : (s.setDie d x).die j = if j = d then x else s.die j := by
  simp [State.die, State.setDie, SMap.getD_set]

@[simp] theorem State.die_setDie_self (s : State) (d : Nat) (x : Die) : (s.setDie d x).die d = x := by
  simp [State.die_setDie]

theorem State.die_setDie_ne (s : State) {d j : Nat} (x : Die) (h : j ≠ d) : (s.setDie d x).die j = s.die j := by
  simp [State.die_setDie, h]

@[simp] theorem State.module_setDie (s : State) (d : Nat) (x : Die) (j : Nat) : (s.setDie d x).module j = s.module j := rfl
@[simp] theorem State.switch_setDie (s : State) (d : Nat) (x : Die) (j : Nat) : (s.setDie d x).switch j = s.switch j := rfl

/-! ### `setModule` -/

@[simp] theorem State.dirQueue_setModule (s : State) (m : Nat) (x : Module) : (s.setModule m x).dirQueue = s.dirQueue := rfl
@[simp] theorem State.threads_setModule (s : State) (m : Nat) (x : Module) : (s.setModule m x).threads = s.threads := rfl
@[simp] theorem State.cores_setModule (s : State) (m : Nat) (x : Module) : (s.setModule m x).cores = s.cores := rfl
@[simp] theorem State.clusters_setModule (s : State) (m : Nat) (x : Module) : (s.setModule m x).clusters = s.clusters := rfl
@[simp] theorem State.dies_setModule (s : State) (m : Nat) (x : Module) : (s.setModule m x).dies = s.dies := rfl
@[simp] theorem State.switches_setModule (s : State) (m : Nat) (x : Module) : (s.setModule m x).switches = s.switches := rfl
@[simp] theorem State.present_setModule (s : State) (m : Nat) (x : Module) : (s.setModule m x).present = s.present := rfl
@[simp] theorem State.mem_setModule (s : State) (m : Nat) (x : Module) : (s.setModule m x).mem = s.mem := rfl
@[simp] theorem State.lineKey_setModule (s : State) (m : Nat) (x : Module) : (s.setModule m x).lineKey = s.lineKey := rfl
@[simp] theorem State.badMem_setModule (s : State) (m : Nat) (x : Module) : (s.setModule m x).badMem = s.badMem := rfl
@[simp] theorem State.badRegs_setModule (s : State) (m : Nat) (x : Module) : (s.setModule m x).badRegs = s.badRegs := rfl
@[simp] theorem State.badAccs_setModule (s : State) (m : Nat) (x : Module) : (s.setModule m x).badAccs = s.badAccs := rfl
@[simp] theorem State.frameOwner_setModule (s : State) (m : Nat) (x : Module) : (s.setModule m x).frameOwner = s.frameOwner := rfl
@[simp] theorem State.xlines_setModule (s : State) (m : Nat) (x : Module) : (s.setModule m x).xlines = s.xlines := rfl
@[simp] theorem State.images_setModule (s : State) (m : Nat) (x : Module) : (s.setModule m x).images = s.images := rfl
@[simp] theorem State.records_setModule (s : State) (m : Nat) (x : Module) : (s.setModule m x).records = s.records := rfl
@[simp] theorem State.net_setModule (s : State) (m : Nat) (x : Module) : (s.setModule m x).net = s.net := rfl
@[simp] theorem State.egress_setModule (s : State) (m : Nat) (x : Module) : (s.setModule m x).egress = s.egress := rfl
@[simp] theorem State.time_setModule (s : State) (m : Nat) (x : Module) : (s.setModule m x).time = s.time := rfl
@[simp] theorem State.agenda_setModule (s : State) (m : Nat) (x : Module) : (s.setModule m x).agenda = s.agenda := rfl
@[simp] theorem State.cur_setModule (s : State) (m : Nat) (x : Module) : (s.setModule m x).cur = s.cur := rfl
@[simp] theorem State.fresh_setModule (s : State) (m : Nat) (x : Module) : (s.setModule m x).fresh = s.fresh := rfl
@[simp] theorem State.thr_setModule (s : State) (m : Nat) (x : Module) (j : Nat) : (s.setModule m x).thr j = s.thr j := rfl
@[simp] theorem State.core_setModule (s : State) (m : Nat) (x : Module) (j : Nat) : (s.setModule m x).core j = s.core j := rfl
@[simp] theorem State.cluster_setModule (s : State) (m : Nat) (x : Module) (j : Nat) : (s.setModule m x).cluster j = s.cluster j := rfl
@[simp] theorem State.die_setModule (s : State) (m : Nat) (x : Module) (j : Nat) : (s.setModule m x).die j = s.die j := rfl

theorem State.module_setModule (s : State) (m : Nat) (x : Module) (j : Nat) : (s.setModule m x).module j = if j = m then x else s.module j := by
  simp [State.module, State.setModule, SMap.getD_set]

@[simp] theorem State.module_setModule_self (s : State) (m : Nat) (x : Module) : (s.setModule m x).module m = x := by
  simp [State.module_setModule]

theorem State.module_setModule_ne (s : State) {m j : Nat} (x : Module) (h : j ≠ m) : (s.setModule m x).module j = s.module j := by
  simp [State.module_setModule, h]

@[simp] theorem State.switch_setModule (s : State) (m : Nat) (x : Module) (j : Nat) : (s.setModule m x).switch j = s.switch j := rfl

/-! ### `setSwitch` -/

@[simp] theorem State.dirQueue_setSwitch (s : State) (w : Nat) (x : Switch) : (s.setSwitch w x).dirQueue = s.dirQueue := rfl
@[simp] theorem State.threads_setSwitch (s : State) (w : Nat) (x : Switch) : (s.setSwitch w x).threads = s.threads := rfl
@[simp] theorem State.cores_setSwitch (s : State) (w : Nat) (x : Switch) : (s.setSwitch w x).cores = s.cores := rfl
@[simp] theorem State.clusters_setSwitch (s : State) (w : Nat) (x : Switch) : (s.setSwitch w x).clusters = s.clusters := rfl
@[simp] theorem State.dies_setSwitch (s : State) (w : Nat) (x : Switch) : (s.setSwitch w x).dies = s.dies := rfl
@[simp] theorem State.modules_setSwitch (s : State) (w : Nat) (x : Switch) : (s.setSwitch w x).modules = s.modules := rfl
@[simp] theorem State.present_setSwitch (s : State) (w : Nat) (x : Switch) : (s.setSwitch w x).present = s.present := rfl
@[simp] theorem State.mem_setSwitch (s : State) (w : Nat) (x : Switch) : (s.setSwitch w x).mem = s.mem := rfl
@[simp] theorem State.lineKey_setSwitch (s : State) (w : Nat) (x : Switch) : (s.setSwitch w x).lineKey = s.lineKey := rfl
@[simp] theorem State.badMem_setSwitch (s : State) (w : Nat) (x : Switch) : (s.setSwitch w x).badMem = s.badMem := rfl
@[simp] theorem State.badRegs_setSwitch (s : State) (w : Nat) (x : Switch) : (s.setSwitch w x).badRegs = s.badRegs := rfl
@[simp] theorem State.badAccs_setSwitch (s : State) (w : Nat) (x : Switch) : (s.setSwitch w x).badAccs = s.badAccs := rfl
@[simp] theorem State.frameOwner_setSwitch (s : State) (w : Nat) (x : Switch) : (s.setSwitch w x).frameOwner = s.frameOwner := rfl
@[simp] theorem State.xlines_setSwitch (s : State) (w : Nat) (x : Switch) : (s.setSwitch w x).xlines = s.xlines := rfl
@[simp] theorem State.images_setSwitch (s : State) (w : Nat) (x : Switch) : (s.setSwitch w x).images = s.images := rfl
@[simp] theorem State.records_setSwitch (s : State) (w : Nat) (x : Switch) : (s.setSwitch w x).records = s.records := rfl
@[simp] theorem State.net_setSwitch (s : State) (w : Nat) (x : Switch) : (s.setSwitch w x).net = s.net := rfl
@[simp] theorem State.egress_setSwitch (s : State) (w : Nat) (x : Switch) : (s.setSwitch w x).egress = s.egress := rfl
@[simp] theorem State.time_setSwitch (s : State) (w : Nat) (x : Switch) : (s.setSwitch w x).time = s.time := rfl
@[simp] theorem State.agenda_setSwitch (s : State) (w : Nat) (x : Switch) : (s.setSwitch w x).agenda = s.agenda := rfl
@[simp] theorem State.cur_setSwitch (s : State) (w : Nat) (x : Switch) : (s.setSwitch w x).cur = s.cur := rfl
@[simp] theorem State.fresh_setSwitch (s : State) (w : Nat) (x : Switch) : (s.setSwitch w x).fresh = s.fresh := rfl
@[simp] theorem State.thr_setSwitch (s : State) (w : Nat) (x : Switch) (j : Nat) : (s.setSwitch w x).thr j = s.thr j := rfl
@[simp] theorem State.core_setSwitch (s : State) (w : Nat) (x : Switch) (j : Nat) : (s.setSwitch w x).core j = s.core j := rfl
@[simp] theorem State.cluster_setSwitch (s : State) (w : Nat) (x : Switch) (j : Nat) : (s.setSwitch w x).cluster j = s.cluster j := rfl
@[simp] theorem State.die_setSwitch (s : State) (w : Nat) (x : Switch) (j : Nat) : (s.setSwitch w x).die j = s.die j := rfl
@[simp] theorem State.module_setSwitch (s : State) (w : Nat) (x : Switch) (j : Nat) : (s.setSwitch w x).module j = s.module j := rfl

theorem State.switch_setSwitch (s : State) (w : Nat) (x : Switch) (j : Nat) : (s.setSwitch w x).switch j = if j = w then x else s.switch j := by
  simp [State.switch, State.setSwitch, SMap.getD_set]

@[simp] theorem State.switch_setSwitch_self (s : State) (w : Nat) (x : Switch) : (s.setSwitch w x).switch w = x := by
  simp [State.switch_setSwitch]

theorem State.switch_setSwitch_ne (s : State) {w j : Nat} (x : Switch) (h : j ≠ w) : (s.setSwitch w x).switch j = s.switch j := by
  simp [State.switch_setSwitch, h]


/-! ### `tick1` -/

@[simp] theorem State.dirQueue_tick1 (s : State) : (s.tick1).dirQueue = s.dirQueue := rfl
@[simp] theorem State.threads_tick1 (s : State) : (s.tick1).threads = s.threads := rfl
@[simp] theorem State.cores_tick1 (s : State) : (s.tick1).cores = s.cores := rfl
@[simp] theorem State.clusters_tick1 (s : State) : (s.tick1).clusters = s.clusters := rfl
@[simp] theorem State.dies_tick1 (s : State) : (s.tick1).dies = s.dies := rfl
@[simp] theorem State.modules_tick1 (s : State) : (s.tick1).modules = s.modules := rfl
@[simp] theorem State.switches_tick1 (s : State) : (s.tick1).switches = s.switches := rfl
@[simp] theorem State.present_tick1 (s : State) : (s.tick1).present = s.present := rfl
@[simp] theorem State.mem_tick1 (s : State) : (s.tick1).mem = s.mem := rfl
@[simp] theorem State.lineKey_tick1 (s : State) : (s.tick1).lineKey = s.lineKey := rfl
@[simp] theorem State.badMem_tick1 (s : State) : (s.tick1).badMem = s.badMem := rfl
@[simp] theorem State.badRegs_tick1 (s : State) : (s.tick1).badRegs = s.badRegs := rfl
@[simp] theorem State.badAccs_tick1 (s : State) : (s.tick1).badAccs = s.badAccs := rfl
@[simp] theorem State.frameOwner_tick1 (s : State) : (s.tick1).frameOwner = s.frameOwner := rfl
@[simp] theorem State.xlines_tick1 (s : State) : (s.tick1).xlines = s.xlines := rfl
@[simp] theorem State.images_tick1 (s : State) : (s.tick1).images = s.images := rfl
@[simp] theorem State.records_tick1 (s : State) : (s.tick1).records = s.records := rfl
@[simp] theorem State.net_tick1 (s : State) : (s.tick1).net = s.net := rfl
@[simp] theorem State.egress_tick1 (s : State) : (s.tick1).egress = s.egress := rfl
@[simp] theorem State.time_tick1 (s : State) : (s.tick1).time = s.time := rfl
@[simp] theorem State.agenda_tick1 (s : State) : (s.tick1).agenda = s.agenda := rfl
@[simp] theorem State.cur_tick1 (s : State) : (s.tick1).cur = s.cur := rfl
@[simp] theorem State.thr_tick1 (s : State) (j : Nat) : (s.tick1).thr j = s.thr j := rfl
@[simp] theorem State.core_tick1 (s : State) (j : Nat) : (s.tick1).core j = s.core j := rfl
@[simp] theorem State.cluster_tick1 (s : State) (j : Nat) : (s.tick1).cluster j = s.cluster j := rfl
@[simp] theorem State.die_tick1 (s : State) (j : Nat) : (s.tick1).die j = s.die j := rfl
@[simp] theorem State.module_tick1 (s : State) (j : Nat) : (s.tick1).module j = s.module j := rfl
@[simp] theorem State.switch_tick1 (s : State) (j : Nat) : (s.tick1).switch j = s.switch j := rfl

/-! ### `addRecord` -/

@[simp] theorem State.dirQueue_addRecord (s : State) (r : Record) : (s.addRecord r).dirQueue = s.dirQueue := rfl
@[simp] theorem State.threads_addRecord (s : State) (r : Record) : (s.addRecord r).threads = s.threads := rfl
@[simp] theorem State.cores_addRecord (s : State) (r : Record) : (s.addRecord r).cores = s.cores := rfl
@[simp] theorem State.clusters_addRecord (s : State) (r : Record) : (s.addRecord r).clusters = s.clusters := rfl
@[simp] theorem State.dies_addRecord (s : State) (r : Record) : (s.addRecord r).dies = s.dies := rfl
@[simp] theorem State.modules_addRecord (s : State) (r : Record) : (s.addRecord r).modules = s.modules := rfl
@[simp] theorem State.switches_addRecord (s : State) (r : Record) : (s.addRecord r).switches = s.switches := rfl
@[simp] theorem State.present_addRecord (s : State) (r : Record) : (s.addRecord r).present = s.present := rfl
@[simp] theorem State.mem_addRecord (s : State) (r : Record) : (s.addRecord r).mem = s.mem := rfl
@[simp] theorem State.lineKey_addRecord (s : State) (r : Record) : (s.addRecord r).lineKey = s.lineKey := rfl
@[simp] theorem State.badMem_addRecord (s : State) (r : Record) : (s.addRecord r).badMem = s.badMem := rfl
@[simp] theorem State.badRegs_addRecord (s : State) (r : Record) : (s.addRecord r).badRegs = s.badRegs := rfl
@[simp] theorem State.badAccs_addRecord (s : State) (r : Record) : (s.addRecord r).badAccs = s.badAccs := rfl
@[simp] theorem State.frameOwner_addRecord (s : State) (r : Record) : (s.addRecord r).frameOwner = s.frameOwner := rfl
@[simp] theorem State.xlines_addRecord (s : State) (r : Record) : (s.addRecord r).xlines = s.xlines := rfl
@[simp] theorem State.images_addRecord (s : State) (r : Record) : (s.addRecord r).images = s.images := rfl
@[simp] theorem State.net_addRecord (s : State) (r : Record) : (s.addRecord r).net = s.net := rfl
@[simp] theorem State.egress_addRecord (s : State) (r : Record) : (s.addRecord r).egress = s.egress := rfl
@[simp] theorem State.time_addRecord (s : State) (r : Record) : (s.addRecord r).time = s.time := rfl
@[simp] theorem State.agenda_addRecord (s : State) (r : Record) : (s.addRecord r).agenda = s.agenda := rfl
@[simp] theorem State.cur_addRecord (s : State) (r : Record) : (s.addRecord r).cur = s.cur := rfl
@[simp] theorem State.fresh_addRecord (s : State) (r : Record) : (s.addRecord r).fresh = s.fresh := rfl
@[simp] theorem State.thr_addRecord (s : State) (r : Record) (j : Nat) : (s.addRecord r).thr j = s.thr j := rfl
@[simp] theorem State.core_addRecord (s : State) (r : Record) (j : Nat) : (s.addRecord r).core j = s.core j := rfl
@[simp] theorem State.cluster_addRecord (s : State) (r : Record) (j : Nat) : (s.addRecord r).cluster j = s.cluster j := rfl
@[simp] theorem State.die_addRecord (s : State) (r : Record) (j : Nat) : (s.addRecord r).die j = s.die j := rfl
@[simp] theorem State.module_addRecord (s : State) (r : Record) (j : Nat) : (s.addRecord r).module j = s.module j := rfl
@[simp] theorem State.switch_addRecord (s : State) (r : Record) (j : Nat) : (s.addRecord r).switch j = s.switch j := rfl

/-! ### The thread that issues -/

@[simp] theorem State.thr_setMe_self (s : State) (x : Thread) : (s.setMe x).thr s.cur = x := by simp [State.setMe]

theorem State.thr_setMe_ne (s : State) (x : Thread) {j : Nat} (h : j ≠ s.cur) : (s.setMe x).thr j = s.thr j := by
  simp [State.setMe, State.thr_setThr, h]

@[simp] theorem State.me_setMe (s : State) (x : Thread) : (s.setMe x).me = x := by simp [State.me, State.setMe]

@[simp] theorem State.cur_setMe (s : State) (x : Thread) : (s.setMe x).cur = s.cur := rfl

theorem State.me_eq (s : State) : s.me = s.thr s.cur := rfl

/-! ### Scalars and predicates of a thread -/

@[simp] theorem Thread.s_zero (th : Thread) : th.s 0 = 0 := rfl

@[simp] theorem Thread.p_zero (th : Thread) : th.p 0 = BitVec.allOnes 32 := rfl

theorem Thread.s_setS (th : Thread) (n j : Nat) (v : Word) : (th.setS n v).s j = if j = n ∧ n ≠ 0 then v else th.s j := by
  by_cases hn : n = 0
  · simp [Thread.setS, hn]
  · by_cases hj : j = 0
    · subst hj; simp [Ne.symm hn]
    · by_cases h : j = n <;> simp [Thread.setS, Thread.s, hn, hj, h, SMap.getD_set]

theorem Thread.p_setP (th : Thread) (n j : Nat) (v : BitVec 32) : (th.setP n v).p j = if j = n ∧ n ≠ 0 then v else th.p j := by
  by_cases hn : n = 0
  · simp [Thread.setP, hn]
  · by_cases hj : j = 0
    · subst hj; simp [Ne.symm hn]
    · by_cases h : j = n <;> simp [Thread.setP, Thread.p, hn, hj, h, SMap.getD_set]

/-- Writing a scalar changes no other field. -/
theorem Thread.setS_eq (th : Thread) (n : Nat) (v : Word) : th.setS n v = { th with sreg := (th.setS n v).sreg } := by
  unfold Thread.setS; split <;> rfl

/-- Writing a predicate changes no other field. -/
theorem Thread.setP_eq (th : Thread) (n : Nat) (v : BitVec 32) : th.setP n v = { th with preg := (th.setP n v).preg } := by
  unfold Thread.setP; split <;> rfl

@[simp] theorem Thread.live_setS (th : Thread) (n : Nat) (v : Word) : (th.setS n v).live = th.live := by
  rw [Thread.setS_eq]
@[simp] theorem Thread.pc_setS (th : Thread) (n : Nat) (v : Word) : (th.setS n v).pc = th.pc := by
  rw [Thread.setS_eq]
@[simp] theorem Thread.preg_setS (th : Thread) (n : Nat) (v : Word) : (th.setS n v).preg = th.preg := by
  rw [Thread.setS_eq]
@[simp] theorem Thread.fmt_setS (th : Thread) (n : Nat) (v : Word) : (th.setS n v).fmt = th.fmt := by
  rw [Thread.setS_eq]
@[simp] theorem Thread.fflags_setS (th : Thread) (n : Nat) (v : Word) : (th.setS n v).fflags = th.fflags := by
  rw [Thread.setS_eq]
@[simp] theorem Thread.xclip_setS (th : Thread) (n : Nat) (v : Word) : (th.setS n v).xclip = th.xclip := by
  rw [Thread.setS_eq]
@[simp] theorem Thread.gens_setS (th : Thread) (n : Nat) (v : Word) : (th.setS n v).gens = th.gens := by
  rw [Thread.setS_eq]
@[simp] theorem Thread.insn_setS (th : Thread) (n : Nat) (v : Word) : (th.setS n v).insn = th.insn := by
  rw [Thread.setS_eq]
@[simp] theorem Thread.staging_setS (th : Thread) (n : Nat) (v : Word) : (th.setS n v).staging = th.staging := by
  rw [Thread.setS_eq]
@[simp] theorem Thread.winStart_setS (th : Thread) (n : Nat) (v : Word) : (th.setS n v).winStart = th.winStart := by
  rw [Thread.setS_eq]
@[simp] theorem Thread.winRegs_setS (th : Thread) (n : Nat) (v : Word) : (th.setS n v).winRegs = th.winRegs := by
  rw [Thread.setS_eq]
@[simp] theorem Thread.tiles_setS (th : Thread) (n : Nat) (v : Word) : (th.setS n v).tiles = th.tiles := by
  rw [Thread.setS_eq]
@[simp] theorem Thread.region_setS (th : Thread) (n : Nat) (v : Word) : (th.setS n v).region = th.region := by
  rw [Thread.setS_eq]
@[simp] theorem Thread.ctx_setS (th : Thread) (n : Nat) (v : Word) : (th.setS n v).ctx = th.ctx := by
  rw [Thread.setS_eq]
@[simp] theorem Thread.slice_setS (th : Thread) (n : Nat) (v : Word) : (th.setS n v).slice = th.slice := by
  rw [Thread.setS_eq]
@[simp] theorem Thread.dslot_setS (th : Thread) (n : Nat) (v : Word) : (th.setS n v).dslot = th.dslot := by
  rw [Thread.setS_eq]
@[simp] theorem Thread.ordered_setS (th : Thread) (n : Nat) (v : Word) : (th.setS n v).ordered = th.ordered := by
  rw [Thread.setS_eq]
@[simp] theorem Thread.ts_setS (th : Thread) (n : Nat) (v : Word) : (th.setS n v).ts = th.ts := by
  rw [Thread.setS_eq]
@[simp] theorem Thread.tie_setS (th : Thread) (n : Nat) (v : Word) : (th.setS n v).tie = th.tie := by
  rw [Thread.setS_eq]
@[simp] theorem Thread.lastIssue_setS (th : Thread) (n : Nat) (v : Word) : (th.setS n v).lastIssue = th.lastIssue := by
  rw [Thread.setS_eq]
@[simp] theorem Thread.wait_setS (th : Thread) (n : Nat) (v : Word) : (th.setS n v).wait = th.wait := by
  rw [Thread.setS_eq]
@[simp] theorem Thread.depth_setS (th : Thread) (n : Nat) (v : Word) : (th.setS n v).depth = th.depth := by
  rw [Thread.setS_eq]
@[simp] theorem Thread.age_setS (th : Thread) (n : Nat) (v : Word) : (th.setS n v).age = th.age := by
  rw [Thread.setS_eq]
@[simp] theorem Thread.confl_setS (th : Thread) (n : Nat) (v : Word) : (th.setS n v).confl = th.confl := by
  rw [Thread.setS_eq]
@[simp] theorem Thread.cause_setS (th : Thread) (n : Nat) (v : Word) : (th.setS n v).cause = th.cause := by
  rw [Thread.setS_eq]
@[simp] theorem Thread.code_setS (th : Thread) (n : Nat) (v : Word) : (th.setS n v).code = th.code := by
  rw [Thread.setS_eq]
@[simp] theorem Thread.irrev_setS (th : Thread) (n : Nat) (v : Word) : (th.setS n v).irrev = th.irrev := by
  rw [Thread.setS_eq]
@[simp] theorem Thread.fallback_setS (th : Thread) (n : Nat) (v : Word) : (th.setS n v).fallback = th.fallback := by
  rw [Thread.setS_eq]
@[simp] theorem Thread.run_setS (th : Thread) (n : Nat) (v : Word) : (th.setS n v).run = th.run := by
  rw [Thread.setS_eq]
@[simp] theorem Thread.posted_setS (th : Thread) (n : Nat) (v : Word) : (th.setS n v).posted = th.posted := by
  rw [Thread.setS_eq]
@[simp] theorem Thread.postedErr_setS (th : Thread) (n : Nat) (v : Word) : (th.setS n v).postedErr = th.postedErr := by
  rw [Thread.setS_eq]
@[simp] theorem Thread.seqs_setS (th : Thread) (n : Nat) (v : Word) : (th.setS n v).seqs = th.seqs := by
  rw [Thread.setS_eq]
@[simp] theorem Thread.super_setS (th : Thread) (n : Nat) (v : Word) : (th.setS n v).super = th.super := by
  rw [Thread.setS_eq]
@[simp] theorem Thread.cctx_setS (th : Thread) (n : Nat) (v : Word) : (th.setS n v).cctx = th.cctx := by
  rw [Thread.setS_eq]
@[simp] theorem Thread.cltab_setS (th : Thread) (n : Nat) (v : Word) : (th.setS n v).cltab = th.cltab := by
  rw [Thread.setS_eq]
@[simp] theorem Thread.chbase_setS (th : Thread) (n : Nat) (v : Word) : (th.setS n v).chbase = th.chbase := by
  rw [Thread.setS_eq]
@[simp] theorem Thread.chlimit_setS (th : Thread) (n : Nat) (v : Word) : (th.setS n v).chlimit = th.chlimit := by
  rw [Thread.setS_eq]
@[simp] theorem Thread.choff_setS (th : Thread) (n : Nat) (v : Word) : (th.setS n v).choff = th.choff := by
  rw [Thread.setS_eq]
@[simp] theorem Thread.tsel_setS (th : Thread) (n : Nat) (v : Word) : (th.setS n v).tsel = th.tsel := by
  rw [Thread.setS_eq]
@[simp] theorem Thread.txidx_setS (th : Thread) (n : Nat) (v : Word) : (th.setS n v).txidx = th.txidx := by
  rw [Thread.setS_eq]
@[simp] theorem Thread.woke_setS (th : Thread) (n : Nat) (v : Word) : (th.setS n v).woke = th.woke := by
  rw [Thread.setS_eq]
@[simp] theorem Thread.doomed_setS (th : Thread) (n : Nat) (v : Word) : (th.setS n v).doomed = th.doomed := by
  rw [Thread.setS_eq]
@[simp] theorem Thread.nextPc_setS (th : Thread) (n : Nat) (v : Word) : (th.setS n v).nextPc = th.nextPc := by
  rw [Thread.setS_eq]
@[simp] theorem Thread.word_setS (th : Thread) (n : Nat) (v : Word) : (th.setS n v).word = th.word := by
  rw [Thread.setS_eq]
@[simp] theorem Thread.passBreak_setS (th : Thread) (n : Nat) (v : Word) : (th.setS n v).passBreak = th.passBreak := by
  rw [Thread.setS_eq]
@[simp] theorem Thread.passWatch_setS (th : Thread) (n : Nat) (v : Word) : (th.setS n v).passWatch = th.passWatch := by
  rw [Thread.setS_eq]

end Sys2Proof.Machine
end

