-- ==== Sys2Proof/Laws/Complete.lean ====
section
/-! SUPPORT. What the shared ways to end an instruction do: completing, jumping, parking, trapping, and the checks before them. -/

namespace Sys2Proof.Machine

/-! ### Replacing the thread that issues -/

theorem onlyThread_setThr (s : State) (u : Nat) (th : Thread) : OnlyThread u s (s.setThr u th) where
  others _ h := State.thr_setThr_ne s th h
  rest := rfl
  bytes _ := rfl

theorem onlyThread_setMe (s : State) (th : Thread) : OnlyThread s.cur s (s.setMe th) := onlyThread_setThr s s.cur th

theorem setThr_setThr (s : State) (u : Nat) (a b : Thread) : ((s.setThr u a).setThr u b).thr u = b := by simp

theorem onlyThread_trans {u : Nat} {s t r : State} (h : OnlyThread u s t) (k : OnlyThread u t r) : OnlyThread u s r where
  others v hv := (k.others v hv).trans (h.others v hv)
  rest := by
    have h1 := h.rest
    have h2 := k.rest
    rw [← h1]
    calc ({ r with threads := s.threads } : State) = { ({ r with threads := t.threads } : State) with threads := s.threads } := rfl
      _ = { t with threads := s.threads } := by rw [h2]
      _ = _ := by simp only [h1]
  bytes l := (k.bytes l).trans (h.bytes l)

/-! ### Completing -/

theorem setSr_retire_thr (s : State) (d : BitVec 6) (v : Word) :
    ((s.setSr d v).retire).thr s.cur =
      { s.me.setS d.toNat v with pc := s.me.pc + 4, insn := s.me.insn + 1, wait := .ready } := by
  simp [State.retire, State.retireAt, State.setSr, State.setMe]

/-- A scalar result: s[d] is written, and the instruction is complete. -/
theorem wrote_setSr_retire (s : State) (d : BitVec 6) (v : Word) : Wrote (one d v) 0 s ((s.setSr d v).retire) := by
  refine ⟨onlyThread_trans (onlyThread_setMe s _) (onlyThread_setThr _ _ _), ?_⟩
  rw [setSr_retire_thr]
  refine ⟨fun n hn => ?_, rfl, by simp, rfl, rfl, rfl, ?_⟩
  · have : ({ s.me.setS d.toNat v with pc := s.me.pc + 4, insn := s.me.insn + 1, wait := .ready } : Thread).s n
        = (s.me.setS d.toNat v).s n := rfl
    rw [this, Thread.s_setS]
    by_cases h : n = d.toNat
    · subst h; simp [one, hn]
    · simp [one, h]
  · rw [Thread.setS_eq]

theorem writeScalar_spec (d : BitVec 6) (v : Word) (s : State) : ∃ t, writeScalar d v s = .next t ∧ Wrote (one d v) 0 s t :=
  ⟨_, rfl, wrote_setSr_retire s d v⟩

theorem writeFp_spec (d : BitVec 6) (r : W32 × BitVec 5) (s : State) :
    ∃ t, writeFp d r s = .next t ∧ Wrote (one d (r.1.setWidth 64)) r.2 s t := by
  refine ⟨_, rfl, onlyThread_trans (onlyThread_trans (onlyThread_setMe s _) (onlyThread_setThr _ _ _)) (onlyThread_setThr _ _ _), ?_⟩
  have h : (((s.setSr d (r.1.setWidth 64)).orFlags r.2).retire).thr s.cur =
      { s.me.setS d.toNat (r.1.setWidth 64) with
        fflags := s.me.fflags ||| r.2, pc := s.me.pc + 4, insn := s.me.insn + 1, wait := .ready } := by
    simp [State.retire, State.retireAt, State.orFlags, State.setSr, State.setMe, State.me]
  rw [h]
  refine ⟨fun n hn => ?_, rfl, rfl, rfl, rfl, rfl, ?_⟩
  · have : ({ s.me.setS d.toNat (r.1.setWidth 64) with
        fflags := s.me.fflags ||| r.2, pc := s.me.pc + 4, insn := s.me.insn + 1, wait := .ready } : Thread).s n
        = (s.me.setS d.toNat (r.1.setWidth 64)).s n := rfl
    rw [this, Thread.s_setS]
    by_cases hd : n = d.toNat
    · subst hd; simp [one, hn]
    · simp [one, hd]
  · rw [Thread.setS_eq]

theorem writeCompare_eq (d : BitVec 6) (r : Bool × BitVec 5) (s : State) :
    writeCompare d r s = .next (((s.setSr d (ofBool r.1)).orFlags r.2).retire) := rfl

/-- An instruction that writes nothing is complete. -/
theorem wrote_retire (s : State) : Wrote none_ 0 s s.retire := by
  refine ⟨onlyThread_setThr s _ _, ?_⟩
  have h : s.retire.thr s.cur = { s.me with pc := s.me.pc + 4, insn := s.me.insn + 1, wait := .ready } := by
    simp [State.retire, State.retireAt, State.me]
  rw [h]
  exact ⟨fun _ _ => rfl, rfl, by simp, rfl, rfl, rfl, rfl⟩

theorem jumped_jump (s : State) (pc : Word) : Jumped none_ pc s (s.jump pc) := by
  have h : (s.jump pc).thr s.cur = { s.me with pc := pc, insn := s.me.insn + 1, wait := .ready } := by simp [State.jump]
  refine ⟨onlyThread_setMe s _, ?_, ?_, ?_, ?_, ?_, ?_⟩ <;> rw [h]
  · exact fun _ _ => rfl
  · rfl

theorem jumped_setSr_jump (s : State) (d : BitVec 6) (v pc : Word) : Jumped (one d v) pc s ((s.setSr d v).jump pc) := by
  have h : ((s.setSr d v).jump pc).thr s.cur = { s.me.setS d.toNat v with pc := pc, insn := s.me.insn + 1, wait := .ready } := by
    simp [State.jump, State.setSr, State.setMe, State.me]
  refine ⟨onlyThread_trans (onlyThread_setMe s _) (onlyThread_setThr _ _ _), ?_, ?_, ?_, ?_, ?_, ?_⟩ <;> rw [h]
  · intro n hn
    have : ({ s.me.setS d.toNat v with pc := pc, insn := s.me.insn + 1, wait := .ready } : Thread).s n
        = (s.me.setS d.toNat v).s n := rfl
    rw [this, Thread.s_setS]
    by_cases hd : n = d.toNat
    · subst hd; simp [one, hn]
    · simp [one, hd]
  · rfl
  · rw [Thread.setS_eq]

/-! ### Parking -/

theorem parked_park (s : State) (w : Wait) : Parked w s (s.park w) := by
  refine ⟨onlyThread_setMe s _, ?_⟩
  have h : (s.park w).thr s.cur = { s.me with wait := w } := by simp [State.park]
  rw [h]
  exact ⟨rfl, rfl⟩

/-! ### Predicates -/

theorem writePred_spec (d : BitVec 6) (v : BitVec 32) (s : State) : ∃ t, writePred d v s = .next t ∧ WrotePred d v s t := by
  refine ⟨_, rfl, ?_⟩
  have h : ((s.setMe (s.me.setP d.toNat v)).retire).thr s.cur =
      { s.me.setP d.toNat v with pc := (s.me.setP d.toNat v).pc + 4, insn := (s.me.setP d.toNat v).insn + 1, wait := .ready } := by
    simp [State.retire, State.retireAt, State.setMe]
  have e := Thread.setP_eq s.me d.toNat v
  refine ⟨onlyThread_trans (onlyThread_setMe s _) (onlyThread_setThr _ _ _), ?_, ?_, ?_, ?_, ?_, ?_⟩ <;> rw [h]
  · intro n hn
    have : ({ s.me.setP d.toNat v with
        pc := (s.me.setP d.toNat v).pc + 4, insn := (s.me.setP d.toNat v).insn + 1, wait := .ready } : Thread).p n
        = (s.me.setP d.toNat v).p n := rfl
    rw [this, Thread.p_setP]
    by_cases hd : n = d.toNat
    · subst hd; simp [hn]
    · simp [hd]
  · rfl
  · rw [e]
  · rw [e]
  · rw [e]

/-! ### Trace records and traps -/

/-- Forming a trace record changes the debug registers of one core alone. -/
theorem formRecord_only (s : State) (g type slot d0 d1 : Nat) :
    (∀ h, { (s.formRecord g type slot d0 d1).core h with dbg := (s.core h).dbg } = s.core h)
    ∧ { s.formRecord g type slot d0 d1 with cores := s.cores } = s := by
  unfold State.formRecord
  dsimp only
  split
  · refine ⟨fun h => ?_, rfl⟩
    by_cases hg : h = g
    · subst hg; simp
    · simp [State.core_setCore_ne _ _ hg]
  · exact ⟨fun _ => rfl, rfl⟩

@[simp] theorem formRecord_thr (s : State) (g type slot d0 d1 u : Nat) : (s.formRecord g type slot d0 d1).thr u = s.thr u := by
  unfold State.formRecord; dsimp only; split <;> rfl

@[simp] theorem formRecord_threads (s : State) (g type slot d0 d1 : Nat) : (s.formRecord g type slot d0 d1).threads = s.threads := by
  unfold State.formRecord; dsimp only; split <;> rfl

@[simp] theorem formRecord_records (s : State) (g type slot d0 d1 : Nat) : (s.formRecord g type slot d0 d1).records = s.records := by
  unfold State.formRecord; dsimp only; split <;> rfl

@[simp] theorem formRecord_mem (s : State) (g type slot d0 d1 : Nat) : (s.formRecord g type slot d0 d1).mem = s.mem := by
  unfold State.formRecord; dsimp only; split <;> rfl

/-- Taking an exception outside every run: the thread is trapped with its record, and nothing else changes (R277). -/
theorem trapped_takeTrap (s : State) (u cause : Nat) (tval tnpc : Word) (ho : (s.thr u).run.ordered = false)
    (ha : (s.thr u).run.active = false) : Trapped u cause tval tnpc s (s.takeTrap u cause tval tnpc) := by
  have hf := formRecord_only s (threadCore u) traceTRAP (threadSlot u) cause (s.thr u).pc.toNat
  have hr := congrArg State.threads hf.2
  unfold State.takeTrap
  simp only [ho, ha, Bool.and_false, Bool.false_eq_true, if_false]
  refine ⟨?_, ?_, ?_, ?_, ?_, ?_⟩
  · simp; exact ⟨rfl, rfl⟩
  · intro v hv; simp [State.thr_setThr_ne _ _ hv]
  · simp [State.addRecord]
  · intro g; exact hf.1 g
  · have := hf.2
    simpa [State.setThr, State.addRecord] using this
  · intro l; simp

theorem trapped_trap (s : State) (cause : Nat) (tval : Word) (ho : s.me.run.ordered = false) (ha : s.me.run.active = false) :
    Trapped s.cur cause tval s.me.pc s (s.trap cause tval) := trapped_takeTrap s s.cur cause tval s.me.pc ho ha

/-! ### Checks -/

theorem onCore_core {i : Instr} {s : State} {k : Out} (h : isCcc s.cur = false) : onCore i s k = k := by simp [onCore, h]

theorem onCore_ccc {i : Instr} {s : State} {k : Out} (h : isCcc s.cur = true) : onCore i s k = .next (s.illegal i) := by simp [onCore, h]

theorem privileged_super {i : Instr} {s : State} {k : Out} (h : s.supervisor s.cur = true) : privileged i s k = k := by
  simp [privileged, h]

theorem privileged_user {i : Instr} {s : State} {k : Out} (h : s.supervisor s.cur = false) :
    privileged i s k = .next (s.trap causePRIV ((encode i).setWidth 64)) := by simp [privileged, h]

theorem readable_clean {s : State} {regs : List (Nat × BitVec 32)} (h : Clean s regs) (k : Out) : readable s regs k = k := by
  unfold readable
  split
  · rfl
  · have : regs.find? (fun r => decide (SMap.getD s.badRegs (threadCore s.cur * 4096 + s.phys s.cur r.1) 0 &&& r.2 ≠ 0)) = none := by
      rw [List.find?_eq_none]
      intro r hr
      simpa using h r hr
    rw [this]

theorem clean_of_nil {s : State} (regs : List (Nat × BitVec 32)) (h : s.badRegs = []) : Clean s regs := by
  intro r _; simp [h]

/-- A release with nothing outstanding takes effect at once (R144). -/
theorem afterRelease_go {s : State} {rel log : Bool} {k : State → State} (ha : s.me.run.active = false)
    (h : s.releaseStatus s.cur log = .go) : s.afterRelease rel log k = k s := by
  unfold State.afterRelease
  cases rel <;> simp [ha, h]

/-- Nothing that a release of the thread that issues waits for is outstanding, and no error waits to be raised (R144). -/
theorem releaseStatus_go {s : State} {u : Nat} {log : Bool} (hp : (s.thr u).posted = 0) (he : (s.thr u).postedErr = none)
    (hl : (s.core (threadCore u)).hasLogOf u = false) : s.releaseStatus u log = .go := by
  simp [State.releaseStatus, hp, he, hl]

end Sys2Proof.Machine
end

