-- ==== Sys2Proof/Laws/Lanes.lean ====
section
/-! SUPPORT. Lanes of vector registers, elements of tiles, and what writing a window register or a tile does. -/

namespace Sys2Proof.Machine

/-! ### Lanes and elements -/

theorem digits_lt (f : Nat → W32) (n : Nat) : digits f n < 2 ^ (32 * n) := by
  induction n with
  | zero => simp [digits]
  | succ n ih =>
    have h1 : (f n).toNat ≤ 2 ^ 32 - 1 := by have := (f n).isLt; omega
    have h2 : (f n).toNat * 2 ^ (32 * n) ≤ (2 ^ 32 - 1) * 2 ^ (32 * n) := Nat.mul_le_mul_right _ h1
    have h3 : 2 ^ (32 * (n + 1)) = 2 ^ 32 * 2 ^ (32 * n) := by rw [← pow_add]; congr 1; ring
    rw [digits, h3]
    have h4 : (2 ^ 32 - 1) * 2 ^ (32 * n) + 2 ^ (32 * n) = 2 ^ 32 * 2 ^ (32 * n) := by
      rw [← Nat.succ_mul]
      rfl
    omega

theorem digits_get (f : Nat → W32) (n i : Nat) (h : i < n) : digits f n / 2 ^ (32 * i) % 2 ^ 32 = (f i).toNat := by
  induction n with
  | zero => omega
  | succ n ih =>
    rw [digits]
    by_cases hi : i = n
    · subst hi
      rw [Nat.add_mul_div_right _ _ (by positivity), Nat.div_eq_of_lt (digits_lt f i), Nat.zero_add,
        Nat.mod_eq_of_lt (f i).isLt]
    · have hin : i < n := by omega
      have h3 : 2 ^ (32 * n) = 2 ^ 32 * 2 ^ (32 * (n - i - 1)) * 2 ^ (32 * i) := by
        rw [← pow_add, ← pow_add]; congr 1; omega
      rw [h3, ← mul_assoc, Nat.add_mul_div_right _ _ (by positivity), ← mul_assoc, mul_comm (f n).toNat, mul_assoc,
        Nat.add_mul_mod_self_left, ih hin]

theorem lane_ofLanes (f : Nat → W32) {i : Nat} (h : i < 32) : lane (ofLanes f) i = f i := by
  apply BitVec.eq_of_toNat_eq
  have hl : digits f 32 < 2 ^ 1024 := digits_lt f 32
  simp only [lane, ofLanes, BitVec.toNat_ofNat]
  rw [Nat.mod_eq_of_lt hl]
  exact digits_get f 32 i h

theorem elemOf_ofElems (f : Nat → W32) {i : Nat} (h : i < 256) : elemOf (ofElems f) i = f i := by
  apply BitVec.eq_of_toNat_eq
  have hl : digits f 256 < 2 ^ 8192 := digits_lt f 256
  simp only [elemOf, ofElems, BitVec.toNat_ofNat]
  rw [Nat.mod_eq_of_lt hl]
  exact digits_get f 256 i h

theorem lane_merge (m : BitVec 32) (new old : Vec) {i : Nat} (h : i < 32) :
    lane (merge m new old) i = if m.getLsbD i then lane new i else lane old i := by
  rw [merge, lane_ofLanes _ h]

/-! ### Writing a window register -/

@[simp] theorem core_with_badRegs (s : State) (b : SMap (BitVec 32)) (g : Nat) : ({ s with badRegs := b } : State).core g = s.core g := rfl
@[simp] theorem thr_with_badRegs (s : State) (b : SMap (BitVec 32)) (u : Nat) : ({ s with badRegs := b } : State).thr u = s.thr u := rfl

theorem core_noBad (w : State) (b : Nat) (x : SMap (BitVec 32)) (g : Nat) :
    (if SMap.has w.badRegs b then { w with badRegs := x } else w).core g = w.core g := by split <;> rfl

theorem thr_noBad (w : State) (b : Nat) (x : SMap (BitVec 32)) (g : Nat) :
    (if SMap.has w.badRegs b then { w with badRegs := x } else w).thr g = w.thr g := by split <;> rfl

theorem mem_noBad (w : State) (b : Nat) (x : SMap (BitVec 32)) :
    (if SMap.has w.badRegs b then { w with badRegs := x } else w).mem = w.mem := by split <;> rfl

theorem cur_noBad (w : State) (b : Nat) (x : SMap (BitVec 32)) :
    (if SMap.has w.badRegs b then { w with badRegs := x } else w).cur = w.cur := by split <;> rfl

theorem rest_noBad (w : State) (b : Nat) (x : SMap (BitVec 32)) (ts : SMap Thread) (cs : SMap Core) (bs : SMap (BitVec 32)) :
    { (if SMap.has w.badRegs b then { w with badRegs := x } else w) with threads := ts, cores := cs, badRegs := bs } =
      { w with threads := ts, cores := cs, badRegs := bs } := by split <;> rfl

/-- The core's record after a window register is written: the register, and its dirty mark. -/
theorem setVecAt_core (s : State) (t r : Nat) (m : BitVec 32) (v : Vec) :
    (s.setVecAt t r m v).core (threadCore t) = { s.core (threadCore t) with
      store := SMap.set (s.core (threadCore t)).store (s.phys t r) (if m = BitVec.allOnes 32 then v else merge m v (s.vecAt t r))
      dirty := insertNew (s.core (threadCore t)).dirty (s.phys t r) } := by
  unfold State.setVecAt
  dsimp only
  rw [core_noBad]
  split <;> simp

theorem setVecAt_core_ne (s : State) (t r : Nat) (m : BitVec 32) (v : Vec) {g : Nat} (h : g ≠ threadCore t) :
    (s.setVecAt t r m v).core g = s.core g := by
  unfold State.setVecAt
  dsimp only
  rw [core_noBad]
  split <;> simp [State.core_setCore_ne _ _ h]

/-- The thread after it wrote a window register: an open run may keep the old value, and nothing else differs. -/
theorem setVecAt_thr (s : State) (t r : Nat) (m : BitVec 32) (v : Vec) : ∃ u,
    (s.setVecAt t r m v).thr t = { s.thr t with run := { (s.thr t).run with undoRegs := u } } := by
  unfold State.setVecAt
  dsimp only
  rw [thr_noBad]
  split <;> simp
  exact ⟨_, rfl⟩

theorem setVecAt_thr_ne (s : State) (t r : Nat) (m : BitVec 32) (v : Vec) {u : Nat} (h : u ≠ t) :
    (s.setVecAt t r m v).thr u = s.thr u := by
  unfold State.setVecAt
  dsimp only
  rw [thr_noBad]
  split <;> simp [State.thr_setThr_ne _ _ h]

theorem setVecAt_rest (s : State) (t r : Nat) (m : BitVec 32) (v : Vec) :
    { s.setVecAt t r m v with threads := s.threads, cores := s.cores, badRegs := s.badRegs } = s := by
  unfold State.setVecAt
  dsimp only
  rw [rest_noBad]
  generalize (if m = BitVec.allOnes 32 then v else merge m v (s.vecAt t r)) = y
  split <;> rfl

@[simp] theorem setVecAt_mem (s : State) (t r : Nat) (m : BitVec 32) (v : Vec) : (s.setVecAt t r m v).mem = s.mem := by
  unfold State.setVecAt
  dsimp only
  rw [mem_noBad]
  generalize (if m = BitVec.allOnes 32 then v else merge m v (s.vecAt t r)) = y
  split <;> rfl

@[simp] theorem setVecAt_cur (s : State) (t r : Nat) (m : BitVec 32) (v : Vec) : (s.setVecAt t r m v).cur = s.cur := by
  unfold State.setVecAt
  dsimp only
  rw [cur_noBad]
  generalize (if m = BitVec.allOnes 32 then v else merge m v (s.vecAt t r)) = y
  split <;> rfl

/-- The lanes that are written are no longer uncorrectable; no other mark changes (R285). -/
theorem setVecAt_bad (s : State) (t r : Nat) (m : BitVec 32) (v : Vec) (k : Nat) :
    SMap.getD (s.setVecAt t r m v).badRegs k 0 =
      if k = threadCore t * 4096 + s.phys t r then SMap.getD s.badRegs k 0 &&& ~~~m else SMap.getD s.badRegs k 0 := by
  have key : ∀ w : State, w.badRegs = s.badRegs → ∀ b : Nat,
      SMap.getD (if SMap.has w.badRegs b then { w with badRegs := SMap.set w.badRegs b (SMap.getD w.badRegs b 0 &&& ~~~m) } else w).badRegs k 0
        = if k = b then SMap.getD s.badRegs k 0 &&& ~~~m else SMap.getD s.badRegs k 0 := by
    intro w hw b
    split
    · simp only [hw, SMap.getD_set]
      by_cases h : k = b
      · subst h; simp
      · simp [h]
    · next hb =>
      by_cases h : k = b
      · subst h
        have : SMap.getD s.badRegs k 0 = 0 := by
          rw [hw] at hb
          simp only [SMap.has, Bool.not_eq_true, Option.isSome_eq_false_iff, Option.isNone_iff_eq_none] at hb
          simp [SMap.getD, hb]
        have h2 : SMap.getD s.badRegs k (0#32) = 0#32 := this
        simp [hw, h2]
      · simp [h, hw]
  unfold State.setVecAt
  dsimp only
  split
  · apply key; rfl
  · apply key; rfl

theorem setVecAt_phys (s : State) (t r k : Nat) (m : BitVec 32) (v : Vec) : (s.setVecAt t r m v).phys t k = s.phys t k := by
  obtain ⟨u, h⟩ := setVecAt_thr s t r m v
  simp [State.phys, winStart, h]

/-- The register that is written, lane by lane. -/
theorem lane_setVecAt (s : State) (t r : Nat) (m : BitVec 32) (v : Vec) {i : Nat} (h : i < 32) :
    lane ((s.setVecAt t r m v).vecAt t r) i = if m.getLsbD i then lane v i else lane (s.vecAt t r) i := by
  have hw : (s.setVecAt t r m v).vecAt t r = if m = BitVec.allOnes 32 then v else merge m v (s.vecAt t r) := by
    conv_lhs => unfold State.vecAt
    rw [setVecAt_phys, setVecAt_core]
    simp
  rw [hw]
  split
  · next hm =>
    have h1 : m.getLsbD i = true := by rw [hm, BitVec.getLsbD_allOnes]; simpa using h
    rw [h1]; rfl
  · exact lane_merge m v _ h

/-- A vector result: window register d is written under a mask, and the instruction is complete. -/
theorem writeVec_spec (d : BitVec 6) (m : BitVec 32) (v : Vec) (s : State) :
    ∃ t, writeVec d m v s = .next t ∧ WroteVec d.toNat m (lane v) s t := by
  refine ⟨_, rfl, ?_⟩
  set q := s.setVec d.toNat m v with hq
  have hqd : q = s.setVecAt s.cur d.toNat m v := rfl
  have hc : q.cur = s.cur := by rw [hqd]; simp
  obtain ⟨u, hu⟩ := setVecAt_thr s s.cur d.toNat m v
  have ht : q.retire.thr s.cur =
      { s.me with run := { s.me.run with undoRegs := u }, pc := s.me.pc + 4, insn := s.me.insn + 1, wait := .ready } := by
    rw [State.retire, State.retireAt, hc]
    simp only [State.thr_setThr_self]
    rw [hqd, hu]; rfl
  have hv : ∀ r, q.retire.vecAt s.cur r = q.vecAt s.cur r := by
    intro r
    unfold State.vecAt State.phys winStart
    rw [ht, hqd, hu]
    rfl
  refine ⟨?_, ?_, ?_, ?_, ?_, ?_, ?_, ?_, ?_, ?_, ?_, ?_⟩
  · intro i hi
    rw [hv, hqd, lane_setVecAt _ _ _ _ _ hi]
  · intro k hk
    rw [State.retire, State.retireAt, State.core_setThr, hqd, setVecAt_core]
    exact SMap.getD_set_ne _ _ _ hk
  · rw [State.retire, State.retireAt, State.core_setThr, hqd, setVecAt_core]
  · rw [ht]
  · rw [ht]
  · rw [ht]
  · rw [ht]
  · intro w hw
    rw [State.retire, State.retireAt, hc, State.thr_setThr_ne _ _ hw, hqd, setVecAt_thr_ne _ _ _ _ _ hw]
  · intro h hh
    rw [State.retire, State.retireAt, State.core_setThr, hqd, setVecAt_core_ne _ _ _ _ _ hh]
  · intro k
    exact setVecAt_bad s s.cur d.toNat m v k
  · exact setVecAt_rest s s.cur d.toNat m v
  · intro l
    show Memory.get (s.setVecAt s.cur d.toNat m v).mem l = _
    simp

end Sys2Proof.Machine
end

