-- ==== Sys2Proof/Tests/Slice0.lean ====
section
/-! SUPPORT. Tests: ill-formed instructions that the check refuses, words written out from the encoding strips of the opcode table, single
steps with results worked out by hand from the rules, and for every statement with hypotheses a state that meets them. -/

open Sys2Proof Sys2Proof.Machine Claim

namespace Sys2Proof.Tests

set_option Elab.async false

/-! ### Ill-formed instructions -/

/-- Unassigned modifiers, combinations and CSR numbers, one for each check (R60 to R67, R290). -/
theorem test_modifiers_refused : ∀ i ∈ ([
    .br 0 0 6 0, .brp 1 3 0, .ld 1 0 0 0 0 1, .lds 1 0 0 3 0 0, .lds 1 0 0 0 0 1, .st 1 0 0 0 0 1, .red 1 0 0 7 0 1, .fence 0 6,
    .pref 0 0 2, .vcvtn 1 2 0, .vcvtz 1 2 10, .vcvts 1 2 0, .vcvtw 1 2 10, .nbmv 1 0 0 2 0, .xcopy 1 6, .xmcast 1 6, .fred 1 6,
    .csrr 1 0x005, .csrr 1 0x80C, .csrw 1 0x004, .csrw 1 0x800, .csrw 1 0] : List Instr), i.wellFormed = false := by
  decide

/-- Registers that do not exist or groups past the last one, one for each check (R56, R197, R205). -/
theorem test_registers_refused : ∀ i ∈ ([
    .brp 8 0 0, .dqpush 62, .dqpop 0, .dqpop 62, .dqsplit 0 1, .dqsplit 62 1, .dqsteal 0, .amo 63 0 0 7 0, .amo 0 0 0 7 0,
    .vceq 0 1 2 0, .vcne 8 1 2 0, .vclt 0 1 2 0, .vcle 8 1 2 0, .vcltu 0 1 2 0, .vcleu 8 1 2 0, .vfceq 0 1 2 0, .vfclt 8 1 2 0,
    .vfcle 0 1 2 0, .vfcun 8 1 2 0, .pand 0 1 1, .por 1 8 1, .pxor 1 1 8, .pnot 0 1, .pnot 1 8, .vcvtn 1 63 1, .vcvtz 62 1 5,
    .vcvts 1 49 6, .vcvtw 57 1 9, .vpopc 1 8, .fmtw 4 1, .fmtr 1 4, .nbmv 61 0 0 0 0, .xcopy 61 0, .xmcast 61 0, .apgather 1 61,
    .apscatter 1 61, .apscatteradd 1 61, .apbin 1 61 0, .mrecv 1 32, .barcfg 1 61, .mgrant 1 61 1, .mrelease 1 63, .mquota 0,
    .mquota 63, .fred 61 0] : List Instr), i.wellFormed = false := by
  decide

/-- The last values that the same checks admit. -/
theorem test_last_registers_accepted : ∀ i ∈ ([
    .brp 7 2 0, .br 0 0 5 0, .dqpush 61, .dqpop 61, .amo 62 0 0 7 0, .amo 0 0 0 6 0, .vceq 7 1 2 0, .pnot 7 7, .vcvtn 63 62 1,
    .vcvtz 61 48 5, .fmtw 3 1, .nbmv 60 0 0 1 0, .xcopy 60 5, .mrecv 1 31, .mrelease 1 62, .mquota 62, .fred 60 5, .csrr 1 0x824,
    .csrw 1 0x801, .fence 3 5, .red 1 0 0 7 0 0] : List Instr), i.wellFormed = true := by
  decide

/-- A step of the machine without a word is no well-formed instruction. -/
theorem test_events_have_no_word : (Instr.boot 0 (0, 0) 0).wellFormed = false ∧ (Instr.debugHalt 0).wellFormed = false := by decide

/-! ### Words: fields separated as the encoding strips of the opcode table separate them -/

theorem test_words_scalar : ∀ x ∈ ([
    (0b00000000000000000000000000000000, .illegal),
    (0b0000000_100110_011111_101101_0000001, .add 45 31 38),
    (0b0000001_101011_110100_010101_0000001, .sub 21 52 43),
    (0b0000010_111001_111101_011010_0000001, .and 26 61 57),
    (0b0000011_000110_011001_101111_0000001, .or 47 25 6),
    (0b0000100_100001_010011_110110_0000001, .xor 54 19 33),
    (0b0000101_110010_111100_111000_0000001, .sll 56 60 50),
    (0b0000110_110101_000011_100101_0000001, .srl 37 3 53),
    (0b0000111_101001_111000_010000_0000001, .sra 16 56 41),
    (0b0001000_011110_101110_110010_0000001, .slt 50 46 30),
    (0b0001001_110111_011010_111010_0000001, .sltu 58 26 55),
    (0b0001010_011100_011100_010011_0000001, .seq 19 28 28),
    (0b0001011_001000_000001_001111_0000001, .min 15 1 8),
    (0b0001100_100001_000110_000111_0000001, .max 7 6 33),
    (0b0001101_011101_001100_101010_0000001, .minu 42 12 29),
    (0b0001110_011001_100011_011101_0000001, .maxu 29 35 25),
    (0b0000000_101100_110100_011101_0000010, .mul 29 52 44),
    (0b0000001_000100_110100_111101_0000010, .mulh 61 52 4),
    (0b0000010_001101_001111_110000_0000010, .mulhu 48 15 13),
    (0b0000011_001111_111011_110110_0000010, .div 54 59 15),
    (0b0000100_100101_100101_100101_0000010, .divu 37 37 37),
    (0b0000101_110000_100001_111011_0000010, .rem 59 33 48),
    (0b0000110_001100_010100_111111_0000010, .remu 63 20 12),
    (0b0000000000000_010111_110001_0000011, .clz 49 23),
    (0b0000001000000_010010_010010_0000011, .ctz 18 18),
    (0b0000010000000_000001_000001_0000011, .popc 1 1),
    (0b0000011000000_111101_101110_0000011, .sextb 46 61),
    (0b0000100000000_011111_111101_0000011, .sexth 61 31),
    (0b0000101000000_111000_111011_0000011, .sextw 59 56),
    (0b0000110000000_010100_000110_0000011, .zextw 6 20),
    (0b1110101010011_111011_110101_0000100, .addi 53 59 7507),
    (0b0011001011001_011000_111111_0000101, .andi 63 24 1625),
    (0b1011110101101_001100_011110_0000110, .ori 30 12 6061),
    (0b0011010011010_001111_000110_0000111, .xori 6 15 1690),
    (0b0000000_111011_010011_011000_0001000, .slli 24 19 59),
    (0b0000001_100100_111011_001000_0001000, .srli 8 59 36),
    (0b0000010_011101_010000_010000_0001000, .srai 16 16 29),
    (0b1101001100110_001010_111111_0001001, .slti 63 10 6758),
    (0b0_101010_001000_011100_101001_0001010, .csel 41 28 8 42),
    (0b1_111100_110110_010010_100011_0001010, .cselz 35 18 54 60),
    (0b1111000000010011101_001001_0001011, .lui 9 491677),
    (0b0000000_110110_100010_011101_0001100, .fadd 29 34 54),
    (0b0000001_011001_101110_011010_0001100, .fsub 26 46 25),
    (0b0000010_011010_101100_010011_0001100, .fmul 19 44 26),
    (0b0000011_000001_111110_111010_0001100, .fdiv 58 62 1),
    (0b0000100000000_110111_110011_0001100, .fsqrt 51 55),
    (0b0_100000_111110_111010_000010_0001101, .fmadd 2 58 62 32),
    (0b0000000_101011_100100_101000_0001110, .feq 40 36 43),
    (0b0000001_111000_101111_011000_0001110, .flt 24 47 56),
    (0b0000000000000_100111_000100_0001111, .ftoi 4 39),
    (0b0000001000000_000100_000110_0001111, .itof 6 4)] : List (BitVec 32 × Instr)), decode x.1 = .ok x.2 ∧ encode x.2 = x.1 := by
  decide +kernel

theorem test_words_control : ∀ x ∈ ([
    (0b0111011100_010_010101_011001_0010000, .br 25 21 2 476),
    (0b0011111011110011001_100001_0010001, .jal 33 128921),
    (0b0101111011100_111110_110111_0010010, .jalr 55 62 3036),
    (0b0110101010000101110_111000_0010011, .auipc 56 218158),
    (0b1000011000_010_000000_000100_0010100, .brp 4 2 536),
    (0b00000000000000000000000000010101, .tend),
    (0b00000010000000000000000000010101, .yield)] : List (BitVec 32 × Instr)), decode x.1 = .ok x.2 ∧ encode x.2 = x.1 := by
  decide +kernel

theorem test_words_tasks : ∀ x ∈ ([
    (0b0000000_011010_100011_110000_0011000, .tspawn 48 35 26),
    (0b0000000000000_011000_0000000011001, .dqpush 24),
    (0b0000001000000000000_010111_0011001, .dqpop 23),
    (0b0000010000000_010000_100110_0011001, .dqsplit 38 16),
    (0b0000011000000000000_101000_0011001, .dqsteal 40),
    (0b0000100000000000000_110010_0011001, .dqcount 50),
    (0b00000000000000000000000000011010, .sclose),
    (0b0000001000000_100000_0000000011010, .sdrop 32),
    (0b0000010000000000000_101110_0011010, .sdepth 46),
    (0b1000001111011_0000000000000011011, .sopen 4219),
    (0b0110001_110011_010000_011110_0011100, .tsignal 16 51 3166)] : List (BitVec 32 × Instr)), decode x.1 = .ok x.2 ∧ encode x.2 = x.1 := by
  decide +kernel

theorem test_words_memory : ∀ x ∈ ([
    (0b01_1_01_011100_10111110_000010_0100000, .ld 2 190 28 1 1 1),
    (0b11_1_01_111100_01101101_101001_0100001, .lds 41 109 60 1 1 3),
    (0b10_1_10_110110_11100110_011000_0100010, .st 24 230 54 2 1 2),
    (0b00_110_111111_11000000_111011_0100011, .vld 59 192 63 6),
    (0b00_100_001011_00010101_001110_0100100, .vst 14 21 11 4),
    (0b11_111_001111_11010110_000100_0100101, .amo 4 214 15 7 3),
    (0b1_1_010_100100_00101110_000111_0100110, .red 7 46 36 2 1 1),
    (0b00_011_11_0000000000000000000100111, .fence 3 3),
    (0b000_01_001110_00101000_0000000101000, .pref 40 14 1),
    (0b00000_011111_11011011_100101_0101001, .wbr 37 219 31),
    (0b00000_100110_10111110_001000_0101010, .invr 8 190 38)] : List (BitVec 32 × Instr)), decode x.1 = .ok x.2 ∧ encode x.2 = x.1 := by
  decide +kernel

theorem test_words_vector_a : ∀ x ∈ ([
    (0b0000_001_111011_110100_101100_0110000, .vadd 44 52 59 1),
    (0b0001_011_001011_001010_111000_0110000, .vsub 56 10 11 3),
    (0b0010_001_010010_000011_010010_0110000, .vmul 18 3 18 1),
    (0b0011_010_001000_000100_000110_0110000, .vmin 6 4 8 2),
    (0b0100_011_000010_000010_100100_0110000, .vmax 36 2 2 3),
    (0b0101_010_001000_111110_100110_0110000, .vminu 38 62 8 2),
    (0b0110_011_100100_101001_010000_0110000, .vmaxu 16 41 36 3),
    (0b0111_100_001100_010001_011010_0110000, .vand 26 17 12 4),
    (0b1000_011_100010_010001_111011_0110000, .vor 59 17 34 3),
    (0b1001_110_011100_010111_011010_0110000, .vxor 26 23 28 6),
    (0b1010_011_001111_000001_001111_0110000, .vsll 15 1 15 3),
    (0b1011_011_111110_001101_101100_0110000, .vsrl 44 13 62 3),
    (0b1100_011_010001_100110_011100_0110000, .vsra 28 38 17 3),
    (0b1101_111_000100_110100_111101_0110000, .vadds 61 52 4 7),
    (0b1110_010_100011_101111_100100_0110000, .vsubs 36 47 35 2),
    (0b0000_100_000110_100010_111101_0110001, .vfadd 61 34 6 4),
    (0b0001_011_001100_011100_111010_0110001, .vfsub 58 28 12 3),
    (0b0010_101_100010_001011_011010_0110001, .vfmul 26 11 34 5),
    (0b0011_110_110101_010000_111111_0110001, .vfmin 63 16 53 6),
    (0b0100_101_001001_010010_101100_0110001, .vfmax 44 18 9 5),
    (0b0101_011_000000_110001_010100_0110001, .vfabs 20 49 3),
    (0b0110_111_000000_100001_110110_0110001, .vfneg 54 33 7),
    (0b0000_110_010000_000111_010100_0110010, .vfma 20 7 16 6),
    (0b0001_011_001110_010100_111101_0110010, .vfms 61 20 14 3),
    (0b0000_010_110110_111110_010000_0110011, .vbadd 16 62 54 2),
    (0b0001_111_010111_001010_100110_0110011, .vbmul 38 10 23 7),
    (0b0010_100_011110_001100_011101_0110011, .vbfma 29 12 30 4),
    (0b0000_111_000100_011000_000100_0110100, .vceq 4 24 4 7),
    (0b0001_101_101000_011001_000011_0110100, .vcne 3 25 40 5),
    (0b0010_100_001110_001010_000101_0110100, .vclt 5 10 14 4),
    (0b0011_010_111100_101110_000100_0110100, .vcle 4 46 60 2),
    (0b0100_011_011000_001000_000100_0110100, .vcltu 4 8 24 3),
    (0b0101_010_000101_111111_000101_0110100, .vcleu 5 63 5 2),
    (0b0110_000_111000_110110_000101_0110100, .vfceq 5 54 56 0),
    (0b0111_010_101011_100001_000110_0110100, .vfclt 6 33 43 2),
    (0b1000_101_000100_000100_000100_0110100, .vfcle 4 4 4 5),
    (0b1001_101_101101_000100_000101_0110100, .vfcun 5 4 45 5),
    (0b0000_001_100100_001100_100100_0110101, .vsel 36 12 36 1),
    (0b0001000_000110_000101_000011_0110101, .pand 3 5 6),
    (0b0010000_000010_000001_000111_0110101, .por 7 1 2),
    (0b0011000_000011_000110_000001_0110101, .pxor 1 6 3),
    (0b0100000000000_000100_000100_0110101, .pnot 4 4),
    (0b0000_111_000000_101101_101100_0110110, .vcvtif 44 45 7),
    (0b0001_001_000000_000010_001010_0110110, .vcvtfi 10 2 1),
    (0b0001_000000000_110100_111001_0110111, .vcvtn 57 52 1),
    (0b0101_000000000_101001_000111_0111000, .vcvtz 7 41 5),
    (0b0100_000000000_110000_011110_0111001, .vcvts 30 48 4),
    (0b0101_000000000_100010_001111_0111010, .vcvtw 15 34 5)] : List (BitVec 32 × Instr)), decode x.1 = .ok x.2 ∧ encode x.2 = x.1 := by
  decide +kernel

theorem test_words_vector_b : ∀ x ∈ ([
    (0b0000_111_000000_100010_010110_0111011, .vrcp 22 34 7),
    (0b0001_111_000000_110100_101010_0111011, .vrsqrt 42 52 7),
    (0b0010_111_000000_110111_111001_0111011, .vexp2 57 55 7),
    (0b0011_100_000000_110110_101000_0111011, .vlog2 40 54 4),
    (0b0000_101_000100_000001_100010_0111100, .vfdiv 34 1 4 5),
    (0b0001_100_000000_111100_111111_0111100, .vfsqrt 63 60 4),
    (0b0000_100_000000_000011_011110_0111101, .vredadd 30 3 4),
    (0b0001_001_000000_110111_101010_0111101, .vredfadd 42 55 1),
    (0b0010_101_000000_111100_010000_0111101, .vredmax 16 60 5),
    (0b0011_100_000000_110000_010000_0111101, .vredfmax 16 48 4),
    (0b0100_001_000000_000111_111000_0111101, .vredmin 56 7 1),
    (0b0101_011_000000_110100_101000_0111101, .vredfmin 40 52 3),
    (0b0110_011_000000_101111_010111_0111101, .vscanadd 23 47 3),
    (0b0111_011_000000_010001_110111_0111101, .vscanfadd 55 17 3),
    (0b0000000_000011_111001_000110_0111110, .vperm 6 57 3),
    (0b0001_010_000000_110101_010011_0111110, .vbcast 19 53 2),
    (0b0010000_001010_101000_101100_0111110, .vrot 44 40 10),
    (0b0011000_110110_011000_100001_0111110, .vextr 33 24 54),
    (0b0100000_011001_110010_011100_0111110, .vinsr 28 50 25),
    (0b0000000000000_011101_101011_0111111, .vmovi 43 29),
    (0b0001000000000_000100_100111_0111111, .vstoi 39 4),
    (0b0010_101_100110_110111_010000_0111111, .vgath 16 55 38 5),
    (0b0000_011_000001_011011_011000_1000000, .vldx 24 27 1 3),
    (0b0001_110_111110_100010_011100_1000000, .vstx 28 34 62 6),
    (0b0000_010_100100_100001_011010_1000001, .vcompress 26 33 36 2),
    (0b0001_011_000100_101100_010010_1000001, .vexpand 18 44 4 3),
    (0b0000000000000000000_010001_1000010, .viota 17),
    (0b0001000000000_000100_000100_1000010, .vpopc 4 4)] : List (BitVec 32 × Instr)), decode x.1 = .ok x.2 ∧ encode x.2 = x.1 := by
  decide +kernel

theorem test_words_matrix : ∀ x ∈ ([
    (0b0000_1_1_11_011000_111000_01011_1010000, .mma 11 56 24 3 1 1),
    (0b00000000000000000000_01000_1010001, .acczero 8),
    (0b00000100000000_111000_11101_1010001, .accld 29 56),
    (0b00001000000000_000111_00100_1010001, .accst 4 7),
    (0b000011_10_000000_000101_00110_1010001, .acccvt 6 5 2),
    (0b0000000000000_101001_000010_1010010, .fmtw 2 41),
    (0b0000001000000_000011_011110_1010010, .fmtr 30 3),
    (0b0_10_00_111110_00110111_100001_1010011, .nbmv 33 55 62 0 2),
    (0b0000000000000_101011_000001_1010100, .termrd 1 43),
    (0b0000001000000_001101_0000001010100, .termclr 13)] : List (BitVec 32 × Instr)), decode x.1 = .ok x.2 ∧ encode x.2 = x.1 := by
  decide +kernel

theorem test_words_copies_streams : ∀ x ∈ ([
    (0b0000_100_000000_011111_0000001011000, .xcopy 31 4),
    (0b0000_001_000000_101000_0000001011001, .xmcast 40 1),
    (0b0000000000000_111110_0000001011010, .msub 62),
    (0b0000001000000_000001_0000001011010, .munsub 1),
    (0b0000000000000_100010_110001_1100000, .apgather 49 34),
    (0b0000001000000_000100_100110_1100000, .apscatter 38 4),
    (0b0000010000000_111100_110111_1100000, .apscatteradd 55 60),
    (0b000_1_011000000_010110_001101_1100000, .apbin 13 22 1),
    (0b0000000000000_110001_110100_1100001, .apqpop 52 49),
    (0b0000001000000_101011_011101_1100001, .apqpush 29 43),
    (0b0000010000000_111101_101000_1100001, .apwait 40 61),
    (0b0000011000000_001110_111101_1100001, .apqstat 61 14)] : List (BitVec 32 × Instr)), decode x.1 = .ok x.2 ∧ encode x.2 = x.1 := by
  decide +kernel

theorem test_words_mailboxes_watches : ∀ x ∈ ([
    (0b0000000_111001_010000_0_10011_1101000, .send 19 16 57),
    (0b0000000000000_000001_000010_1101001, .mrecv 2 1),
    (0b0000001000000000000_010100_1101001, .mpoll 20),
    (0b00000_011011_00010001_001010_1101010, .watch 10 17 27),
    (0b00000_110111_10111001_0000001101011, .unwatch 185 55),
    (0b0000000000000_110000_111000_1101100, .waitw 56 48),
    (0b0000000000000_000001_100101_1101101, .barcfg 37 1),
    (0b0000001000000_101001_0000001101101, .barrier 41),
    (0b0000010000000_001101_010101_1101101, .barpoll 21 13)] : List (BitVec 32 × Instr)), decode x.1 = .ok x.2 ∧ encode x.2 = x.1 := by
  decide +kernel

theorem test_words_fabric_system : ∀ x ∈ ([
    (0b000000_1_000000_100001_110111_1110000, .mgrant 55 33 1),
    (0b0000000000000_100011_011100_1110001, .mrelease 28 35),
    (0b0000001000000000000_101011_1110001, .mquota 43),
    (0b0000_100_000000_111011_0000001110010, .fred 59 4),
    (0b0000000000000_010111_0000001110011, .fbarrier 23),
    (0b0000001000000_011010_011010_1110011, .fbarpoll 26 26),
    (0b0_000000000010_000000_100101_1111000, .csrr 37 2),
    (0b0_100000100100_010100_0000001111001, .csrw 20 2084),
    (0b00000000000000000000000001111010, .ecall),
    (0b00000010000000000000000001111010, .ebreak),
    (0b00000100000000000000000001111010, .tret),
    (0b0000000000000000000_111001_1111011, .rdtime 57),
    (0b0000001000000000000_101011_1111011, .rdcycle 43),
    (0b0000010000000000000_100111_1111011, .rdinsn 39),
    (0b0000000_110100_101100_0000001111100, .tlbinv 44 52),
    (0b00000010000000000000000001111100, .wfi)] : List (BitVec 32 × Instr)), decode x.1 = .ok x.2 ∧ encode x.2 = x.1 := by
  decide +kernel

/-- Words that the decoder rejects, and the check of R68 that fails first. -/
theorem test_words_rejected :
    decode 0x0000007F = .error .opcode ∧ decode 0b0001111_000011_000010_000001_0000001 = .error .function ∧
    decode 0b0000000_000001_000010_000001_0000011 = .error .zeroField ∧ decode 0b00_0000000101_0_000000_000001_1111000 = .error .modifier := by
  decide

/-- The decoder reads bytes, lowest first, and refuses fewer than four (R53). -/
theorem test_decode_table_word : decodeTableWord 32 0x04206188 = some (.srai 3 3 4) ∧ decodeTableWord 32 0x7F = none := by decide


/-! ### Small states -/

/-- The state after an instruction. -/
def aft (i : Instr) (s : State) : State := match exec i s with | .next t => t | _ => {}

/-- The state after a step. -/
def stp (s : State) : State := match step s with | .next t => t | _ => {}

/-- A step that goes on leads to `stp`. -/
theorem step_stp {s : State} (h : (match step s with | .next _ => true | _ => false) = true) : step s = .next (stp s) := by
  unfold stp
  cases hs : step s <;> simp_all

/-- A field with its lowest bit at `lo`. -/
def up (lo v : Nat) : Nat := v * 2 ^ lo

/-- The effective RCB of a region: budgets of 16 dies, tasks and so on, the layout table at 0x0040_0000, and a heap window from
0x1000_0000 to 0x2000_0000 at the offset 0x4000_0000. -/
def rcb : Nat :=
  up 128 16 + up 139 64 + up 154 32 + up 160 131072 + up 192 65536 + up 448 0x00400000
  + up 512 0x10000000 + up 576 0x20000000 + up 640 0x40000000

/-- Region 0, the root. -/
def reg : Region := { rcb := 0x300000, eff := BitVec.ofNat 2048 rcb }

/-- A thread in slot 0 of core 0: s1 = 5, s2 = 9, s3 = -3, p1 = 0xF0F0F0F0. -/
def th : Thread := { live := true, pc := 0x1000, sreg := [(1, 5), (2, 9), (3, -3)], preg := [(1, 0xF0F0F0F0)], winRegs := 64, tiles := [0, 1] }

/-- One module with one region and one thread. -/
def st : State := { threads := [(0, th)], cores := [(0, { resident := some 0 })], modules := [(0, { regions := [(0, reg)] })] }

/-- The issuing thread's scalars, set. -/
def withS (xs : List (Nat × Nat)) (s : State) : State :=
  s.setMe { s.me with sreg := xs.foldl (fun m e => SMap.set m e.1 (BitVec.ofNat 64 e.2)) s.me.sreg }

/-- The issuing thread, changed. -/
def withTh (f : Thread → Thread) (s : State) : State := s.setMe (f s.me)

/-- Core 0, changed. -/
def withCore (f : Core → Core) (s : State) : State := s.setCore 0 (f (s.core 0))

/-- Cluster 0, changed. -/
def withCl (f : Cluster → Cluster) (s : State) : State := s.setCluster 0 (f (s.cluster 0))

/-- Module 0, changed. -/
def withMod (f : Module → Module) (s : State) : State := s.setModule 0 (f (s.module 0))

/-- The issuing thread in an explicit transaction. -/
def inTx (s : State) : State := withTh (fun t => { t with depth := 1, fallback := 0x2000, run := { active := true, ckpt := { sreg := [(3, 99)] } } }) s

/-- A word register of 32 lanes from its first lanes. -/
def vecOf (xs : List Nat) : Vec := ofLanes fun i => BitVec.ofNat 32 (xs.getD i 0)

/-- Window register r of the issuing thread, set; the window starts at 0. -/
def withV (r : Nat) (xs : List Nat) (s : State) : State := withCore (fun c => { c with store := SMap.set c.store r (vecOf xs) }) s

/-! ### The machine -/

/-- SRAI s3, s3, 4 placed where the next step fetches. -/
def placed (w : Nat) : State := State.reset.withFetchWord 32 w

theorem test_first_step : (stp (placed 0x04206188)).me.pc = 0x10000000004 ∧ (stp (placed 0x04206188)).me.insn = 1 := by decide +kernel

theorem witness_StepRunsDecoded :
    (placed 0x04206188).agenda = [] ∧ (placed 0x04206188).nextEvent = none ∧ (placed 0x04206188).nextIssue = some 0 ∧
    ((placed 0x04206188).thr 0).nextPc = none ∧ (placed 0x04206188).meetFetch 0 = (placed 0x04206188, none) ∧
    (placed 0x04206188).breakMatch 0 = none ∧ (((placed 0x04206188).markIssue 0).fetch 0).2 = .word 0x04206188 ∧
    decode 0x04206188 = .ok (.srai 3 3 4) ∧
    (let u := (((placed 0x04206188).markIssue 0).fetch 0).1
     (u.meetEntries (u.agent u.cur) (u.entriesOf (.srai 3 3 4))).2 = .ok ∧ (u.meetEntries (u.agent u.cur) (u.entriesOf (.srai 3 3 4))).1.me.live = true) := by
  decide +kernel


theorem witness_UndecodedWordTraps :
    (placed 0x7F).agenda = [] ∧ (placed 0x7F).nextEvent = none ∧ (placed 0x7F).nextIssue = some 0 ∧
    ((placed 0x7F).thr 0).nextPc = none ∧ (placed 0x7F).meetFetch 0 = (placed 0x7F, none) ∧ (placed 0x7F).breakMatch 0 = none ∧ (((placed 0x7F).markIssue 0).fetch 0).2 = .word 0x7F ∧
    decode 0x7F = .error .opcode ∧ (stp (placed 0x7F)).me.wait = .trapped := by decide +kernel

theorem witness_DecodeEncode : (Instr.tsignal 63 63 0x1FFF).wellFormed = true ∧ decode (encode (.tsignal 63 63 0x1FFF)) = .ok (.tsignal 63 63 0x1FFF) := by
  decide

theorem witness_StepKeepsCanonical : (placed 0x04206188).Canonical ∧ step (placed 0x04206188) = .next (stp (placed 0x04206188)) :=
  ⟨⟨by unfold State.MemoryOk; decide +kernel, by unfold SMap.Ok; decide +kernel, by unfold SMap.Ok; decide +kernel,
    by unfold SMap.Ok; decide +kernel, by unfold SMap.Ok; decide +kernel, by unfold SMap.Ok; decide +kernel,
    by unfold SMap.Ok; decide +kernel⟩, step_stp (by decide +kernel)⟩

theorem witness_MemoryReadsBack : Memory.wf [(5, 1), (9, 255)] = true ∧ Memory.set [(5, 1), (9, 255)] 9 0 = [(5, 1)] := by decide

/-! ### Scalars (chapter 07) -/

theorem test_scalar_wraps :
    (aft (.add 0 3 3) st).sr 0 = 0 ∧ (aft (.add 4 3 3) st).sr 4 = 0xFFFFFFFFFFFFFFFA ∧ (aft (.mulh 4 3 1) st).sr 4 = 0xFFFFFFFFFFFFFFFF ∧
    (aft (.mulhu 4 3 1) st).sr 4 = 4 ∧ (aft (.slt 4 3 1) st).sr 4 = 1 ∧ (aft (.sltu 4 3 1) st).sr 4 = 0 ∧
    (aft (.sra 4 3 1) st).sr 4 = 0xFFFFFFFFFFFFFFFF ∧ (aft (.srl 4 3 1) st).sr 4 = 0x07FFFFFFFFFFFFFF := by decide +kernel

theorem test_scalar_counts :
    (aft (.clz 4 1) st).sr 4 = 61 ∧ (aft (.clz 4 0) st).sr 4 = 64 ∧ (aft (.ctz 4 0) st).sr 4 = 64 ∧ (aft (.popc 4 3) st).sr 4 = 63 ∧
    (aft (.sextb 4 5) (withS [(5, 0x80)] st)).sr 4 = 0xFFFFFFFFFFFFFF80 ∧ (aft (.zextw 4 3) st).sr 4 = 0xFFFFFFFD := by decide +kernel

theorem test_scalar_immediates :
    (aft (.addi 4 1 0x1FFF) st).sr 4 = 4 ∧ (aft (.lui 4 0x40000) st).sr 4 = 0xFFFFFFFF80000000 ∧ (aft (.auipc 4 1) st).sr 4 = 0x3000 ∧
    (aft (.csel 4 1 2 0) st).sr 4 = 9 ∧ (aft (.cselz 4 1 2 0) st).sr 4 = 5 := by decide +kernel

/-- -3 / 5 parks with quotient 0 for the least time; a zero divisor gives all ones (R93, R95). -/
theorem test_divide :
    (aft (.div 4 3 1) st).me.wait = .result .int 8 (.scalar 4 0) ∧ (aft (.rem 4 3 1) st).me.wait = .result .int 8 (.scalar 4 (-3)) ∧
    (aft (.divu 4 3 0) st).me.wait = .result .int 8 (.scalar 4 (-1)) ∧
    (aft (.divu 4 3 1) st).me.wait = .result .int 24 (.scalar 4 0x3333333333333332) := by decide +kernel

theorem witness_DivideCorners : (5 : Word) ≠ 0 ∧ ¬ ((-3 : Word) = BitVec.ofInt 64 (-2 ^ 63) ∧ (5 : Word) = BitVec.ofInt 64 (-1)) := by decide

theorem witness_DividesComplete :
    let s (u : DivUnit) : State := withTh (fun t => { t with wait := .result u 0 (.scalar 4 7) }) st
    let r (u : DivUnit) : State := withTh (fun t => { t with wait := .result u 1 (.scalar 4 7) }) st
    ((s .int).thr 0).live = true ∧ 0 ≤ (s .int).cycleOf 0 ∧ ((s .int).thr 0).wait = .result .int 0 (.scalar 4 7) ∧
    ((s .fp).thr 0).wait = .result .fp 0 (.scalar 4 7) ∧ ((s .vector).thr 0).wait = .result .vector 0 (.scalar 4 7) ∧
    (r .int).cycleOf 0 < 1 ∧ ((r .int).thr 0).wait = .result .int 1 (.scalar 4 7) ∧
    ((r .fp).thr 0).wait = .result .fp 1 (.scalar 4 7) ∧ ((r .vector).thr 0).wait = .result .vector 1 (.scalar 4 7) ∧
    (aft (.divideComplete 0) (s .int)).sr 4 = 7 ∧ (aft (.divideComplete 0) (r .int)).sr 4 = 0 := by decide +kernel

/-- 1 + 2^-24 rounds to even, with NX; 1 / 0 is infinite with DZ; the square root of -1 is the NaN with NV. -/
theorem test_float :
    fadd32 0x3F800000 0x33800000 = (0x3F800000, flagNX) ∧ fdiv32 0x3F800000 0 = (0x7F800000, flagDZ) ∧ fsqrt32 0xBF800000 = (nan32, flagNV) ∧
    fmul32 0x40400000 0x40A00000 = (0x41700000, 0) ∧ fmadd32 0x40000000 0x40000000 0xC0800000 = (0, 0) := by decide +kernel

theorem witness_RoundToNearest : rational (num32 (round32 (.fin true 0x1000001 (-24))).1) = some (-1) := by decide +kernel

theorem witness_ExactArithmetic : rational (.fin false 3 0) = some 3 ∧ rational (.fin true 1 (-1)) = some (-1 / 2) := by decide +kernel

/-- The largest finite number, the midpoint above it, a quotient, a root, and a subnormal that is not exact. -/
theorem witness_FloatRoundings :
    rational (num32 0x7F7FFFFF) = some (16777215 * 2 ^ 104) ∧ round32 (.fin false 33554431 103) = (0x7F800000, flagOF ||| flagNX) ∧
    round32 (.fin false 33554430 103) = (0x7F7FFFFF, 0) ∧ rational (num32 0x3F800000) = some 1 ∧ rational (num32 0x40400000) = some 3 ∧
    (3 : ℚ) ≠ 0 ∧ fdiv32 0x3F800000 0x40400000 = (0x3EAAAAAB, flagNX) ∧ fsqrt32 0x40400000 = (0x3FDDB3D7, flagNX) ∧
    fmul32 0x00800001 0x3F000000 = (0x00400000, flagUF ||| flagNX) := by decide +kernel

theorem witness_FloatSpecialCases :
    isNan 0x7FC00000 = true ∧ isSnan 0x7F800001 = true ∧ num32 0x7F800000 = .inf false ∧ num32 0xFF800000 = .inf true ∧
    num32 0x80000000 = .fin true 0 (-149) ∧ num32 1 = .fin false 1 (-149) ∧ num32 0x80000001 = .fin true 1 (-149) := by decide +kernel

theorem witness_FloatComparesAndConversions :
    let s := withS [(5, 0x7FC00000), (6, 0x7F800000), (7, 0xFF800000), (8, 0xC0200000), (9, 0x5F000000), (10, 0xDF000001), (11, 0xDF000000)] st
    isNan (s.fp 5) = true ∧ rational (num32 (s.fp 8)) = some (-5 / 2) ∧ num32 (s.fp 6) = .inf false ∧ num32 (s.fp 7) ≠ .nan ∧
    rational (num32 (s.fp 9)) = some (2 ^ 63) ∧ rational (num32 (s.fp 10)) = some (-2 ^ 63 - 2 ^ 40) ∧
    rational (num32 (s.fp 11)) = some (-2 ^ 63) ∧
    (aft (.ftoi 4 8) s).sr 4 = BitVec.ofInt 64 (-2) ∧ (aft (.ftoi 4 9) s).sr 4 = BitVec.ofInt 64 (2 ^ 63 - 1) ∧
    (aft (.ftoi 4 11) s).sr 4 = BitVec.ofInt 64 (-2 ^ 63) ∧ (aft (.ftoi 4 11) s).me.fflags = 0 := by decide +kernel

theorem witness_FloatWords :
    (0b0000010_000001_000001_000001_0001110 : BitVec 32).toNat % 128 = 0x0E ∧ 2 ≤ (0b0000010_000001_000001_000001_0001110 : BitVec 32).toNat / 2 ^ 25 ∧
    (0b0000000_000001_000001_000001_0001111 : BitVec 32).toNat % 128 = 0x0F ∧
    (0b0000000_000001_000001_000001_0001111 : BitVec 32).toNat / 2 ^ 19 % 64 ≠ 0 := by decide

theorem witness_Branches :
    compares 2 (st.sr 3) (st.sr 1) ∧ ¬ compares 4 (st.sr 3) (st.sr 1) ∧ tests 0 (st.pr 1) ∧ ¬ tests 1 (st.pr 1) ∧ tests 1 (st.pr 0) ∧
    tests 2 (st.pr 2) ∧ (aft (.br 3 1 2 0x3FF) st).me.pc = 0xFFC ∧ (aft (.brp 1 1 2) st).me.pc = 0x1004 := by
  refine ⟨.inr (.inr (.inl ⟨rfl, by decide +kernel⟩)), ?_, .inl ⟨rfl, 4, by decide +kernel⟩, ?_, .inr (.inl ⟨rfl, by decide +kernel⟩),
    .inr (.inr ⟨rfl, fun i => by rw [show st.pr 2 = 0 by decide +kernel]; simp⟩), by decide +kernel, by decide +kernel⟩
  · unfold compares; decide +kernel
  · rintro (h | h | h)
    · exact absurd h.1 (by decide)
    · exact absurd (h.2 0 (by decide)) (by decide +kernel)
    · exact absurd h.1 (by decide)

theorem witness_JumpWords : ((withS [(1, 0x2000)] st).sr 1).toNat % 4 = 0 ∧ (aft (.jalr 0 1 0) (withS [(1, 0x2000)] st)).me.pc = 0x2000 := by decide +kernel

theorem witness_IndirectJump :
    (BitVec.ofInt 64 ((st.sr 1).toNat + (0x1FFF : BitVec 13).toInt)).toNat % 4 = 0 ∧
    (BitVec.ofInt 64 ((st.sr 1).toNat + (1 : BitVec 13).toInt)).toNat % 4 ≠ 0 ∧ st.me.run.active = false ∧ st.me.run.ordered = false ∧
    (aft (.jalr 1 1 0x1FFF) st).me.pc = 4 ∧ (aft (.jalr 1 1 0x1FFF) st).sr 1 = 0x1004 ∧ (aft (.jalr 1 1 1) st).me.wait = .trapped := by
  decide +kernel


/-! ### Tasks, deques, mailboxes, barriers (chapters 02, 07) -/

/-- A deque of n entries, entry i from 10 i to 10 i + 7. -/
def dq (n : Nat) : List DqEntry := (List.range n).map fun i => { lo := BitVec.ofNat 64 (10 * i), hi := BitVec.ofNat 64 (10 * i + 7), tag := 3 }

/-- The deque of core 0, set, with s4 to s6 a range to push and s7 the entries to split off. -/
def withDq (n : Nat) (s : State) : State := withS [(4, 1), (5, 2), (6, 9), (7, 7)] (withCore (fun c => { c with deque := dq n }) s)

theorem witness_DequeOperations :
    isCcc st.cur = false ∧ ((withDq 63 st).srN 5).toNat ≤ ((withDq 63 st).sr 6).toNat ∧
    ((withDq 63 st).sr 4).toNat < ((withDq 63 st).srN 5).toNat ∧ (withDq 63 st).deque.length < 64 ∧ 64 ≤ (withDq 64 st).deque.length ∧
    st.me.run.active = false ∧ st.me.run.ordered = false ∧ (withDq 0 st).deque = [] ∧ (withDq 1 st).deque = [] ++ [⟨0, 7, 3⟩] ∧
    (withDq 1 st).sr 0 = 0 ∧ (withDq 1 st).sr 7 ≠ 0 ∧
    min ((withDq 1 st).sr 7).toNat 7 = 7 ∧ min ((withDq 1 st).sr 6).toNat 7 = 7 ∧ min ((withDq 1 st).sr 5).toNat 7 < 7 ∧
    (aft (.dqpush 4) (withDq 63 st)).deque.length = 64 ∧ (aft (.dqpush 4) (withDq 64 st)).me.wait = .trapped ∧
    (aft (.dqsplit 8 5) (withDq 1 st)).deque = [⟨2, 7, 3⟩] ∧ (aft (.dqsplit 8 5) (withDq 1 st)).sr 9 = 2 ∧
    (aft (.dqsplit 8 7) (withDq 1 st)).deque = [] := by decide +kernel

/-- A second core of the cluster that holds region 0, with one entry that does not split and one that does. -/
def withVictim (s : State) : State := s.setCore 1 { resident := some 0, deque := [⟨5, 6, 1⟩, ⟨8, 10, 2⟩] }

theorem witness_DequeSteal :
    st.victim st.cur = none ∧ (withVictim st).victim st.cur = some 1 ∧ ((withVictim st).core 1).deque = [⟨5, 6, 1⟩] ++ ⟨8, 10, 2⟩ :: [] ∧
    (∀ y ∈ [(⟨5, 6, 1⟩ : DqEntry)], y.splits = false) ∧ (⟨8, 10, 2⟩ : DqEntry).splits = true := by
  refine ⟨by decide +kernel, ?_, by decide +kernel, by decide, by decide⟩
  have h (start : Nat) : pickVictim start [1] = some 1 := rfl
  exact h _

/-- A steal waits out the cycle of its issue, and then finds no victim. -/
theorem witness_DequeSteal_waits :
    let s := (withTh (fun t => { t with wait := .steal 5 7 }) st).setDie 0 { st.die 0 with cycles := 7 }
    let u := (withTh (fun t => { t with wait := .steal 5 7 }) st).setDie 0 { st.die 0 with cycles := 8 }
    isCcc st.cur = false ∧ (s.thr 0).live = true ∧ (s.thr 0).wait = .steal 5 7 ∧ s.cycleOf 0 ≤ 7 ∧ 7 < u.cycleOf 0 ∧ u.victim 0 = none ∧
    (aft (.dqsteal 5) st).me.wait = .steal 5 (st.cycleOf 0) ∧ (aft (.accessResponse 0 0) s).me.wait = .steal 5 7 ∧
    (aft (.accessResponse 0 0) u).me.wait = .ready ∧ (aft (.accessResponse 0 0) u).sr 5 = 0 := by decide +kernel

/-- A response to the thief counts in bank 63 of its core. -/
theorem witness_DequeSteal_counts :
    let u := (withTh (fun t => { t with wait := .steal 5 7 }) st).setDie 0 { st.die 0 with cycles := 8 }
    SMap.getD ((aft (.accessResponse 0 0) u).core 0).dbg.dcnt 63 0 = 1 ∧ isCcc 0 = false := by decide +kernel

/-- A descriptor of region `r` bound to counter 3 where `cntv`. -/
def descOf (r : Nat) (cntv : Bool) : Nat := 0x5000 + up 64 11 + up 128 12 + up 384 r + (if cntv then up 394 1 else 0) + up 395 3

/-- Window register 2 holds a descriptor, s4 its index and s5 the own slice. -/
def withDesc (d : Nat) (s : State) : State :=
  withS [(4, 2), (5, 0x1FFFF)] (withCore (fun c => { c with store := [(2, BitVec.ofNat 1024 d)] }) s)

/-- The first n descriptor slots of slice 0 are taken. -/
def full (n : Nat) (s : State) : State := withCl (fun c => { c with tasks := (List.range n).map fun n => (n, ({} : Task)) }) s

/-- Counter 3 of cluster 0, set. -/
def withCnt (k : Counter) (s : State) : State := withCl (fun c => { c with counters := [(3, k)] }) s

theorem witness_Spawn :
    let s := withDesc (descOf 0 false) st
    let desc := (s.vec (s.sr 4).toNat).setWidth 512
    NoRun s ∧ Settled s ∧ (s.sr 4).toNat < s.w ∧ Clean s [((s.sr 4).toNat, 0xFFFF)] ∧ (s.sr 5).toNat < 2 ^ 17 ∧
    selectCluster s.cur (s.sr 5).toNat = some 0 ∧ dEntry desc < 2 ^ 57 ∧ dAccn desc ≤ 32 ∧
    s.descriptorOk 0 desc (s.mayReach s.cur) = true ∧ s.firstFree (if dCntv desc then [0] else dieClusters 0) = some (0, 0) ∧
    (let t := withDesc (descOf 1 false) st
     t.descriptorOk 0 ((t.vec 2).setWidth 512) (t.mayReach t.cur) = false) ∧
    (aft (.tspawn 6 4 5) s).me.wait = .response 63 (.scalar 6 0) ∧ ((aft (.tspawn 6 4 5) s).task 0 0).state = .ready ∧
    (let c := withCnt { value := 1 } (withDesc (descOf 0 true) st)
     ((aft (.tspawn 6 4 5) c).task 0 0).state = .waiting ∧ ((aft (.tspawn 6 4 5) c).counter 0 3).bound = some 0) := by
  unfold NoRun Settled Clean; decide +kernel

theorem witness_SpawnHeld :
    let s := inTx (withDesc (descOf 0 false) st)
    let desc := (s.vec (s.sr 4).toNat).setWidth 512
    (s.sr 4).toNat < s.w ∧ Clean s [((s.sr 4).toNat, 0xFFFF)] ∧ (s.sr 5).toNat < 2 ^ 17 ∧ selectCluster s.cur (s.sr 5).toNat = some 0 ∧
    dEntry desc < 2 ^ 57 ∧ dAccn desc ≤ 32 ∧ s.me.run.active = true ∧ s.me.run.ordered = false ∧
    (aft (.tspawn 6 4 5) s).me.wait = .ready ∧ (aft (.tspawn 6 4 5) s).sr 6 = BitVec.ofInt 64 (-3) ∧
    (aft (.tspawn 6 4 5) s).me.run.held.map (·.args) = [[desc.toNat, 0]] ∧ ((aft (.tspawn 6 4 5) s).cluster 0).tasks = [] := by
  unfold Clean; decide +kernel

theorem free_none {α : Type} (m : SMap α) : ∀ fuel n, (∀ i, n ≤ i → i < n + fuel → SMap.has m i = true) → SMap.free m fuel n = none
  | 0, _, _ => rfl
  | fuel + 1, n, h => by
    simp only [SMap.free, h n (Nat.le_refl n) (by omega), if_true]
    exact free_none m fuel (n + 1) fun i a b => h i (by omega) (by omega)

theorem has_of_mem {α : Type} : ∀ (m : SMap α) (k : Nat), k ∈ m.map Prod.fst → SMap.has m k = true
  | (j, v) :: m, k, h => by
    by_cases e : j = k
    · simp [SMap.has, SMap.get?, e]
    · have : k ∈ m.map Prod.fst := by simpa [Ne.symm e] using h
      simpa [SMap.has, SMap.get?, e] using has_of_mem m k this

theorem full_firstFree (n : Nat) (s : State)
    (h : SMap.free ((List.range n).map fun n => (n, ({} : Task))) 1024 0 = none) : (full n s).firstFree [0] = none := by
  have e : ((full n s).cluster 0).tasks = (List.range n).map fun n => (n, ({} : Task)) := by
    simp [full, withCl]
  simp only [State.firstFree, State.freeSlot, e, h]

theorem witness_Spawn_full :
    dCntv (((withDesc (descOf 0 true) st).vec 2).setWidth 512) = true ∧ (full 1024 (withDesc (descOf 0 true) st)).firstFree [0] = none :=
  ⟨by decide +kernel, full_firstFree 1024 _ (free_none _ _ _ fun i _ hi => has_of_mem _ _ (by simp; omega))⟩

theorem witness_SpawnTraps :
    NoRun (withDesc 0 st) ∧ (withS [(4, 64)] st).w ≤ ((withS [(4, 64)] st).sr 4).toNat ∧
    Clean (withDesc 0 st) [(2, 0xFFFF)] ∧ 2 ^ 17 ≤ ((withS [(5, 0x20000)] (withDesc 0 st)).sr 5).toNat ∧ selectCluster 0 128 = none ∧
    2 ^ 57 ≤ dEntry (((withDesc (2 ^ 57) st).vec 2).setWidth 512) ∧ 32 < dAccn (((withDesc (up 411 33) st).vec 2).setWidth 512) ∧
    (aft (.tspawn 6 4 5) (withDesc (2 ^ 57) st)).me.wait = .trapped := by
  unfold NoRun Clean; decide +kernel

/-- Counter 3 holds a value and binds slot 2, which waits; s4 names it in the own slice. -/
def withBound (v : Nat) (r : Nat) (s : State) : State :=
  withS [(4, 0x1FFFF * 4096 + 3)] (withCl (fun c => { c with
    counters := [(3, { value := v, bound := some 2 })], tasks := [(2, { desc := BitVec.ofNat 512 (descOf r true) })] }) s)

theorem witness_Signal :
    let s := withBound 1 0 st
    NoRun s ∧ Settled s ∧ (s.sr 4).toNat < 2 ^ 29 ∧ 3 = (s.sr 4).toNat % 4096 ∧ selectCluster s.cur ((s.sr 4).toNat / 4096) = some 0 ∧
    s.signalOk s.cur 0 3 = true ∧ (withBound 1 1 st).signalOk 0 0 3 = false ∧ (s.sr 0 + BitVec.ofInt 64 (0 : BitVec 13).toInt).toInt = 0 ∧
    (s.sr 0 + BitVec.ofInt 64 (0x1FFF : BitVec 13).toInt).toInt ≠ 0 ∧ (s.counter 0 3).value ≤ 16777215 ∧
    ((aft (.tsignal 4 0 0x1FFF) s).task 0 2).state = .ready ∧ ((aft (.tsignal 4 0 0x1FFF) s).counter 0 3).bound = none ∧
    ((aft (.tsignal 4 0 0x1FFE) s).counter 0 3).under = true ∧ ((aft (.tsignal 4 0 1) (withBound 16777215 0 st)).counter 0 3).value = 16777215 := by
  unfold NoRun Settled; decide +kernel

theorem witness_SignalDenied :
    2 ^ 29 ≤ ((withS [(4, 2 ^ 29)] st).sr 4).toNat ∧ selectCluster 0 (((withS [(4, 128 * 4096)] st).sr 4).toNat / 4096) = none := by decide +kernel

theorem witness_SignalHeld :
    let s := inTx (withBound 1 0 st)
    s.me.run.active = true ∧ (s.sr 4).toNat < 2 ^ 29 ∧ selectCluster s.cur ((s.sr 4).toNat / 4096) = some 0 ∧
    (aft (.tsignal 4 0 0x1FFF) s).me.wait = .ready ∧ ((aft (.tsignal 4 0 0x1FFF) s).counter 0 3).value = 1 ∧
    (aft (.tsignal 4 0 0x1FFF) s).me.run.held.length = 1 := by decide +kernel

/-- The thread's task in slot 5 of its slice. -/
def withTask (s : State) : State :=
  withTh (fun t => { t with dslot := 5 }) (withCl (fun c => { c with tasks := [(5, { desc := BitVec.ofNat 512 (descOf 0 false), state := .dispatched })] }) s)

theorem witness_TaskEndAndYield :
    isCcc (withTask st).cur = false ∧ NoRun (withTask st) ∧ (withTask st).me.depth = 0 ∧ (withTask st).me.ordered = false ∧
    (aft .tend (withTask st)).me.live = false ∧ SMap.has ((aft .tend (withTask st)).cluster 0).tasks 5 = false ∧
    ((aft .yield (withTask st)).task 0 5).state = .ready ∧ dEntry ((aft .yield (withTask st)).task 0 5).desc = 0x1004 ∧
    dArg ((aft .yield (withTask st)).task 0 5).desc 1 = 5 := by
  unfold NoRun; decide +kernel

theorem witness_Mailboxes :
    let s := withCore (fun c => { c with present := 2, mail := [(1, 77)], inbound := [(2, 8), (1, 9)] }) (withS [(4, 936 * 1024 - 1), (5, 936 * 1024)] st)
    NoRun s ∧ Settled s ∧ (s.sr 4).toNat < 936 * 1024 ∧ 936 * 1024 ≤ (s.sr 5).toNat ∧ isCcc s.cur = false ∧
    (s.core 0).present.getLsbD 1 = true ∧ (s.core 0).present.getLsbD 31 = false ∧ (s.core 0).inbound = [(2, 8)] ++ (1, 9) :: [] ∧
    (aft (.mrecv 6 1) s).sr 6 = 77 ∧ SMap.getD ((aft (.mrecv 6 1) s).core 0).mail 1 0 = 9 ∧ (aft (.mpoll 6) s).sr 6 = 0x200000002 ∧
    (aft (.send 3 4 1) s).net.map (·.gate) = [false] ∧ (aft (.send 3 4 1) (withTh (fun t => { t with posted := 3 }) s)).net.map (·.gate) = [true] ∧
    (aft (.send 3 4 1) s).me.wait = .send ∧ (aft (.send 3 5 1) s).me.wait = .trapped := by
  unfold NoRun Settled; decide +kernel

/-- A SEND that finds 256 packets without an acknowledgement, one that finds another SEND before it, and one that is held. -/
theorem witness_Mailboxes_source :
    let s := withS [(4, 936 * 1024 - 1)] st
    let f : State := { s with net := List.replicate 256 { kind := 4, thread := 0, dest := 935 } }
    let e : State := { s with egress := [{ kind := 4, thread := 1, dest := 935, addr := 936 * 1024 - 1 }] }
    unackedIn s.net 0 false 935 < 256 ∧ 256 ≤ unackedIn f.net 0 false 935 ∧ (∀ x ∈ s.egress, x.before { kind := 4, dest := 935 } = false) ∧
    (aft (.send 3 4 1) f).egress.length = 1 ∧ (aft (.send 3 4 1) f).net.length = 256 ∧ (aft (.send 3 4 1) e).egress.length = 2 ∧
    (∃ x ∈ e.egress, x.before ((aft (.send 3 4 1) e).egress.getD 1 {}) = true) ∧
    (inTx s).me.run.active = true ∧ (aft (.send 3 4 1) (inTx s)).me.wait = .ready ∧
    (aft (.send 3 4 1) (inTx s)).me.run.held.map (·.args) = [[936 * 1024 - 1, 3, 5]] := by decide +kernel

/-- Barrier object 7, set; s4 to s7 configure it for `n` arrivals; s8 is its number and s9 the number past the last. -/
def withBar (b : Option BarrierObj) (n : Nat) (s : State) : State :=
  withS [(4, 7), (5, n), (6, 0), (8, 7), (9, 4096), (10, 4096), (11, 1), (12, 7), (13, 1), (14, 2 ^ 63 + 128 * 4096), (16, 7), (17, 1), (18, 2 ^ 63 + 3)]
    (withMod (fun m => { m with barriers := match b with | some b => [(7, b)] | none => [] }) s)

theorem witness_Barriers :
    let s := withBar none 16384 st
    let own : BarrierObj := { owner := 0, count := 2, arrivals := 1 }
    let o := withBar (some own) 16385 st
    let f := withBar (some { owner := 0, count := 2, arrivals := 0 }) 2 st
    s.barrier 0 7 = none ∧ (s.actsFor 0).isSome = true ∧ s.execRegion 0 = 0 ∧ o.barrier 0 7 = some own ∧ f.barrier 0 7 = some { own with arrivals := 0 } ∧
    (withBar (some { owner := 9, count := 2 }) 2 st).barrier 0 7 = some { owner := 9, count := 2 } ∧ s.supervisor 0 = false ∧
    (aft (.barcfg 20 4) (withBar (some { owner := 9, count := 2 }) 2 st)).me.wait = .response 63 (.scalar 20 1) ∧
    (aft (.barcfg 20 4) (withBar none 16385 st)).me.wait = .response 63 (.scalar 20 2) ∧
    (aft (.barcfg 20 10) s).me.wait = .response 63 (.scalar 20 3) ∧
    (aft (.barcfg 20 4) (withBar (some own) 2 st)).me.wait = .response 63 (.scalar 20 4) ∧
    (aft (.barcfg 20 12) s).me.wait = .response 63 (.scalar 20 5) ∧ selectCluster 0 (128 % 2 ^ 17) = none ∧
    (aft (.barcfg 20 4) s).me.wait = .response 63 (.scalar 20 0) ∧ ((aft (.barcfg 20 4) s).barrier 0 7).isSome = true ∧
    (aft (.barcfg 20 16) s).me.wait = .response 63 (.scalar 20 0) ∧
    (aft (.barcfg 20 4) (withBar none 0 st)).me.wait = .response 63 (.scalar 20 0) ∧ (aft (.barcfg 20 4) (withBar none 0 st)).barrier 0 7 = none ∧
    o.mayArrive 0 own = true ∧ NoRun o ∧ Settled o ∧ own.count ≤ own.arrivals + 1 ∧ f.mayArrive 0 { own with arrivals := 0 } = true ∧
    (aft (.barrier 8) f).me.wait = .barrier 7 0 ∧ (aft (.barrier 8) o).me.pc = 0x1004 ∧ (aft (.barrier 9) o).me.wait = .trapped ∧
    (aft (.barpoll 20 8) o).me.wait = .response 63 (.scalar 20 1) ∧ (aft (.barpoll 20 9) o).me.wait = .response 63 (.scalar 20 (-1)) := by
  unfold NoRun Settled; decide +kernel

/-- Supervisor code configures the object of any region, user code of a CCC without a region none; and a region that may not arrive. -/
theorem witness_Barriers_owners :
    let b : BarrierObj := { owner := 9, count := 2 }
    let at_ (s : State) : State := withBar (some b) 2 s
    let v : State := { st with cur := cccBase, threads := [(cccBase, { th with super := true })] }
    let u := withTh (fun t => { t with super := false }) v
    v.supervisor v.cur = true ∧ ((at_ v).barrier 0 7) = some b ∧ u.actsFor u.cur = none ∧ u.supervisor u.cur = false ∧
    (aft (.barcfg 20 4) (at_ v)).me.wait = .response 63 (.scalar 20 0) ∧ (aft (.barcfg 20 4) u).me.wait = .response 63 (.scalar 20 1) ∧
    (at_ st).mayArrive 0 b = false ∧ NoRun (at_ st) ∧ (aft (.barrier 8) (at_ st)).records.map (·.cause) = [causeREMOTE] ∧
    (aft (.barpoll 20 8) (at_ st)).me.wait = .response 63 (.scalar 20 (-1)) := by unfold NoRun; decide +kernel

/-! ### Transactions (chapter 19) -/

/-- The token of die 0 is held. -/
def withToken (t : Nat) (s : State) : State := s.setDie 0 { s.die 0 with token := some t }

/-- Another thread of the die in an explicit transaction. -/
def withOther (s : State) : State := s.setThr 1 { th with depth := 1, run := { active := true } }

theorem witness_TransactionOpens :
    let c3 := withTh (fun t => { t with confl := 3 }) st
    isCcc st.cur = false ∧ st.me.depth = 0 ∧ st.me.run.active = false ∧ st.me.confl < 3 ∧ (st.die 0).token = none ∧
    3 ≤ c3.me.confl ∧ ((withToken 0 c3).die 0).token = some 0 ∧ (withToken 0 c3).otherExplicit 0 = false ∧
    (withOther (withToken 0 c3)).otherExplicit 0 = true ∧ (c3.die 0).token ≠ some c3.cur ∧ 0 < (inTx st).me.depth ∧ (inTx st).me.depth < 16 ∧
    ((withToken 1 st).die 0).token.isSome = true ∧
    (let r := withTh (fun t => { t with wait := .retry .tokenBusy, age := 9 }) (withToken 1 st)
     r.me.confl = 0 ∧ (aft (.sopen 0) r).me.age = 9) ∧
    (aft (.sopen 0x1FFF) st).me.fallback = 0xFFC ∧ (aft (.sopen 0) (withToken 1 st)).me.wait = .retry .tokenBusy ∧
    (aft (.sopen 0) c3).me.wait = .retry .token ∧ (aft (.sopen 0) (withOther (withToken 0 c3))).me.wait = .retry .tokenDrain ∧
    (aft (.sopen 0) (withToken 0 c3)).me.irrev = true ∧ (aft (.sopen 0) (inTx st)).me.depth = 2 := by decide +kernel

theorem witness_TransactionCloses :
    let s := withTh (fun t => { t with run := { t.run with buf := [(0x50000000, 7)] }, confl := 2 }) (inTx st)
    isCcc s.cur = false ∧ st.me.depth = 0 ∧ NoRun st ∧ 1 < (aft (.sopen 0) (inTx st)).me.depth ∧ s.me.depth = 1 ∧ s.me.run.ordered = false ∧
    s.me.run.rel = false ∧ s.me.run.log = [] ∧ s.me.run.held = [] ∧ s.me.run.keys = [] ∧ s.lineKey = [] ∧ SMap.Ok s.me.run.buf ∧
    (∀ e ∈ s.me.run.buf, e.1 < 2 ^ 62) ∧ s.MemoryOk ∧
    (let o := withTh (fun t => { t with depth := 1, run := { active := true, ordered := true } }) st
     o.me.depth = 1 ∧ o.me.run.active = true ∧ o.me.run.ordered = true) ∧
    (let r := withTh (fun t => { t with run := { t.run with rel := true } }) s
     r.me.run.rel = true ∧ (aft .sclose r).me.wait = .commit ∧ ((aft .sclose r).cluster 0).commits.length = 1) ∧
    (aft .sclose st).me.wait = .trapped ∧ Memory.get (aft .sclose s).mem 0x50000000 = 7 ∧ (aft .sclose s).me.confl = 0 ∧
    (aft (.sdepth 4) s).sr 4 = 1 := by
  unfold NoRun SMap.Ok State.MemoryOk; decide +kernel

/-- A commit that is over: the thread goes on and what RUNST shows of the transaction is clear. -/
theorem witness_TransactionCloses_ends :
    let s := aft .sclose (withTh (fun t => { t with irrev := true, run := { t.run with rel := true } }) (withToken 0 (inTx st)))
    let w : Owner := { thread := 0, cluster := 0, region := 0 }
    w.here = true ∧ (s.thr 0).wait = .commit ∧ (s.thr 0).depth = 1 ∧ (s.thr 0).irrev = true ∧
    ((s.endCommit w none).thr 0).depth = 0 ∧ ((s.endCommit w none).thr 0).wait = .ready ∧ ((s.endCommit w none).die 0).token = none := by
  decide +kernel

theorem witness_TransactionAborts :
    let s := withTh (fun t => { t with run := { t.run with undoRegs := [(5, 3)], undoTiles := [(0, 9)] } }) (inTx st)
    (s.thr 0).live = true ∧ (s.thr 0).run.active = true ∧ (s.thr 0).run.ordered = false ∧ (s.thr 0).run.undoRegs.Ok ∧
    (s.thr 0).run.undoTiles.Ok ∧ InTransaction s ∧ isCcc s.cur = false ∧ 16 ≤ (withTh (fun t => { t with depth := 16 }) s).me.depth ∧
    NoRun st ∧ st.me.depth = 0 ∧ (s.thr 0).wait.inArray = false ∧
    (let m := withTh (fun t => { t with wait := .mma true 9 0 0 false 0 [] 0 }) s
     (m.thr 0).wait.inArray = true ∧ ((aft (.runAbort 0 abortCONFLICT 0) m).thr 0).doomed = some (.abort abortCONFLICT 0)) ∧
    (aft (.sdrop 1) s).me.pc = 0x2000 ∧ (aft (.sdrop 1) s).me.code = 5 ∧ (aft (.sdrop 1) s).sr 3 = 99 ∧
    SMap.getD ((aft (.sdrop 1) s).core 0).store 5 0 = 3 ∧ (aft (.runAbort 0 abortCONFLICT 0) s).me.confl = 1 := by
  unfold NoRun InTransaction SMap.Ok; decide +kernel

theorem witness_TrapInTransaction :
    InTransaction (inTx st) ∧ (inTx st).me.wait ≠ .trapped ∧ ((inTx st).trap causeDATA 5).me.pc = 0x2000 ∧
    ((inTx st).trap causeASSIST 5).me.run.active = true := by unfold InTransaction; decide +kernel

theorem witness_TokenAndOrderedAbort :
    let s := st.setDie 0 { tokenQueue := [3, 4] }
    let o := (withCl (fun c => { c with tasks := [(5, { desc := BitVec.ofNat 512 (descOf 0 false + up 392 1), state := .dispatched })] }) st)
    (s.die 0).token = none ∧ (s.die 0).tokenQueue = 3 :: [4] ∧ ((aft (.tokenGrant 0) s).die 0).token = some 3 ∧
    SMap.has (o.cluster 0).tasks 5 = true ∧ dOrd (o.task 0 5).desc = true ∧ (o.task 0 5).state = .dispatched ∧
    (o.thr (o.task 0 5).thread).run.children = [] ∧ (o.thr (o.task 0 5).thread).wait.inArray = false ∧
    (let m := withTh (fun t => { t with wait := .mma true 9 0 0 false 0 [] 0 }) o
     (m.thr (m.task 0 5).thread).wait.inArray = true ∧ (aft (.orderedAbort 0 5 abortCONFLICT 0) m).me.doomed = some (.abort abortCONFLICT 0)) ∧
    ((aft (.orderedAbort 0 5 abortFAULT causeDATA) o).task 0 5).heldBack = true ∧ ((aft (.orderedAbort 0 5 abortCONFLICT 0) o).task 0 5).heldBack = false := by
  decide +kernel


/-! ### Memory (chapters 08, 09) -/

/-- Memory with little-endian numbers at rising addresses: address, bytes, number. -/
def memOf (xs : List (Nat × Nat × Nat)) : Memory := xs.flatMap fun x => (cellsAt x.1 (leBytes x.2.1 x.2.2)).filter fun c => c.2 ≠ 0

/-- A linear layout entry: space, permissions, DIRECTED, base, extent. -/
def lin (space acc dir base ext : Nat) : Nat := 1 + space * 8 + acc * 256 + dir * 2048 + up 64 base + up 128 ext

/-- A tiled entry of two dimensions, 4-byte elements, 64 by 64. -/
def tiled (acc base : Nat) : Nat := 2 + up 6 2 + acc * 256 + up 64 base + up 128 64 + up 160 64 + up 256 256

/-- An entry of four dimensions of 2 elements each. -/
def quad : Nat := 4 + up 6 2 + 7 * 256 + up 64 0x1000 + up 128 2 + up 160 2 + up 192 2 + up 224 2 + up 256 8 + up 296 16 + up 336 32

/-- Context 0 with a page table of four levels that maps the page at 2^40 to the CSM of cluster 0. -/
def tables : List (Nat × Nat × Nat) :=
  [(0x00100000, 8, 0x00200001), (0x00200010, 8, 0x00600001), (0x00600000, 8, 0x00601001), (0x00601000, 8, 0x00602001),
   (0x00602000, 8, 2 ^ 43 * 4 + 0x17)]

/-- Layout table entries 0 to 7: heap read and write; two dimensions; CSM; read only; write only; DIRECTED; Moraine; unmapped private. -/
def lays : List (Nat × Nat × Nat) :=
  [lin 0 7 0 0x10000000 0x10000, tiled 7 0x10000000, lin 1 7 0 (2 ^ 40) 0x10000, lin 0 1 0 0x10000000 0x10000, lin 0 2 0 0x10000000 0x10000,
   lin 0 7 1 0x10000000 0x10000, lin 4 7 0 (2 * 2 ^ 37 + 2 ^ 41) 0x10000, lin 0 7 0 0x30000000 0x10000].zipIdx.map fun x => (0x00400000 + 64 * x.2, 64, x.1)

/-- Entries 10 and 11: a matrix of 4 rows of 384 bytes, and a linear output; entries 12 and 13: the sides of a copy, tiles of 16 bytes. -/
def lays2 : List (Nat × Nat × Nat) :=
  [2 + 7 * 256 + up 64 0x10000000 + up 128 384 + up 160 4 + up 256 384, lin 0 7 0 0x10002000 0x1000, lin 0 7 0 0x10000000 0x1000 + up 384 15,
   lin 0 7 0 0x10003000 0x1000 + up 384 15].zipIdx.map fun x => (0x00400280 + 64 * x.2, 64, x.1)

/-- The heap window at 0x5000_0000, and CSM. -/
def mst : State :=
  let t := tables
  { st with
    modules := [(0, { ctxtab := 0x00100000, regions := [(0, reg)] })]
    mem := memOf (t.take 2 ++ lays ++ lays2 ++ t.drop 2 ++ [(0x50000000, 8, 0x8182838485868788), (2 ^ 43, 4, 0x01020304)])
    frameOwner := [(0x5000, 0)] }

/-- The coordinate in s4, data in s1 and s2. -/
def co (x : Nat) (s : State) : State := withS [(4, x)] s

theorem test_memory_is_canonical : Memory.wf mst.mem = true := by decide +kernel

theorem test_loads :
    (aft (.ld 6 0 4 3 0 0) (co 0 mst)).me.wait = .response (bankOf 0x50000000) (.scalar 6 0x8182838485868788) ∧
    (aft (.lds 6 0 4 0 0 0) (co 7 mst)).me.wait = .response (bankOf 0x50000007) (.scalar 6 0xFFFFFFFFFFFFFF81) ∧
    (aft (.ld 6 2 4 2 0 0) (co 0 mst)).me.wait = .response (bankOf (2 ^ 43)) (.scalar 6 0x01020304) := by decide +kernel

theorem test_store : leNat ((List.range 4).map fun j => Memory.get (aft (.st 3 0 4 1 0 0) (co 2 mst)).mem (0x50000001 + j)) = 0x84FFFD87 := by
  decide +kernel

theorem witness_ElementAddress :
    layKind quad = 4 ∧ (1 < layDim quad 0 ∧ 1 < layDim quad 1 ∧ 1 < layDim quad 2 ∧ 1 < layDim quad 3) ∧ ¬ (2 < layDim quad 0) ∧
    1 * layEsize quad + 4 ≤ layDim quad 0 * layEsize quad ∧ elementAddress quad 9 [1, 1, 1, 1] 4 4 = .ok 0x103C ∧
    elementAddress quad 9 [2, 0, 0, 0] 4 4 = .error (causeLAYOUT, 9) ∧ elementAddress quad 9 [1, 0, 0, 0] 4 8 = .error (causeALIGN, 0x1004) ∧
    elementAddress (quad + up 64 (2 ^ 57 - 1 - 0x1000 + 1)) 9 [0, 0, 0, 0] 4 4 = .error (causePAGE, BitVec.ofNat 64 (2 ^ 57)) := by decide +kernel

theorem witness_AccessChecksTrap :
    NoRun mst ∧ layValid (mst.layoutEntry 0 9) = false ∧ 64 ≤ 63 + layKind (mst.layoutEntry 0 1) - 1 ∧ layValid (mst.layoutEntry 0 4) = true ∧
    layAccess (mst.layoutEntry 0 4) % 2 = 0 ∧ layValid (mst.layoutEntry 0 3) = true ∧ layAccess (mst.layoutEntry 0 3) / 2 % 2 = 0 ∧
    (co 1 mst).elementAccess 0 0 4 1 4 4 = .error (causeALIGN, 0x10000001) ∧ (co 0xFFFD mst).elementAccess 0 0 4 1 4 4 = .error (causeLAYOUT, 0) ∧
    (co 2 mst).elementAccess 0 0 4 2 8 8 = .error (causeALIGN, 0x10000002) ∧
    (aft (.ld 6 0 4 2 0 0) (co 1 mst)).me.wait = .trapped := by unfold NoRun; decide +kernel

/-- A state of one thread that is in no run, and of no cluster, has no holders. -/
theorem no_holders {s : State} (h1 : s.threads = [(0, s.me)]) (h2 : s.clusters = []) (h3 : s.me.run.active = false) (m : Nat) :
    s.holders m = [] := by
  unfold State.holders
  rw [h1, h2]
  simp [h3]

theorem mst_clear : Clear mst 0x50000000 where
  runs := no_holders (by decide +kernel) (by decide +kernel) (by decide +kernel)
  queue := rfl
  noRun := ⟨rfl, rfl⟩
  log _ pages := by
    show pages.filter _ = []
    simp only [List.filter_eq_nil_iff]
    intro p _
    show ¬ (([] : List LogEntry).any _ = true)
    simp
  lines := rfl
  watches e h := by cases h
  bad := rfl
  frame _ := by decide +kernel

/-- Nothing holds a layout entry back where no run is open, nothing waits and no line is held. -/
theorem witness_StepRunsDecoded_entries : mst.xlines = [] ∧ (∀ m, mst.holders m = []) ∧ mst.dirQueue = [] ∧ (mst.meetEntries (mst.agent 0) [0]).2 = .ok :=
  ⟨rfl, mst_clear.runs, rfl, by decide +kernel⟩

/-- A state whose threads are in no run, and whose clusters hold no task, has no holders. -/
theorem no_holders_of {s : State} (h1 : ∀ e ∈ s.threads, e.2.run.active = false) (h2 : ∀ e ∈ s.clusters, e.2.tasks = []) (m : Nat) :
    s.holders m = [] := by
  unfold State.holders
  have h3 : ∀ e ∈ s.clusters.filter fun e => decide (clusterModule e.1 = m), e.2.tasks = [] := fun e he => h2 e (List.mem_of_mem_filter he)
  simp only [List.flatMap_eq_nil_iff, List.append_eq_nil_iff]
  refine ⟨?_, fun e he => by simp [h3 e he]⟩
  simp only [List.filterMap_eq_nil_iff]
  intro e he
  simp [h1 e he]

/-- A table whose bytes are good, and a run that is over: a fetch meets nothing but its own side log, and the table's bytes are captured. -/
theorem witness_StepRunsDecoded_captures :
    mst.badMem = [] ∧ (mst.core (threadCore 0)).sideLog = [] ∧ (mst.entriesOf (.ld 6 0 4 3 0 0)) ≠ [] ∧ mst.me.entries = none ∧
    (mst.meetEntries (mst.agent mst.cur) (mst.entriesOf (.ld 6 0 4 3 0 0))).2 = .ok ∧ 0 ∈ mst.entriesOf (.ld 6 0 4 3 0 0) ∧
    (mst.capture [0]).layoutEntry 0 0 = mst.layoutEntry 0 0 := by decide +kernel

theorem witness_HeapWindowAccess :
    let e := lin 0 7 0 0x10000000 0x10000
    laySpace e = 0 ∧ layDirected e = false ∧ (∀ v ∈ [0x10000000, 0x1000FFFF], v / 65536 = 0x1000FFFF / 65536) ∧
    0x1000FFFF ∈ [0x10000000, 0x1000FFFF] ∧ (mst.agent 0).heap = (0x10000000, 0x20000000, 0x40000000) ∧ inHbm 0x50000000 = true ∧
    locOf 0 0x50000000 = 0x50000000 := by decide +kernel

/-- The requests of a load and a store of eight bytes through entry 0. -/
def ldReq : Req := { entry := lin 0 7 0 0x10000000 0x10000, need := permR, vas := [0x10000000], bytes := (List.range 8).map (0x10000000 + ·) }
def stReq (e : Nat) : Req :=
  let vas := (List.range 8).map (0x10000000 + ·)
  { entry := e, kind := reqWrite, hit := kindWrite, need := permW, logs := true, vas := 0x10000000 :: vas, bytes := vas }

theorem witness_Loads :
    (co 0 mst).elementAccess 0 0 4 1 8 8 = .ok (lin 0 7 0 0x10000000 0x10000, 0x10000000) ∧
    ((co 0 mst).meet 0 ldReq).2 = .here [(0x1000, { loc := 0x50000000 })] ∧ ((co 0 mst).meet 0 ldReq).1.cur = 0 ∧
    inCtl (locPa (xlatLoc [(0x1000, { loc := 0x50000000 })] 0x10000000)) = false := by decide +kernel

theorem witness_Stores :
    let r := (co 0 mst).meet 0 (stReq (lin 0 7 0 0x10000000 0x10000))
    let xs : SMap Xlat := [(0x1000, { loc := 0x50000000 })]
    NoRun (co 0 mst) ∧ Settled (co 0 mst) ∧ (co 0 mst).elementAccess 0 0 4 2 8 8 = .ok (lin 0 7 0 0x10000000 0x10000, 0x10000000) ∧
    r.2 = .here xs ∧ r.1.MemoryOk ∧ r.1.cur = 0 ∧ r.1.me.run.active = false ∧ inCtl (locPa (xlatLoc xs 0x10000000)) = false ∧
    isDirected (lin 0 7 0 0x10000000 0x10000) xs = false ∧
    (∀ j, j < 8 → SameKey r.1 (xlatKey xs (0x10000000 + j)) (xlatLoc xs (0x10000000 + j)) ∧
      inCtl (locPa (xlatLoc xs (0x10000000 + j))) = false) := by unfold NoRun Settled State.MemoryOk SameKey; decide +kernel

theorem witness_StoresInARun :
    let s := inTx (co 0 mst)
    let r := s.meet 0 (stReq (lin 0 7 0 0x10000000 0x10000))
    let xs : SMap Xlat := [(0x1000, { loc := 0x50000000 })]
    s.elementAccess 0 0 4 2 8 8 = .ok (lin 0 7 0 0x10000000 0x10000, 0x10000000) ∧ r.2 = .here xs ∧ r.1.cur = 0 ∧ r.1.me.run.active = true ∧
    inCtl (locPa (xlatLoc xs 0x10000000)) = false ∧ isDirected (lin 0 7 0 0x10000000 0x10000) xs = false ∧
    Memory.get (aft (.st 1 0 4 3 0 0) s).mem 0x50000000 = 0x88 ∧ SMap.get? (aft (.st 1 0 4 3 0 0) s).me.run.buf 0x50000000 = some 5 := by
  decide +kernel

/-- Four lanes of the two-dimensional entry from (0, 0), under p1 = 0xF. -/
def vco (s : State) : State := withTh (fun t => { t with preg := [(1, 0xF)] }) (withS [(4, 0), (5, 0)] (withV 3 [0x11223344, 0, 0, 0x55667788] s))

theorem witness_VectorLoadsAndStores :
    let s := vco mst
    let e := tiled 7 0x10000000
    let vas := (activeLanes 0xF).flatMap fun i => (List.range 4).map fun j => elementByte e [0, 0] (4 * i + j)
    let xs : SMap Xlat := [(0x1000, { loc := 0x50000000 })]
    let l := s.meet 0 { entry := e, need := permR, vas := 0x10000000 :: vas, bytes := vas }
    let w := s.meet 0 { entry := e, kind := reqWrite, hit := kindWrite, need := permW, logs := true, vas := vas, bytes := vas }
    s.pr 1 = 0xF ∧ s.vectorAccess 0 1 4 1 0xF = .ok (e, 0x10000000, [0, 0]) ∧ s.vectorAccess 0 1 4 2 0xF = .ok (e, 0x10000000, [0, 0]) ∧
    l.2 = .here xs ∧ l.1.cur = 0 ∧ w.2 = .here xs ∧ w.1.cur = 0 ∧ w.1.me.run.active = false ∧ Clean s [(3, 0xF)] ∧ w.1.MemoryOk ∧
    isDirected e xs = false ∧ (vas.map (xlatLoc xs)).Nodup ∧
    (∀ v ∈ vas, SameKey w.1 (xlatKey xs v) (xlatLoc xs v) ∧ inCtl (locPa (xlatLoc xs v)) = false) ∧
    Memory.get (aft (.vst 3 1 4 1) s).mem 0x5000000F = 0x55 := by
  unfold Clean State.MemoryOk SameKey; decide +kernel

theorem witness_Atomics :
    let s := co 0 mst
    let e := tiled 7 0x10000000
    let xs : SMap Xlat := [(0x1000, { loc := 0x50000000 })]
    let r := s.meet 0 { amoReq e 0x10000000 4 with stores := s.amoStores e 0x10000000 4 7 5 }
    NoRun s ∧ Settled s ∧ s.atomicAccess 0 1 4 7 (fun w => decide (w = 4 ∨ w = 8)) = .ok (e, 0x10000000, 4) ∧ r.2 = .here xs ∧ r.1.MemoryOk ∧
    r.1.cur = 0 ∧ r.1.me.run.active = false ∧ isDirected e xs = false ∧
    (∀ j, j < 4 → SameKey r.1 (xlatKey xs (0x10000000 + j)) (xlatLoc xs (0x10000000 + j)) ∧ inCtl (locPa (xlatLoc xs (0x10000000 + j))) = false) ∧
    amoWrites 7 32 3 3 4 = some 4 ∧ amoWrites 7 32 3 2 4 = none ∧
    (aft (.amo 1 1 4 0 0) s).me.wait = .response (bankOf 0x50000000) (.scalar 1 0x85868788) ∧
    leNat ((List.range 4).map fun j => Memory.get (aft (.amo 1 1 4 4 0) s).mem (0x50000000 + j)) = 0x85868788 ∧
    leNat ((List.range 4).map fun j => Memory.get (aft (.amo 1 1 4 5 0) s).mem (0x50000000 + j)) = 5 := by
  unfold NoRun Settled State.MemoryOk SameKey; decide +kernel

theorem witness_Reductions :
    let s := co 0 mst
    let e := tiled 7 0x10000000
    let xs : SMap Xlat := [(0x1000, { loc := 0x50000000 })]
    let r := s.meet 0 { entry := e, kind := reqWrite, hit := kindWrite, need := permW, logs := true, vas := [0x10000000]
                        bytes := (List.range 4).map (0x10000000 + ·) }
    s.atomicAccess 0 1 4 2 (redWidthOk 3 false) = .ok (e, 0x10000000, 4) ∧ r.2 = .here xs ∧ r.1.MemoryOk ∧ r.1.cur = 0 ∧
    r.1.me.run.active = false ∧ isDirected e xs = false ∧ redWidthOk 4 true 4 = true ∧ redWidthOk 6 true 2 = true ∧
    leNat ((List.range 4).map fun j => Memory.get (aft (.red 1 1 4 0 0 0) s).mem (0x50000000 + j)) = 0x8586878D := by
  unfold State.MemoryOk; decide +kernel

theorem witness_HeapWindowAtomics :
    let s := co 0 mst
    let e := tiled 7 0x10000000
    NoRun s ∧ Settled s ∧ s.MemoryOk ∧ s.lineKey = [] ∧ laySpace (s.layoutEntry 0 1) = 0 ∧
    s.atomicAccess 0 1 4 7 (fun w => decide (w = 4 ∨ w = 8)) = .ok (e, 0x10000000, 4) ∧ s.atomicAccess 0 1 4 2 (redWidthOk 7 false) = .ok (e, 0x10000000, 4) ∧
    (s.agent 0).heap = (0x10000000, 0x20000000, 0x40000000) ∧ (0x10000000 + 0x40000000) % 2 ^ 64 = 0x50000000 ∧ inHbm 0x50000000 = true ∧
    locOf 0 0x50000000 = 0x50000000 ∧ (aft (.amo 1 1 4 0 0) s).num 0x50000000 4 = 0x8586878D ∧ (aft (.red 1 1 4 7 0 0) s).num 0x50000000 4 = 0x8586878D := by
  unfold NoRun Settled State.MemoryOk; decide +kernel

theorem witness_PageWalk :
    let ok (t i : Nat) : Prop := inHbm (t + 8 * i) = true
    let w (t i : Nat) : Nat := mst.num (locOf 0 (t + 8 * i)) 8
    let va := 2 ^ 40
    0x200000 % 2 ^ 21 = 0 ∧ 0x600000 % 4096 = 0 ∧ 0x601000 % 4096 = 0 ∧ 0x602000 % 256 = 0 ∧ ok 0x200000 (bits va 56 39) ∧ ok 0x600000 (bits va 38 30) ∧
    ok 0x601000 (bits va 29 21) ∧ ok 0x602000 (bits va 20 16) ∧ w 0x200000 (bits va 56 39) = 0x600000 + 1 ∧ w 0x600000 (bits va 38 30) = 0x601000 + 1 ∧
    w 0x601000 (bits va 29 21) = 0x602000 + 1 ∧ leafOk 0 (w 0x602000 (bits va 20 16)) = true ∧ w 0x602000 (bits (va + 65536) 20 16) % 2 = 0 := by
  decide +kernel

theorem witness_TranslationFrame :
    mst.MemoryOk ∧ mst.lineKey = [] ∧ (mst.translate (mst.agent 0) 1 0 permW true (2 ^ 40 + 65536)).2 = none ∧
    mst.walkContext 0 0 (2 ^ 40 + 65536) = none ∧ mst.walkContext 0 0 (2 ^ 40) = some (0, 2 ^ 43 * 4 + 0x17, 0x602000) ∧
    (mst.translate (mst.agent 0) 1 0 permW true (2 ^ 40)).1.num 0x602000 8 = 2 ^ 43 * 4 + 0x77 := by unfold State.MemoryOk; decide +kernel

/-- A leaf that permits, one that does not, and the translation that is then cached. -/
theorem witness_TranslationSetsBits :
    let a := mst.agent 0
    let u := (mst.translate a 1 0 permW true (2 ^ 40)).1
    let leaf := 2 ^ 43 * 4 + 0x17
    mst.MemoryOk ∧ mst.lineKey = [] ∧ a.inWindow 1 (2 ^ 40) = false ∧ mst.tlbServes a 1 0 permW true (2 ^ 40) = none ∧
    mst.walkContext a.module a.ctx (2 ^ 40) = some (0, leaf, 0x602000) ∧ mst.leafServes a 1 0 permW (2 ^ 40) leaf (pageSize 0) = true ∧
    mst.leafServes a 1 0 8 (2 ^ 40) leaf (pageSize 0) = false ∧ (u.tlbServes a 1 0 permW true (2 ^ 40)).isSome = true ∧
    u.num 0x602000 8 = leaf ||| 96 ∧ ((mst.translate a 1 0 permR false (2 ^ 40)).1).num 0x602000 8 = leaf ||| 32 := by
  unfold State.MemoryOk; decide +kernel

theorem witness_SideLogTakesStores :
    let s := co 0 mst
    let e := lin 0 7 0 0x30000000 0x10000
    let vas := (List.range 8).map (0x30000000 + ·)
    let r := s.meet 0 { entry := e, kind := reqWrite, hit := kindWrite, need := permW, logs := true, vas := 0x30000000 :: vas, bytes := vas }
    NoRun s ∧ Settled s ∧ s.elementAccess 0 7 4 2 8 8 = .ok (e, 0x30000000) ∧ r.2 = .log (some 0x30000000) ∧ r.1.cur = 0 ∧
    (r.1.core 0).sideLog.length < 64 ∧ (aft (.st 1 7 4 3 0 0) s).me.pc = 0x1004 ∧ (aft (.st 1 7 4 3 1 0) s).me.wait = .logged := by
  unfold NoRun Settled; decide +kernel

/-- A vector store and a reduction that meet PAGE, and a log that takes no entry: full, or with its record in the way of a full trap queue. -/
theorem witness_SideLogTakesStores_kinds :
    let s : State := { vco mst with mem := Memory.setAll mst.mem (cellsAt 0x00400040 (leBytes 64 (tiled 7 0x30000000))) }
    let e := tiled 7 0x30000000
    let cells := (activeLanes 0xF).flatMap fun i => (List.range 4).map fun j => (elementByte e [0, 0] (4 * i + j), byteOf (lane (s.v 3) i).toNat j)
    let r := s.meet 0 { entry := e, kind := reqWrite, hit := kindWrite, need := permW, logs := true, vas := 0x30000000 :: cells.map (·.1), bytes := cells.map (·.1) }
    let q := s.meet 0 { entry := e, kind := reqWrite, hit := kindWrite, need := permW, logs := true, vas := [0x30000000], bytes := (List.range 4).map (0x30000000 + ·) }
    let f := withCore (fun c => { c with sideLog := List.replicate 64 {} }) s
    let g : State := { s with records := [{ handle := mkHandle 2 0 0 0 0 0, cause := causePAGE }] }
    NoRun s ∧ Settled s ∧ s.pr 1 = 0xF ∧ s.vectorAccess 0 1 4 2 0xF = .ok (e, 0x30000000, [0, 0]) ∧ Clean s [(3, 0xF)] ∧ r.2 = .log (some 0x30000000) ∧
    s.atomicAccess 0 1 4 2 (redWidthOk 0 false) = .ok (e, 0x30000000, 4) ∧ q.2 = .log (some 0x30000000) ∧ q.1.cur = 0 ∧
    64 ≤ (f.core 0).sideLog.length ∧ (∃ x ∈ g.records, x.place = .fresh ∧ x.handle = mkHandle 2 0 0 0 0 0 ∧ toKerlis x.cause = true) ∧
    (q.1.core 0).sideLog = [] ∧ (∀ x ∈ q.1.records, x.place ≠ .fresh) ∧
    ((aft (.vst 3 1 4 1) s).core 0).sideLog.map (·.cells) = [cells] ∧ ((aft (.red 1 1 4 0 0 0) s).core 0).sideLog.map (·.red) = [some (0, 4)] ∧
    (aft (.red 1 1 4 0 1 0) s).me.wait = .logged ∧ (aft (.red 1 1 4 0 0 0) f).me.wait = .retry .sideLogFull ∧
    (aft (.vst 3 1 4 1) g).me.wait = .retry .sideLogFull := by
  unfold NoRun Settled Clean; decide +kernel

/-- An entry of the side log that stores one byte at 0x1000_0000. -/
def logEntry : LogEntry := { entry := BitVec.ofNat 512 (lin 0 7 0 0x10000000 0x10000), cells := [(0x10000000, 9)], vas := [0x10000000] }

theorem witness_SideLogReplays :
    let s := withCore (fun c => { c with sideLog := [logEntry] }) mst
    let r := s.translateAll (s.logAgent logEntry) (laySpace logEntry.entry.toNat) (layModule logEntry.entry.toNat) permW true (pagesOf logEntry.vas)
    let xs : SMap Xlat := [(0x1000, { loc := 0x50000000 })]
    (s.core 0).sideLog = logEntry :: [] ∧ r.2 = .ok xs ∧ logEntry.recorded = false ∧ logEntry.red = none ∧ logEntry.stream = none ∧
    logEntry.rel = false ∧ laySpace logEntry.entry.toNat < 3 ∧ (r.1.core 0).sideLog = logEntry :: [] ∧ isDirected logEntry.entry.toNat xs = false ∧
    r.1.xlines = [] ∧ s.xlines = [] ∧ r.1.dirQueue = [] ∧ r.1.badMem = [] ∧ (∀ e ∈ r.1.dies, e.2.dwc = []) ∧ r.1.MemoryOk ∧
    (logEntry.cells.map fun c => xlatLoc xs c.1).Nodup ∧
    (∀ c ∈ logEntry.cells, SameKey r.1 (xlatKey xs c.1) (xlatLoc xs c.1) ∧
      (inHbm (locPa (xlatLoc xs c.1)) = true → SMap.get? r.1.frameOwner (xlatLoc xs c.1 / 65536) = some (s.logAgent logEntry).ctx)) ∧
    Memory.get (aft (.sideLogReplay 0) s).mem 0x50000000 = 9 ∧ ((aft (.sideLogReplay 0) s).core 0).sideLog = [] ∧
    (({ logEntry with recorded := true } : LogEntry).recorded = true) := by
  unfold State.MemoryOk SameKey; decide +kernel

/-- A reduction, a vector store of no byte, a release and an element of a stream replay; an entry of an unmapped page stays with a new record. -/
theorem witness_SideLogReplays_kinds :
    let at_ (x : LogEntry) (s : State) : State := withCore (fun c => { c with sideLog := [x] }) s
    let red : LogEntry := { logEntry with cells := cellsAt 0x10000000 (leBytes 4 3), red := some (0, 4) }
    let rel : LogEntry := { logEntry with rel := true }
    let elm : LogEntry := { logEntry with stream := some (0, 2), elem := 6 }
    let bad : LogEntry := { logEntry with entry := BitVec.ofNat 512 (lin 0 7 0 0x30000000 0x10000), cells := [(0x30000000, 9)], vas := [0x30000000] }
    let w := withTh (fun t => { t with wait := .logged }) mst
    let q := withCl (fun c => { c with streams := [(2, { kind := .scatter, logged := 1 })] }) mst
    red.cells.length = 4 ∧ (redWidthOk 0 false 4 || redWidthOk 0 true 4) = true ∧ (aft (.sideLogReplay 0) (at_ red mst)).num 0x50000000 4 = 0x8586878B ∧
    ({ logEntry with cells := [] } : LogEntry).cells = [] ∧ (aft (.sideLogReplay 0) (at_ { logEntry with cells := [] } mst)).mem = mst.mem ∧
    ((at_ rel w).thr 0).wait = .logged ∧ (aft (.sideLogReplay 0) (at_ rel w)).me.wait = .ready ∧
    SMap.get? ((at_ elm q).cluster 0).streams 2 = some { kind := .scatter, logged := 1 } ∧ elm.elem ∉ ({ kind := .scatter, logged := 1 } : Stream).skipped ∧
    (SMap.getD ((aft (.sideLogReplay 0) (at_ elm q)).cluster 0).streams 2 {}).done = 1 ∧
    (match ((at_ bad mst).translateAll ((at_ bad mst).logAgent bad) 0 0 permW true [0x3000]).2 with | .error p => decide (p = 0x3000) | .ok _ => false) = true ∧
    ((aft (.sideLogReplay 0) (at_ bad mst)).core 0).sideLog = [{ bad with recorded := true }] ∧
    (aft (.sideLogReplay 0) (at_ bad mst)).records.map (·.tval) = [0x30000000] := by decide +kernel

theorem witness_SideLogReplays_runs (m : Nat) :
    let s := withCore (fun c => { c with sideLog := [logEntry] }) mst
    (s.translateAll (s.logAgent logEntry) 0 0 permW true [0x1000]).1.holders m = [] :=
  no_holders (by decide +kernel) (by decide +kernel) (by decide +kernel) m

theorem witness_MoraineAccesses :
    let s := co 0 mst
    NoRun s ∧ s.net = [] ∧ s.elementAccess 0 6 4 1 8 8 = .ok (lin 4 7 0 (2 * 2 ^ 37 + 2 ^ 41) 0x10000, 2 * 2 ^ 37 + 2 ^ 41) ∧
    s.elementAccess 0 6 4 2 8 8 = .ok (lin 4 7 0 (2 * 2 ^ 37 + 2 ^ 41) 0x10000, 2 * 2 ^ 37 + 2 ^ 41) ∧
    laySpace (lin 4 7 0 (2 * 2 ^ 37 + 2 ^ 41) 0x10000) = 4 ∧ (aft (.ld 6 6 4 3 0 0) s).net.map (·.dest) = [1024 + 16 + 2] ∧
    (aft (.st 1 6 4 3 0 0) s).me.posted = 1 := by unfold NoRun; decide +kernel

theorem witness_FencesAndPrefetch :
    let p := withTh (fun t => { t with posted := 3 }) st
    let e := withTh (fun t => { t with postedErr := some (5, 77) }) st
    let l := lin 0 7 0 0x10000000 0x10000
    NoRun st ∧ Settled st ∧ p.me.postedErr = none ∧ p.me.posted ≠ 0 ∧ e.me.postedErr = some (5, 77) ∧ (1 : BitVec 2) ≠ 0 ∧
    (aft (.fence 1 0) p).me.wait = .retry (.release false) ∧ (aft (.fence 1 0) e).me.wait = .trapped ∧
    (co 0x10000 mst).elementAccess 0 0 4 1 1 1 = .error (causeLAYOUT, 0) ∧ (co 0xFFFF mst).elementAccess 0 0 4 1 1 1 = .ok (l, 0x1000FFFF) ∧
    (co 0 mst).elementAccess 0 6 4 1 1 1 = .ok (lin 4 7 0 (2 * 2 ^ 37 + 2 ^ 41) 0x10000, 2 * 2 ^ 37 + 2 ^ 41) ∧
    3 ≤ laySpace (lin 4 7 0 (2 * 2 ^ 37 + 2 ^ 41) 0x10000) ∧ laySpace l < 3 ∧ layDirected l = false ∧
    layDirected (lin 0 7 1 0x10000000 0x10000) = true ∧
    (mst.translate (mst.agent 0) 0 0 permR false 0x10000000).2 = some { loc := 0x50000000 } ∧ mst.xlines = [] ∧
    (mst.prefUncached (mst.agent 0) l 0x10000000 = false ∧ mst.tableWaits (mst.agent 0) 0 0 permR false [0x1000] = []) ∧
    (mst.prefUncached (mst.agent 0) (lin 1 7 0 (2 ^ 40) 0x10000) (2 ^ 40) = false ∧
      (let u : State := { mst with mem := Memory.setAll mst.mem (cellsAt 0x602000 (leBytes 8 (2 ^ 43 * 4 + 0x117))) }
       u.prefUncached (u.agent 0) (lin 1 7 0 (2 ^ 40) 0x10000) (2 ^ 40) = true ∧ Memory.get (aft (.pref 2 4 0) (co 0 u)).mem 0x602000 = 0x17)) ∧
    SMap.has ((aft (.pref 5 4 0) (co 0 mst)).die 0).directed (0x50000000 / 128) = true := by unfold NoRun Settled; decide +kernel

/-- A PREF whose byte is uncorrectable, or whose walk an engine holds, has no effect. -/
theorem witness_FencesAndPrefetch_held :
    let l := lin 0 7 1 0x10000000 0x10000
    let bad : State := { co 0 mst with badMem := [0x50000000] }
    let held : State := { co 0 mst with xlines := [lineOf 0x602000] }
    (co 0 mst).badMem = [] ∧ bad.prefHeld (bad.agent 0) l 0x10000000 = true ∧
    held.prefHeld (held.agent 0) (lin 1 7 0 (2 ^ 40) 0x10000) (2 ^ 40) = true ∧ (co 0 mst).prefHeld ((co 0 mst).agent 0) l 0x10000000 = false ∧
    (aft (.pref 5 4 0) bad).dies = bad.dies ∧ (aft (.pref 2 4 0) held).mem = held.mem ∧ (aft (.pref 2 4 0) held).me.pc = 0x1004 := by decide +kernel

/-- Thread 0 has a watch on the CSM word at 2^43, fired or not. -/
def withWatch (fired : Bool) (s : State) : State := withCl (fun c => { c with watches := [{ word := 2 ^ 43 / 4, thread := 0, va := 2 ^ 40, fired := fired }] }) s

theorem witness_Watches :
    let s := co 0 mst
    let e := lin 1 7 0 (2 ^ 40) 0x10000
    let r := s.meet 0 { entry := e, need := permR, vas := [2 ^ 40], bytes := (List.range 4).map (2 ^ 40 + ·) }
    let w := withWatch false s
    s.elementAccess 0 2 4 1 4 4 = .ok (e, 2 ^ 40) ∧ laySpace e = 1 ∧ r.2 = .here [(2 ^ 24, { loc := 2 ^ 43 })] ∧ r.1.cur = 0 ∧ NoRun s ∧
    s.elementAccess 0 0 4 1 4 4 = .ok (lin 0 7 0 0x10000000 0x10000, 0x10000000) ∧ laySpace (lin 0 7 0 0x10000000 0x10000) ≠ 1 ∧
    (r.1.cluster (csmCluster 0 (2 ^ 43))).watches.length < 256 ∧ (r.1.watchesOf 0).length < 8 ∧
    (aft (.watch 6 2 4) s).me.wait = .response (bankOf (2 ^ 43)) (.scalar 6 0x01020304) ∧ (aft (.watch 6 0 4) s).me.wait = .trapped ∧
    ((aft (.unwatch 2 4) w).cluster 0).watches = [] ∧ s.watchesOf 0 = [] ∧ (∃ x ∈ (withWatch true s).watchesOf 0, x.fired = true) ∧
    w.watchesOf 0 ≠ [] ∧ (∀ x ∈ w.watchesOf 0, x.fired = false) ∧ w.sr 0 = 0 ∧ w.sr 1 ≠ 0 ∧ w.sr 1 ≠ BitVec.allOnes 64 ∧
    (withS [(1, 2 ^ 64 - 1)] w).sr 1 = BitVec.allOnes 64 ∧ (aft (.waitw 6 1) w).me.wait = .waitw 6 (some 5) ∧ (aft (.waitw 6 1) s).sr 6 = 2 ∧
    (aft (.waitw 6 1) (withWatch true s)).sr 6 = 1 ∧
    (let v := withTh (fun t => { t with wait := .waitw 6 (some 0) }) w
     (v.thr 0).live = true ∧ v.watchesOf 0 ≠ [] ∧ (v.thr 0).wait = .waitw 6 (some 0) ∧ 0 ≤ v.ticks ∧ v.ticks < 1 ∧
     (aft (.waitwTimeout 0) v).me.wait = .ready) ∧ (aft (.waitw 6 0) w).me.wait = .waitw 6 (some 0) := by unfold NoRun; decide +kernel

/-- A thread that has eight words armed, a table that is full, and a word that is armed again. -/
theorem witness_Watches_full :
    let s := co 0 mst
    let w (n t : Nat) : State := withCl (fun c => { c with watches := (List.range n).map fun i => { word := i, thread := t, va := 4 * i } }) s
    (∀ x ∈ ((w 8 0).cluster 0).watches, ¬ (x.thread = 0 ∧ x.word = 2 ^ 43 / 4)) ∧ 8 ≤ ((w 8 0).watchesOf 0).length ∧
    256 ≤ ((w 256 9).cluster 0).watches.length ∧ ((w 7 0).watchesOf 0).length < 8 ∧
    (aft (.watch 6 2 4) (w 8 0)).me.wait = .response (bankOf (2 ^ 43)) (.scalar 6 (BitVec.ofNat 64 (2 ^ 63 + 0x01020304))) ∧
    ((aft (.watch 6 2 4) (w 8 0)).cluster 0).watches.length = 8 ∧ ((aft (.watch 6 2 4) (w 256 9)).cluster 0).watches.length = 256 ∧
    ((aft (.watch 6 2 4) (w 7 0)).cluster 0).watches.length = 8 ∧
    (∃ x ∈ ((withWatch true s).cluster 0).watches, x.thread = 0 ∧ x.word = 2 ^ 43 / 4) ∧
    ((aft (.watch 6 2 4) (withWatch true s)).cluster 0).watches.map (·.fired) = [false] := by decide +kernel

theorem witness_AccessResponds :
    let s := withTh (fun t => { t with wait := .response 5 (.scalar 6 77) }) st
    (s.thr 0).live = true ∧ (s.thr 0).wait = .response 5 (.scalar 6 77) ∧ 5 < noBank ∧ isCcc 0 = false ∧
    (aft (.accessResponse 0 3) s).sr 6 = 77 ∧ SMap.getD ((aft (.accessResponse 0 3) s).core 0).dbg.dsum 5 0 = 3 := by decide +kernel

/-- Die 0 holds a directed copy of the line at 0x5000_0000 with two dirty bytes. -/
def withLine (s : State) : State := s.setDie 0 { directed := [(0x50000000 / 128, { data := 0xABCDEF, dirty := 5 })] }

theorem witness_DirectedLines :
    let s := withS [(1, 128)] (co 0 mst)
    let e := lin 0 7 1 0x10000000 0x10000
    NoRun s ∧ s.directedRange 0 5 4 128 = .ok (e, 0x10000000) ∧ laySpace e < 3 ∧ 0x10000000 % 65536 + 128 ≤ 65536 ∧
    (s.core 0).livePages 0 [0x1000] = [] ∧ (s.translate (s.agent 0) 0 0 permW false 0x10000000).2 = some { loc := 0x50000000 } ∧
    ((s.translate (s.agent 0) 0 0 permW false 0x10000000).1.die 0).directed = [] ∧ layDirected (lin 0 7 0 0x10000000 0x10000) = false ∧ st.sr 0 = 0 ∧
    (s.translate (s.agent 0) 0 0 permW false 0x30000000).2 = none ∧ s.directedRange 0 9 4 128 = .error (causeLAYOUT, 9) ∧
    InTransaction (inTx s) ∧ SMap.get? ((withLine s).die 0).directed (0x50000000 / 128) = some { data := 0xABCDEF, dirty := 5 } ∧
    (withLine s).MemoryOk ∧ SameKey (withLine s) 0 (0x50000000 / 128 * 128) ∧ s.xlines = [] ∧ (withLine s).xlines = [] ∧ (withLine s).dirQueue = [] ∧
    ((withLine s).threads.all fun e => !e.2.run.active) = true ∧
    Memory.get (aft (.eviction 0 (0x50000000 / 128)) (withLine s)).mem 0x50000000 = 0xEF ∧
    Memory.get (aft (.eviction 0 (0x50000000 / 128)) (withLine s)).mem 0x50000001 = 0x87 ∧
    Memory.get (aft (.eviction 0 (0x50000000 / 128)) (withLine s)).mem 0x50000002 = 0xAB ∧ (aft (.wbr 1 5 4) (inTx s)).me.wait = .trapped := by
  unfold NoRun InTransaction State.MemoryOk SameKey; decide +kernel

theorem witness_DirectedLines_runs : ∀ m, (withLine (withS [(1, 128)] (co 0 mst))).holders m = [] :=
  no_holders (by decide +kernel) (by decide +kernel) (by decide +kernel)

/-- WBR and INVR of the second and third bytes of a line of which the first and the third are dirty. -/
theorem witness_DirectedRanges :
    let s := withLine (withS [(1, 2)] (co 1 mst))
    let e := lin 0 7 1 0x10000000 0x10000
    let r := s.translate (s.agent 0) 0 0 permW false 0x10000001
    NoRun s ∧ s.xlines = [] ∧ s.dirQueue = [] ∧ s.directedRange 0 5 4 2 = .ok (e, 0x10000001) ∧ laySpace e < 3 ∧ layDirected e = true ∧ s.sr 1 ≠ 0 ∧
    0x10000001 % 65536 + 2 ≤ 65536 ∧ (s.core 0).livePages 0 [0x1000] = [] ∧ r.2 = some { loc := 0x50000000 } ∧ r.1.MemoryOk ∧
    SMap.get? (r.1.die 0).directed (0x50000000 / 128) = some { data := 0xABCDEF, dirty := 5 } ∧ SameKey r.1 0 (0x50000000 / 128 * 128) ∧
    (0x50000000 / 128) * 128 < 0x50000003 ∧ 0x50000001 < (0x50000000 / 128) * 128 + 128 ∧
    (let t := aft (.wbr 1 5 4) s
     Memory.get t.mem 0x50000000 = 0x88 ∧ Memory.get t.mem 0x50000002 = 0xAB ∧ ((t.die 0).directed.map fun y => y.2.dirty) = [1]) ∧
    (let t := aft (.invr 1 5 4) s
     Memory.get t.mem 0x50000000 = 0xEF ∧ Memory.get t.mem 0x50000002 = 0x86 ∧ (t.die 0).directed = []) := by
  unfold NoRun State.MemoryOk SameKey; decide +kernel

theorem witness_DirectedRanges_runs : ∀ m, (withLine (withS [(1, 2)] (co 1 mst))).holders m = [] :=
  no_holders (by decide +kernel) (by decide +kernel) (by decide +kernel)


/-! ### Vectors (chapter 14) -/

/-- v1 = 5, -1, 2^31 - 1, ...; v2 = 1, 33, 1, ...; v3 = 1.0, a NaN, -0, ...; v5 indexes lanes and words; p1 = the first three lanes. -/
def vst : State :=
  withTh (fun t => { t with preg := [(1, 7)] }) (withV 5 [1, 33, 63] (withV 3 [0x3F800000, 0x7FC00000, 0x80000000] (withV 2 [1, 33, 1] (withV 1 [5, 0xFFFFFFFF, 0x7FFFFFFF] st))))

/-- Lanes 0, 1, 2 and 3 of a window register. -/
def four (s : State) (r : Nat) : List Nat := (List.range 4).map fun i => (lane (s.vecAt s.cur r) i).toNat

theorem test_vector_integers :
    four (aft (.vadd 1 1 2 1) vst) 1 = [6, 32, 0x80000000, 0] ∧ four (aft (.vadds 6 1 2 1) vst) 6 = [6, 32, 0x7FFFFFFF, 0] ∧
    four (aft (.vsll 6 1 2 1) vst) 6 = [10, 0xFFFFFFFE, 0xFFFFFFFE, 0] ∧ four (aft (.vsra 6 1 2 0) vst) 6 = [2, 0xFFFFFFFF, 0x3FFFFFFF, 0] := by
  decide +kernel

theorem test_vector_moves :
    four (aft (.vperm 6 1 2) vst) 6 = [0xFFFFFFFF, 0xFFFFFFFF, 0xFFFFFFFF, 5] ∧ four (aft (.vrot 6 1 1) (withS [(1, 2)] vst)) 6 = [0x7FFFFFFF, 0, 0, 0] ∧
    (aft (.vextr 6 1 0) vst).sr 6 = 5 ∧ (aft (.vpopc 6 1) vst).sr 6 = 3 ∧ four (aft (.viota 6) vst) 6 = [0, 1, 2, 3] := by decide +kernel

theorem test_vector_compares :
    (aft (.vclt 2 1 2 1) vst).pr 2 = 2 ∧ (aft (.vcltu 2 1 2 1) vst).pr 2 = 0 ∧ (aft (.vfcun 2 3 3 1) vst).pr 2 = 2 ∧
    (aft (.pnot 2 1) vst).pr 2 = 0xFFFFFFF8 := by decide +kernel

theorem test_vector_reductions :
    (aft (.vredadd 6 1 1) vst).sr 6 = 0xFFFFFFFF80000003 ∧ (aft (.vredmax 6 1 1) vst).sr 6 = 0x7FFFFFFF ∧
    four (aft (.vscanadd 6 1 1) vst) 6 = [5, 4, 0x80000003, 0] ∧ (aft (.vredfmin 6 3 1) vst).sr 6 = 0x80000000 := by decide +kernel

theorem witness_Vectors :
    Clean vst [(1, vst.mask 1), (2, vst.mask 1)] ∧ Clean vst [(1, vst.mask 0), (2, vst.mask 0), (6, vst.mask 0)] ∧
    Clean vst [(1, BitVec.allOnes 32), (2, BitVec.allOnes 32)] ∧ vst.mask 1 = 7 ∧ vst.mask 0 = BitVec.allOnes 32 := by unfold Clean; decide +kernel

theorem witness_MinimumAndMaximum :
    isNan 0x7FC00000 = true ∧ isNan 0x80000000 = false ∧ rational (num32 0x80000001) = some (-(1 / 2 ^ 149)) ∧ rational (num32 1) = some (1 / 2 ^ 149) := by
  decide +kernel

theorem witness_LaneMoves :
    let s := withS [(6, 63), (7, 64)] vst
    (s.sr 6).toNat < winSize s.cur s.me ∧ Clean s [(63, BitVec.allOnes 32), (2, BitVec.allOnes 32)] ∧ winSize s.cur s.me ≤ (s.sr 7).toNat ∧ NoRun s ∧
    (aft (.vmovi 8 6) s).me.wait = .ready ∧ (aft (.vmovi 8 7) s).me.wait = .trapped ∧ ((aft (.vmovi 8 7) s).records.map (·.tval)) = [2 ^ 63 + 64] := by
  unfold Clean NoRun; decide +kernel

theorem witness_VectorWords :
    let w (x : BitVec 32) : Nat := x.toNat
    w 0b0101_000_000001_000001_000001_0110101 % 128 = 0x35 ∧ 5 ≤ w 0b0101_000_000001_000001_000001_0110101 / 2 ^ 28 ∧
    w 0b0001_001_000001_000001_000001_0110101 / 2 ^ 25 % 8 ≠ 0 ∧ w 0b0001_000_000001_000001_000000_0110101 / 2 ^ 7 % 64 = 0 ∧
    w 0b0100_000_000001_000001_000001_0110101 / 2 ^ 19 % 64 ≠ 0 ∧ w 0b0010_000_000000_000001_000001_0110110 % 128 = 0x36 ∧
    w 0b0010_000_000000_000001_000001_1000010 % 128 = 0x42 := by decide

/-- Words of the opcodes 0x3F and 0x40 that do not decode. -/
theorem witness_VectorWords_unassigned :
    let w (x : BitVec 32) : Nat := x.toNat
    w 0b0011_000_000001_000001_000001_0111111 % 128 = 0x3F ∧ 3 ≤ w 0b0011_000_000001_000001_000001_0111111 / 2 ^ 28 ∧
    w 0b0001_000_000001_000001_000001_0111111 / 2 ^ 28 % 16 = 1 ∧ w 0b0001_000_000001_000001_000001_0111111 / 2 ^ 19 % 64 ≠ 0 ∧
    w 0b0010_000_000001_000001_000001_1000000 % 128 = 0x40 ∧ 2 ≤ w 0b0010_000_000001_000001_000001_1000000 / 2 ^ 28 := by decide

theorem witness_LaneStore :
    let s := withS [(6, 1), (7, 62)] vst
    Clean s [(5, s.mask 1), (3, s.mask 1)] ∧ NoRun s ∧ s.mask 1 = 7 ∧ winSize s.cur s.me = 64 ∧
    (∀ i ∈ [0, 1, 2], 1 + (at_ s 5 i).toNat / 32 < 64 ∧ SMap.getD s.badRegs (threadCore s.cur * 4096 + s.phys s.cur (1 + (at_ s 5 i).toNat / 32)) 0 = 0) ∧
    (∀ i ∈ [0, 1, 2], 0 + (at_ s 5 i).toNat < 64) ∧
    ([0, 1, 2].find? fun i => decide (64 ≤ 62 + (at_ s 5 i).toNat)) = some 1 ∧ ([0, 1, 2].find? fun i => decide (64 ≤ 1 + (at_ s 5 i).toNat)) = some 2 ∧
    four (aft (.vgath 8 5 6 1) s) 8 = [0xFFFFFFFF, 33, 0, 0] ∧ (aft (.vldx 8 5 7 1) s).me.wait = .trapped ∧ (aft (.vstx 3 5 0 1) s).me.wait = .ready := by
  unfold Clean NoRun; decide +kernel

/-- A gather whose last active lane names a register past the window. -/
theorem witness_LaneStore_gather :
    let s := withS [(6, 62)] (withV 5 [1, 33, 64] vst)
    NoRun s ∧ ([0, 1, 2].find? fun i => decide (64 ≤ 62 + (at_ s 5 i).toNat / 32)) = some 2 ∧
    (aft (.vgath 8 5 6 1) s).me.wait = .trapped ∧ (aft (.vgath 8 5 6 1) s).records.map (·.tval) = [BitVec.ofNat 64 (2 ^ 63 + 64)] := by
  unfold NoRun; decide +kernel

theorem witness_BadRegistersTrap :
    let s : State := { vst with badRegs := [(2, 4)] }
    NoRun s ∧ decide (SMap.getD s.badRegs (threadCore s.cur * 4096 + s.phys s.cur 2) 0 &&& s.mask 1 ≠ 0) = true ∧
    decide (SMap.getD s.badRegs (threadCore s.cur * 4096 + s.phys s.cur 1) 0 &&& s.mask 1 ≠ 0) = false ∧
    (aft (.vadd 6 1 2 1) s).me.wait = .trapped := by unfold NoRun; decide +kernel

theorem witness_VectorConversions :
    Clean vst [(3, vst.mask 1)] ∧ 1 + 3 ≤ 64 ∧ 48 + 16 ≤ 64 ∧ Clean vst (wholeRegs 48 16) ∧ Clean vst (wholeRegs 61 3) ∧ 61 + 3 ≤ 64 ∧
    narrow 1 .rne 0x3F800001 = 0x3F80 ∧ narrow 2 .rtz 0x3F80FFFF = 0x3C07 ∧ narrow 2 .rne 0x3F80FFFF = 0x3C08 := by unfold Clean; decide +kernel

theorem witness_Approximations :
    isNan 0x7F800001 = true ∧ rational (num32 0xC0000000) = some (-2) ∧ rational (num32 (rcp32 0xC0000000)) = some (-1 / 2) ∧ 4095 < 4096 := by
  decide +kernel

/-- A window of 320 registers; s2 and s3 are cursors. -/
def pst (c e : Nat) : State := withS [(6, c), (7, e)] (withTh (fun t => { t with winRegs := 320, preg := [(1, 0x80000003)] }) (withV 1 [7, 8, 9] st))

theorem witness_Compaction :
    let s := pst (0x00104100 + up 57 2) 0x00104100
    let q := ((List.range 32).filter fun i => decide (2 ≤ i)).foldl
      (fun (q : Pack) i => q.lane i (if (s.mask 0).getLsbD i then at_ s 1 i else 0)) { gap := 0, nent := 0 }
    winSize s.cur s.me ≤ 4096 ∧ s.badRegs = [] ∧ (s.sr 6).toNat / 2 ^ 57 % 64 ≤ 32 ∧ (s.sr 6).toNat / 2 ^ 48 % 8 = 0 ∧
    (∀ x ∈ q.stored, 0x100 + x.1 / 32 < winSize s.cur s.me ∧ 0x104 + x.1 / 128 < winSize s.cur s.me) ∧ q.stored.length = 1 ∧
    (∀ x ∈ q.stored, ∀ y ∈ q.stored, 0x100 + x.1 / 32 ≠ 0x104 + y.1 / 128) ∧ NoRun s ∧ 32 < ((pst (up 57 33) 0).sr 6).toNat / 2 ^ 57 % 64 ∧
    ((pst 0 (up 48 1)).sr 7).toNat / 2 ^ 48 % 8 ≠ 0 ∧ (aft (.vcompress 0 1 6 0) s).me.wait = .ready ∧
    (aft (.vcompress 0 1 6 0) (pst (up 57 33) 0)).me.wait = .trapped ∧ (aft (.vexpand 8 7 6 0) (pst 0 (up 48 1))).me.wait = .trapped ∧
    (aft (.vexpand 8 7 6 0) (pst 32 0x00104100)).me.wait = .ready := by unfold NoRun; decide +kernel

/-! ### Tiles (chapter 15) -/

/-- Two tiles, format register 0 set to `f`, a window of 300 registers, s6 = 7 and s7 = 292. -/
def tst (f : Nat) : State :=
  withS [(6, 7), (7, 292), (8, 293)] (withTh (fun t => { t with winRegs := 300, tiles := [2, 3], fmt := [(0, BitVec.ofNat 64 f)] })
    (withCore (fun c => { c with accs := [(2, ofElems fun i => BitVec.ofNat 32 (i + 1))] }) st))

/-- The thread of a CCC. -/
def cccSt : State := { st with cur := cccBase, threads := [(cccBase, { th with super := true })] }

/-- Tile 0 is free, whatever the format: the one of a conversion, of an MMA, and one that the manual reserves. -/
theorem free_tst : ∀ f ∈ [8, 9 + 256, 10, 8 + 8 * 16], FreeTile 0 (tst f) := fun f hf => by
  constructor <;> revert f <;> decide +kernel

theorem witness_AccumulatorMoves :
    let s := tst 8
    (s.sr 7).toNat + 8 ≤ winSize s.cur s.me ∧ winSize s.cur s.me < (s.sr 8).toNat + 8 ∧ NoRun s ∧ s.me.tiles.length ≤ 2 ∧
    ((tst 8).me.fmt.map fun e => e.2.toNat % 16) = [8] ∧ (SMap.getD (tst (9 + 256)).me.fmt 0 0).toNat % 16 = 9 ∧
    (SMap.getD (tst 10).me.fmt 0 0).toNat % 16 = 10 ∧ isCcc cccSt.cur = true ∧
    (withCore (fun c => { c with locks := [2] }) s).core 0 = { s.core 0 with locks := [2] } ∧
    four (aft (.accst 0 7) s) 292 = [1, 2, 3, 4] ∧ elemOf ((aft (.acczero 0) s).tileAt 0 2) 5 = 0 ∧ (aft (.accld 0 8) s).me.wait = .trapped ∧
    (aft (.acczero 0) (withCore (fun c => { c with locks := [2] }) s)).me.wait = .retry (.lock 0 2) ∧
    (aft (.acccvt 0 7 0) (tst 10)).me.wait = .trapped ∧ (aft (.acczero 2) s).me.wait = .trapped := by
  unfold NoRun; decide +kernel

theorem witness_FormatAndTermRegisters :
    isCcc (tst 0).cur = false ∧ ((withS [(6, 17)] (tst 0)).sr 6).toNat ≤ 17 ∧ 17 < ((withS [(6, 18)] (tst 0)).sr 6).toNat ∧ ((withS [(6, 63)] (tst 0)).sr 6).toNat = 63 ∧
    NoRun (tst 0) ∧ isCcc cccSt.cur = true ∧ NoRun cccSt ∧
    (aft (.fmtr 9 1) (aft (.fmtw 1 3) (tst 0))).sr 9 = 0xFFFFFF7FFD ∧ (aft (.termrd 9 6) (withS [(6, 18)] (tst 0))).me.wait = .trapped := by
  unfold NoRun; decide +kernel

theorem witness_MmaIssues :
    let w := 8 + 8 * 16
    fmtOk w = true ∧ fmtScale w = 0 ∧ ((tst w).sr 6).toNat + 48 ≤ winSize (tst w).cur (tst w).me ∧ ((tst w).sr 0).toNat + 48 ≤ winSize (tst w).cur (tst w).me ∧
    fmtClass (fmtA (w + 256)) = 1 ∧ fmtAcct (w + 256) = true ∧ (List.replicate 32 (5 : Nat)).length % 32 = 0 ∧
    ((aft (.mma 0 6 0 0 0 0) (tst w)).core 0).locks = [2] := by decide +kernel

/-- The thread waits for its MMA. -/
def mmaSt (started : Bool) (due : Nat) (opens : BitVec 256) (cycles : Nat) : State :=
  (withTh (fun t => { t with wait := .mma started due 2 77 true opens [5, 6, 7, 8, 9] 0x1234 })
      (withCore (fun c => { c with arrayQueue := [0, 3], locks := [2], arrayFree := 3 }) (tst 8))).setDie 0 { cycles := cycles }

theorem witness_MmaCompletes :
    let a := mmaSt false 0 0 0
    let b := mmaSt false 0 0 1000
    let c := mmaSt true 5 0 1000
    let d := mmaSt true 5 6 1000
    (a.core 0).arrayQueue = 0 :: [3] ∧ a.cycleOf 0 < max 0 (a.core 0).arrayFree ∧ max 0 (b.core 0).arrayFree ≤ b.cycleOf 0 ∧
    (mmaSt true 5 0 0).cycleOf 0 < 5 ∧ 5 ≤ c.cycleOf 0 ∧ (c.thr 0).live = true ∧ (c.thr 0).run.active = false ∧ (d.thr 0).run.ordered = false ∧
    (6 : BitVec 256) ≠ 0 ∧ ((aft (.mmaArrayStart 0) b).core 0).arrayFree = 10 ∧ ((aft (.mmaComplete 0) c).core 0).locks = [] ∧
    (aft (.mmaComplete 0) d).me.wait = .trapped ∧ (aft (.mmaComplete 0) c).me.fflags = 2 ∧ (c.thr 0).doomed = none ∧ (d.thr 0).doomed = none := by decide +kernel

/-- An MMA in a transaction: with an assist the run stays open, and an abort that waits comes once the tile is written. -/
theorem witness_MmaCompletes_inARun :
    let d := inTx (mmaSt true 5 6 1000)
    let a := withTh (fun t => { t with run := { t.run with undoTiles := [(2, 3)] }, doomed := some (.abort 1 0) }) (inTx (mmaSt true 5 0 1000))
    5 ≤ d.cycleOf 0 ∧ (d.thr 0).run.active = true ∧ (d.thr 0).doomed = none ∧ (d.thr 0).run.ordered = false ∧ (a.thr 0).doomed = some (.abort 1 0) ∧
    (a.thr 0).run.active = true ∧ SMap.Ok (a.thr 0).run.undoTiles ∧
    (aft (.mmaComplete 0) d).me.run.active = true ∧ (aft (.mmaComplete 0) d).records.map (·.tnpc) = [0x1004] ∧
    (aft (.mmaComplete 0) a).me.pc = 0x2000 ∧ (aft (.mmaComplete 0) a).me.run.active = false ∧ ((aft (.mmaComplete 0) a).core 0).locks = [] ∧
    (aft (.mmaComplete 0) a).tileAt 0 2 = 3 := by unfold SMap.Ok; decide +kernel

/-- The descriptor of an NBMV of n rows in s6 to s9, from the matrix of entry 10 and the row in v0 to v2, with its results in the window from
32 on, or, in L2, at offset 8 of entry 11. -/
def nbSt (l2 : Bool) (n : Nat) : State := withS [(4, 0), (5, 0), (6, n * 4096), (7, if l2 then 11 else 32), (8, if l2 then 8 else 0), (9, if l2 then 0x1FFFF * 4096 + 3 else 0)] mst

/-- The operation that the checks form. -/
def nbOp (l2 : Bool) (n : Nat) : NearOp :=
  match (nbSt l2 n).nbmvChecks 0 (.nbmv 6 10 4 (if l2 then 1 else 0) 0) ((nbSt l2 n).group 6 4) 10 4 l2 0 with | .ok o => o | .error _ => {}

theorem witness_NearBank :
    isCcc (nbSt false 1).cur = false ∧ NoRun (nbSt false 1) ∧
    (nbSt false 0).nbmvChecks 0 (.nbmv 6 10 4 0 0) ((nbSt false 0).group 6 4) 10 4 false 0 = .ok (nbOp false 0) ∧ (nbOp false 0).n = 0 ∧
    (nbSt false 5).nbmvChecks 0 (.nbmv 6 10 4 0 0) ((nbSt false 5).group 6 4) 10 4 false 0 = .error (causeLAYOUT, 10) ∧
    (nbSt false 1).badRegs = [] ∧ ((nbSt false 1).core 0).livePages (nbOp false 1).ctx [] = [] ∧
    (let c := withCl (fun c => { c with nears := [{ n := 0, cnt := 3 }], counters := [(3, { value := 1 })] }) mst
     (c.cluster 0).nears[0]? = some { n := 0, cnt := 3 } ∧ ((aft (.nbmvComplete 0 0) c).counter 0 3).value = 0) ∧
    (aft (.nbmv 6 10 4 0 0) (nbSt false 0)).me.wait = .response noBank .none ∧ (aft (.nbmv 6 10 4 0 0) (nbSt false 5)).me.wait = .trapped := by
  unfold NoRun; decide +kernel

theorem witness_NearBank_rows :
    let s := nbSt false 1
    let o := nbOp false 1
    let vas := (List.range 1).flatMap o.rowVas
    let xs : SMap Xlat := [(0x1000, { loc := 0x50000000 })]
    let r := s.translateAll o.agent 0 0 permR false (pagesOf vas)
    o.n = 1 ∧ laySpace o.mat.toNat < 3 ∧ pagesOf vas = [0x1000] ∧ r.2 = .ok xs ∧ r.1.cur = 0 ∧ isDirected o.mat.toNat xs = false ∧ r.1.xlines = [] ∧ s.xlines = [] ∧ r.1.dirQueue = [] ∧
    r.1.badMem = [] ∧ (∀ e ∈ r.1.dies, e.2.dwc = []) ∧ r.1.lineKey = [] ∧ SMap.get? r.1.frameOwner 0x5000 = some o.ctx := by decide +kernel

theorem witness_NearBank_l2 :
    let o := nbOp true 1
    let r := (nbSt true 1).nearLines o (List.range 1) []
    o.n = 1 ∧ (match r.2 with | .ok ls => decide (ls = [0x50002000 / 128]) | .error _ => false) = true ∧ r.1.cur = 0 ∧
    ((aft (.nbmv 6 10 4 1 0) (nbSt true 1)).cluster 0).nears.length = 1 := by decide +kernel

/-- An NBMV that passed its checks and waits keeps its operation, which is what runs when it goes on. -/
theorem witness_NearBank_waits :
    let s := withCore (fun c => { c with sideLog := [{ entry := BitVec.ofNat 512 (lin 0 7 0 0x10000000 0x10000), vas := [0x10000000] }] }) (nbSt false 1)
    let t := aft (.nbmv 6 10 4 0 0) s
    (s.core 0).livePages (nbOp false 1).ctx [0x1000] = [0x1000] ∧ t.me.wait = .retry (.pageLive [0x1000]) ∧ t.me.near = some (nbOp false 1) ∧
    SMap.getD (t.core 0).terms 17 0 = 1 ∧
    (let u := withTh (fun th => { th with wait := .ready }) (withCore (fun c => { c with sideLog := [] }) t)
     u.me.near = some (nbOp false 1) ∧ SMap.getD ((aft (.nbmv 6 10 4 0 0) u).core 0).terms 17 0 = 1) := by decide +kernel


/-! ### Copies (chapter 17) -/

/-- Whether a result is a value, and whether it is the value v. -/
def isOk {α β : Type} : Except α β → Bool
  | .ok _ => true
  | .error _ => false
def isVal {α β : Type} [DecidableEq β] (v : β) : Except α β → Bool
  | .ok x => decide (x = v)
  | .error _ => false

/-- Whether an engine's request waits at the home. -/
def isWait {β : Type} : Except Reply β → Bool
  | .error (.wait _ _) => true
  | _ => false

/-- An accepted operation of one row, with its output line in X. -/
def nbDone : State := aft (.nbmv 6 10 4 1 0) (nbSt true 1)

/-- Its row is read and its result is written; and the same operation over an unmapped matrix ends with PAGE. -/
theorem witness_NearBankCompletes :
    let s := nbDone
    let o := (s.cluster 0).nears.getD 0 {}
    let row := o.rowVas 0
    let outs := (List.range 4).map (o.outVa 0 + ·)
    let xs : SMap Xlat := [(0x1000, { loc := 0x50000000 })]
    let r := s.translateAll o.agent 0 0 permR false (pagesOf row)
    let w := r.1.translateAll o.agent 0 0 permW true (pagesOf outs)
    let far := { o with mat := BitVec.ofNat 512 (2 + 7 * 256 + up 64 0x30000000 + up 128 384 + up 160 4 + up 256 384) }
    let f := withCl (fun c => { c with nears := [far], counters := [(3, { value := 1 })] }) s
    (s.cluster 0).nears[0]? = some o ∧ o.n = 1 ∧ (∀ x ∈ s.xlines, x ∈ o.lines) ∧ s.xlines = [0x50002000 / 128] ∧ s.dirQueue = [] ∧ s.badMem = [] ∧
    s.lineKey = [] ∧ s.MemoryOk ∧ (∀ e ∈ s.dies, e.2.dwc = []) ∧ laySpace o.mat.toNat = 0 ∧ laySpace o.out.toNat = 0 ∧
    layModule o.mat.toNat = 0 ∧ layModule o.out.toNat = 0 ∧ s.tableWaits o.agent 0 0 permR false (pagesOf row) = [] ∧ isVal xs r.2 = true ∧
    r.1.tableWaits o.agent 0 0 permW true (pagesOf outs) = [] ∧ isVal xs w.2 = true ∧ isDirected o.mat.toNat xs = false ∧ isDirected o.out.toNat xs = false ∧
    (∀ va ∈ row ++ outs, xlatKey xs va = 0) ∧ SMap.get? s.frameOwner 0x5000 = some o.ctx ∧ (outs.map (xlatLoc xs)).Nodup ∧
    (match s.nearRows o (List.range 1) 0 with | .ok (u, c) => decide (c = 0 ∧ u.xlines = s.xlines ∧ (u.cluster 0).nears = (s.cluster 0).nears) | .error _ => false) = true ∧
    (aft (.nbmvComplete 0 0) s).xlines = [] ∧ ((aft (.nbmvComplete 0 0) s).cluster 0).nears = [] ∧
    (match (f.translateAll far.agent 0 0 permR false (pagesOf (far.rowVas 0))).2 with | .error p => decide (p = 0x3000) | .ok _ => false) = true ∧
    ((aft (.nbmvComplete 0 0) f).counter 0 3).status = causePAGE := by
  unfold State.MemoryOk; decide +kernel

/-- A descriptor in s6 to s9. -/
def cp (w0 w1 w2 w3 : Nat) (s : State) : State := withS [(6, w0), (7, w1), (8, w2), (9, w3)] s

/-- An XCOPY of 7 bytes from entry 12 at byte 4 to entry 13 at byte 8, counted in counter 3. -/
def xc : State := withCnt { value := 1 } (cp (12 + 13 * 256 + 3 * 65536 + 0x1FFFF * 2 ^ 28) 4 8 7 mst)

/-- The copy in the engine's queue, and accepted. -/
def xc1 : State := aft (.xcopy 6 0) xc
def xc2 : State := aft (.copyAccept 0) xc1

/-- The first operation of cluster 0's copy engine. -/
def theCopy (s : State) : CopyOp := (s.cluster 0).copies.getD 0 {}

theorem witness_CopiesIssue :
    NoRun xc ∧ (match xc.copyChecks 0 (.xcopy 6 0) (xc.group 6 4) false 0 with | .ok (o, c) => decide (o = theCopy xc1 ∧ c = 256) | .error _ => false) = true ∧
    (inTx xc).me.run.active = true ∧ (aft (.xcopy 6 0) (inTx xc)).me.run.held.map (·.instr) = [.xcopy 6 0] ∧ xc1.me.wait = .copy ∧ xc1.me.xclip = 256 ∧
    (cp (2 ^ 45) 0 0 0 mst).srN 6 = BitVec.ofNat 64 (2 ^ 45) ∧ (aft (.xcopy 6 0) (cp (2 ^ 45) 0 0 0 mst)).me.wait = .trapped ∧
    (aft (.xcopy 6 0) (cp 12 0 0 (2 ^ 32) mst)).records.map (·.cause) = [causeILLEGAL] ∧
    layValid (mst.layoutEntry 0 9) = false ∧ (aft (.xcopy 6 0) (cp 9 0 0 0 mst)).records.map (·.tval) = [9] ∧
    layAccess (mst.layoutEntry 0 4) % 2 = 0 ∧ (aft (.xmcast 6 0) (cp 4 0 0 0 mst)).records.map (·.tval) = [4] := by
  unfold NoRun; decide +kernel

/-- s6 names tag 5 with entry 12. -/
def subSt (v : Nat) : State := withS [(6, v)] mst

theorem witness_Subscriptions :
    let s := subSt (5 + 12 * 65536)
    clusterModule (threadCluster s.cur) = threadModule s.cur ∧ s.me.run.active = false ∧ s.net = [] ∧
    (match s.msubChecks 0 (.msub 6) (5 + 12 * 65536) with | .ok e => decide (e = mst.layoutEntry 0 12) | .error _ => false) = true ∧
    s.subsFull 0 5 = false ∧ ((subSt 65535).sr 6).toNat < 2 ^ 16 ∧ (inTx s).me.run.active = true ∧ NoRun s ∧ 2 ^ 37 ≤ ((subSt (2 ^ 37)).sr 6).toNat ∧
    2 ^ 16 ≤ ((subSt 65536).sr 6).toNat ∧ (aft (.msub 6) s).net.map (·.dest) = [1024 + 5] ∧ (aft (.munsub 6) (subSt 65536)).me.wait = .trapped := by
  unfold NoRun; decide +kernel

theorem witness_Subscriptions_full :
    let s := withMod (fun m => { m with subs := List.replicate 4096 { cluster := 1, tag := 1 } }) (subSt (5 + 12 * 65536))
    s.subsFull 0 5 = true ∧ (aft (.msub 6) s).records.map (·.cause) = [causeQUOTA] := by decide +kernel

theorem witness_CopiesAreAccepted :
    firstWaiting (mst.cluster 0).copies = none ∧ (xc1.cluster 0).copies[0]? = some (theCopy xc1) ∧ firstWaiting (xc1.cluster 0).copies = some 0 ∧
    ((xc1.cluster 0).copies.filter (·.accepted)).length < 64 ∧ isOk (xc1.acceptCopy (theCopy xc1)).2 = true ∧
    (xc1.thr (theCopy xc1).thread).live = true ∧ (xc1.acceptCopy (theCopy xc1)).1.threads = xc1.threads ∧ (theCopy xc1).wake = true ∧
    (xc1.thr 0).wait = .copy ∧ xc2.me.pc = 0x1004 ∧ xc2.xlines = [0x50003000 / 128] ∧
    isWait (({ xc1 with xlines := [0x50003000 / 128] } : State).acceptCopy (theCopy xc1)).2 = true ∧
    64 ≤ ((List.replicate 64 { theCopy xc1 with accepted := true }).filter (·.accepted)).length := by decide +kernel

theorem witness_CopiesComplete :
    let o := theCopy xc2
    let mine (xs : SMap Xlat) (v : Nat) : Prop := SameKey xc2 (xlatKey xs v) (xlatLoc xs v) ∧
      (inHbm (locPa (xlatLoc xs v)) = true → SMap.get? xc2.frameOwner (xlatLoc xs v / 65536) = some o.ctx)
    (xc2.cluster 0).copies[0]? = some o ∧ o.moved = 7 ∧ o.accepted = true ∧ o.sent = false ∧
    (((xc2.cluster 0).copies.take 0).all fun x => decide (x.thread ≠ o.thread)) = true ∧ o.multicast = false ∧ xc2.MemoryOk ∧
    (∀ b, b < 7 → o.srcVa b = some (0x10000004 + b) ∧ o.dstVa b = some (0x10003008 + b)) ∧ laySpace o.src.toNat < 3 ∧ laySpace o.dst.toNat < 3 ∧
    isDirected o.src.toNat o.srcX = false ∧ isDirected o.dst.toNat o.dstX = false ∧
    (∀ b, b < 7 → lineOf (xlatLoc o.srcX (0x10000004 + b)) ∉ xc2.xlines) ∧ (∀ b, b < 7 → lineOf (xlatLoc o.dstX (0x10003008 + b)) ∈ o.lines) ∧
    (∀ b, b < 7 → mine o.srcX (0x10000004 + b) ∧ mine o.dstX (0x10003008 + b)) ∧ xc2.badMem = [] ∧ (∀ e ∈ xc2.dies, e.2.dwc = []) ∧
    (∀ e ∈ xc2.clusters, e.2.watches = []) ∧ (theCopy xc1).accepted = false ∧
    Memory.get (aft (.copyComplete 0 0) xc2).mem 0x50003008 = 0x84 ∧ Memory.get (aft (.copyComplete 0 0) xc2).mem 0x5000300C = 0 ∧
    ((aft (.copyComplete 0 0) xc2).counter 0 3).value = 0 ∧ (aft (.copyComplete 0 0) xc2).xlines = [] := by
  unfold SameKey State.MemoryOk; decide +kernel

theorem witness_CopiesComplete_pages :
    let o := theCopy xc2
    xc2.dirQueue = [] ∧ ((List.range 7).map fun b => xlatLoc o.dstX (0x10003008 + b)).Nodup ∧
    (∀ b, b < 7 → xlatPage o.src.toNat o.srcX (0x10000004 + b) = xlatPage o.src.toNat o.srcX 0x10000004) ∧
    (∀ b, b < 7 → xlatPage o.dst.toNat o.dstX (0x10003008 + b) = xlatPage o.dst.toNat o.dstX 0x10003008) := by decide +kernel

/-- A state of one thread in no run, whose clusters hold no task, has no holders. -/
theorem no_holders' {s : State} (h1 : s.threads = [(0, s.me)]) (h2 : ∀ e ∈ s.clusters, e.2.tasks = []) (h3 : s.me.run.active = false) (m : Nat) :
    s.holders m = [] := by
  unfold State.holders
  rw [h1]
  have : ∀ e ∈ s.clusters.filter fun e => decide (clusterModule e.1 = m), e.2.tasks = [] := fun e he => h2 e (List.mem_of_mem_filter he)
  simp only [List.flatMap_eq_nil_iff, List.append_eq_nil_iff]
  exact ⟨by simp [h3], fun e he => by simp [this e he]⟩

theorem witness_CopiesComplete_runs : ∀ m, xc2.holders m = [] :=
  no_holders' (by decide +kernel) (by decide +kernel) (by decide +kernel)

theorem witness_NearBankCompletes_runs : ∀ m, nbDone.holders m = [] :=
  no_holders' (by decide +kernel) (by decide +kernel) (by decide +kernel)

theorem witness_CopiesComplete_multicast :
    let o : CopyOp := { multicast := true, accepted := true, tag := 5 }
    let s := withCl (fun c => { c with copies := [o] }) mst
    (s.cluster 0).copies[0]? = some o ∧ o.moved = 0 ∧ o.accepted = true ∧ o.sent = false ∧ o.multicast = true ∧
    (aft (.copyComplete 0 0) s).net.map (·.dest) = [1024 + 5] := by decide +kernel

theorem witness_CopiesComplete_window :
    mst.egress = [] ∧ unackedIn mst.net 0 true (1024 + 5) < 256 ∧ clusterModule 0 / 72 * 16 + 5 % 16 = 5 := by decide +kernel

/-! ### The access processor (chapter 23) -/

/-- Elements 1, 3 and 2 of the index list at 0x5000_0000, a gather of them through entry 12 into entry 13's queue 7, and a scatter. -/
def apMem : State := { mst with mem := Memory.setAll mst.mem (cellsAt 0x50000000 (leBytes 12 (1 + 3 * 2 ^ 32 + 2 * 2 ^ 64)) ++ cellsAt 0x50003000 (leBytes 16 (0x11 + 0x22 * 2 ^ 32 + 0x33 * 2 ^ 64 + 0x44 * 2 ^ 96))) }
def apSt (w0 n : Nat) : State := cp (12 + 13 * 256 + 7 * 2 ^ 24 + w0) (n * 2 ^ 32) 0 0 apMem

/-- The gather started, accepted, and after its first element. -/
def g1 : State := aft (.apgather 5 6) (apSt 0 3)
def g2 : State := aft (.streamAccept 0) g1
def g3 : State := aft (.gatherRunahead 0 0) g2

/-- Stream 0 and queue 7 of cluster 0. -/
def theStream (s : State) : Stream := SMap.getD (s.cluster 0).streams 0 {}
def theQueue (s : State) : ApQueue := SMap.getD (s.cluster 0).queues 7 {}

theorem witness_StreamsStart :
    (apSt 0 3).badRegs = [] ∧ NoRun (apSt 0 3) ∧
    (match (apSt 0 3).streamChecks 0 (.apgather 5 6) ((apSt 0 3).group 6 4) .gather with | .ok (_, q) => decide (q = some 7) | .error _ => false) = true ∧
    (match (apSt 0 65537).streamChecks 0 (.apgather 5 6) ((apSt 0 65537).group 6 4) .gather with | .ok _ => false | .error e => decide (e.1 = causeILLEGAL)) = true ∧
    65536 < ((apSt 0 65537).group 6 4).getD 1 0 / 2 ^ 32 ∧ ((apSt (2 ^ 35) 3).group 6 4).getD 0 0 / 2 ^ 35 ≠ 0 ∧
    (g1.cluster 0).starts.length = 1 ∧ (g1.thr 0).live = true ∧ (g1.cluster 0).starts.map (·.queue) = [some 7] ∧ SMap.has (g1.cluster 0).queues 7 = false ∧
    SMap.has (g1.cluster 0).streams 0 = false ∧ (g1.cluster 0).starts.map (·.stream.kind) = [.gather] ∧ (g1.cluster 0).starts.map (·.stream.lines) = [[]] ∧
    g2.sr 5 = 0 ∧ (theQueue g2).total = 12 ∧
    (aft (.streamAccept 0) (withCl (fun c => { c with queues := [(7, {})] }) g1)).sr 5 = BitVec.allOnes 64 ∧
    ((g1.cluster 0).starts.map (·.wake)) = [true] ∧
    (let h := withTh (fun t => { t with wait := .ready }) (withCl (fun c => { c with starts := c.starts.map fun x => { x with wake := false } }) g1)
     (aft (.streamAccept 0) h).me = h.me) ∧
    (aft (.streamAccept 0) (withCl (fun c => { c with streams := (List.range 8).map fun i => (i, {}) }) g1)).me.wait = .apstart := by
  unfold NoRun; decide +kernel

/-- Queue 7 of the region holds n bytes of a gather of 130, or of a scatter where `inb`. -/
def qSt (inb : Bool) (n units : Nat) : State :=
  withS [(6, 7), (10, 8)] (withCl (fun c => { c with
    queues := [(7, { inbound := inb, total := 130, data := List.replicate n 9, units := units })], streams := [(0, { kind := if inb then .scatter else .gather, n := 33 })] }) st)

theorem witness_ApQueues :
    st.boundQueue 0 7 false = none ∧ (qSt true 0 0).boundQueue 0 7 false = none ∧ (qSt false 0 0).boundQueue 0 7 true = none ∧ NoRun st ∧
    (qSt false 128 0).boundQueue 0 7 false = some { total := 130, data := List.replicate 128 9 } ∧ (qSt false 128 0).queueBusy 0 7 = false ∧
    (qSt false 127 0).unitStalled 0 { total := 130, data := List.replicate 127 9 } = false ∧ st.me.wait = .ready ∧
    (qSt true 0 0).boundQueue 0 7 true = some { inbound := true, total := 130 } ∧ (qSt true 0 0).badRegs = [] ∧
    four (aft (.apqpop 5 6) (qSt false 128 0)) 5 = [0x09090909, 0x09090909, 0x09090909, 0x09090909] ∧
    four (aft (.apqpop 5 6) (qSt false 2 1)) 5 = [0x0909, 0, 0, 0] ∧ ((aft (.apqpop 5 6) (qSt false 2 1)).cluster 0).queues = [] ∧
    (aft (.apqpop 5 6) (qSt false 127 0)).me.wait = .apqpop 7 0 ∧ (theQueue (aft (.apqpush 5 6) (qSt true 0 0))).data.length = 128 ∧
    8 ≤ ((qSt true 0 0).sr 10).toNat ∧ (aft (.apwait 5 10) (qSt true 0 0)).me.wait = .trapped ∧ (aft (.apwait 5 6) (qSt true 0 0)).sr 5 = BitVec.allOnes 64 ∧
    (let e := withCl (fun c => { c with streams := [(7, { ended := true, status := 5 })] }) (qSt true 0 0)
     (aft (.apwait 5 6) e).sr 5 = 5 ∧ ((aft (.apwait 5 6) e).cluster 0).streams = []) ∧
    (let e := withCl (fun c => { c with streams := [(7, { region := 9 })] }) (qSt true 0 0)
     (aft (.apwait 5 6) e).sr 5 = BitVec.allOnes 64) ∧
    (aft (.apwait 5 6) (withCl (fun c => { c with streams := [(7, {})] }) (qSt true 0 0))).me.wait = .apwait 5 7 ∧
    (qSt true 0 0).actsFor 0 = some 0 ∧ (qSt true 0 0).supervisor 0 = false ∧
    (aft (.apqstat 5 6) (qSt true 3 0)).sr 5 = 0x180003 ∧ (aft (.apqstat 5 6) st).sr 5 = 0 ∧
    (aft (.apqstat 5 6) (withS [(6, 32)] st)).me.wait = .trapped ∧ (withS [(6, 31)] st).sr 6 = 31 := by unfold NoRun; decide +kernel

theorem witness_ApQueues_full : (aft (.apqpush 5 6) (qSt true 16257 0)).me.wait = .apqpush 7 0 ∧ 127 * 128 < 16257 := by decide +kernel

/-- A gather whose element failed: the pop reads it again, and takes its bytes where it reads now, traps where it fails again, and waits. -/
theorem witness_ApQueues_stalled :
    let o : Stream := { kind := .gather, thread := 0, n := 32, accepted := 32, queue := some 7, stall := some (causePAGE, 5)
                        il := BitVec.ofNat 512 (lin 0 7 0 0x10001000 0x1000), dl := BitVec.ofNat 512 (lin 0 7 0 0x10003000 0x1000)
                        heap := (0x10000000, 0x20000000, 0x40000000) }
    let z (f : Stream → Stream) (s : State) : State := withS [(6, 7)] (withCl (fun c => { c with
      queues := [(7, { total := 4, attached := true })], streams := [(0, f o)] }) s)
    let k : ApQueue := { total := 4, attached := true }
    let bad := z (fun o => { o with il := BitVec.ofNat 512 (lin 0 7 0 0x30000000 0x1000) }) mst
    let x := z id { mst with xlines := [0x50001000 / 128] }
    (z id mst).boundQueue 0 7 false = some k ∧ (z id mst).queueBusy 0 7 = false ∧ k.data.length < min 128 (k.total - 128 * k.units) ∧
    (z id mst).unitStalled 0 k = true ∧
    (let r := (z id mst).gatherAfresh ((z id mst).stream 0 0) 0
     r.1.cur = 0 ∧ r.1.threads = (z id mst).threads ∧ (match r.2 with | .ok bs => decide (bs.length = 4) | _ => false) = true ∧
     (SMap.getD ((r.1.appendElement 0 0 [0, 0, 0, 0]).cluster 0).queues 7 {}).data.length = 4) ∧
    (aft (.apqpop 5 6) (z id mst)).me.pc = 0x1004 ∧ ((aft (.apqpop 5 6) (z id mst)).cluster 0).queues = [] ∧
    (match ((bad.gatherAfresh (bad.stream 0 0) 0).2) with | .fail t => decide (t.1 = causePAGE) | _ => false) = true ∧
    (aft (.apqpop 5 6) bad).me.wait = .trapped ∧
    (match ((x.gatherAfresh (x.stream 0 0) 0).2) with | .wait (.wait _ ts) => decide (ts = []) | _ => false) = true ∧
    (aft (.apqpop 5 6) x).me.wait = .apqpop 7 0 := by decide +kernel

theorem witness_GatherRunsAhead :
    SMap.get? (g2.cluster 0).streams 0 = some (theStream g2) ∧ (theStream g2).queue = some 7 ∧ (theStream g2).kind = .gather ∧ (theStream g2).ended = false ∧
    (theStream g2).cancel = false ∧ (theStream g2).stall = none ∧ (theStream g2).pos < (theStream g2).n ∧ (theQueue g2).data.length + (theStream g2).e ≤ 16384 ∧
    (match g2.gatherElement (theStream g2) 0 with | (u, .ok bs) => decide (u.clusters = g2.clusters ∧ bs = [0x22, 0, 0, 0]) | _ => false) = true ∧
    (theQueue g3).data = [0x22, 0, 0, 0] ∧ (theStream g3).pos = 1 ∧
    (match (State.gatherElement { g2 with xlines := [0x50003000 / 128] } (theStream g2) 0).2 with | .wait _ => true | _ => false) = true ∧
    (let f := { theStream g2 with dl := 0 }
     let s := withCl (fun c => { c with streams := [(0, f)] }) g2
     (aft (.gatherRunahead 0 0) s).cluster 0 |>.drops) = 1 := by decide +kernel

theorem witness_GatherRunsAhead_queue : SMap.get? (g2.cluster 0).queues 7 = some (theQueue g2) := by decide +kernel

/-- The scatter started and accepted, its first value pushed. -/
def s1 : State := aft (.streamAccept 0) (aft (.apscatter 5 6) (apSt 0 3))
def s2 : State := aft (.apqpush 1 6) (withS [(6, 7)] s1)

theorem witness_ScatterWrites :
    let o := theStream s2
    let va := (layBase o.dl.toNat + (o.doff + o.snap.getD o.pos 0 * o.e)) % 2 ^ 64
    let words := (List.range (o.e / 4)).map fun w => (va + 4 * w) % 2 ^ 64
    let x := s2.engineXlat o.agent o.dl.toNat permW (decide (0 < o.e)) ((List.range o.e).map (va + ·))
    SMap.get? (s2.cluster 0).streams 0 = some o ∧ o.kind = .scatter ∧ s1.elementValue 0 (theStream s1) = none ∧ (s2.elementValue 0 o).isSome = true ∧
    o.pos < o.accepted ∧ o.ended = false ∧ o.cancel = false ∧ o.e = 4 ∧ va = 0x10003004 ∧ s2.throughLog 0 0 o words = false ∧ laySpace o.dl.toNat < 3 ∧
    isVal [(0x1000, { loc := 0x50000000 })] x.2 = true ∧ x.1.clusters = s2.clusters ∧ x.1.MemoryOk ∧ x.1.badMem = [] ∧
    isDirected o.dl.toNat [(0x1000, { loc := 0x50000000 })] = false ∧ o.lines.flatten.contains (0x50003000 / 128) = true ∧
    SMap.get? x.1.frameOwner 0x5000 = some o.agent.ctx ∧
    Memory.get (aft (.scatterElementWrite 0 0) s2).mem 0x50003004 = 0 ∧ (theStream (aft (.scatterElementWrite 0 0) s2)).pos = 1 := by
  unfold State.MemoryOk; decide +kernel

theorem witness_ScatterWrites_runs : ∀ m, s2.holders m = [] := no_holders' (by decide +kernel) (by decide +kernel) (by decide +kernel)

/-- The scatter of one element before its acceptance: its index is read, and its destination's line is to be in X. -/
def s0 : State := aft (.apscatter 5 6) (apSt 0 1)

theorem witness_SnapshotsAreTaken :
    let y := (s0.cluster 0).starts.getD 0 {}
    let o := y.stream
    let h := s0.streamWord o [] o.il.toNat o.ilx o.ioff
    let d := h.1.elementDest o [] 1 []
    (s0.cluster 0).starts = y :: [] ∧ SMap.has (s0.cluster 0).streams 0 = false ∧ y.queue = some 7 ∧ SMap.has (s0.cluster 0).queues 7 = false ∧
    o.kind = .scatter ∧ o.n = 1 ∧ o.accepted = 0 ∧ o.snap = [] ∧ o.values = [] ∧ o.lines = [] ∧ o.faults = [] ∧ o.stop = 0 ∧ o.vsrc = false ∧
    (match h.2 with | .ok bs => decide (bs = leBytes 4 1) | _ => false) = true ∧
    (match d.2 with | .ok (x, cur) => decide (x.cause = 0 ∧ x.lines = [0x50003000 / 128] ∧ cur = []) | .error _ => false) = true ∧
    d.1.clusters = s0.clusters ∧ d.1.threads = s0.threads ∧ y.wake = true ∧ (s0.thr 0).wait = .apstart ∧
    (let t := aft (.streamAccept 0) s0
     (theStream t).snap = [1] ∧ (theStream t).accepted = 1 ∧ 0x50003000 / 128 ∈ t.xlines ∧ t.sr 5 = 0) := by decide +kernel

/-- An index that cannot be read stops the acceptance, a destination without a page is noted, and a line that an engine holds is waited for. -/
theorem witness_SnapshotsAreTaken_ends :
    let z (f : Stream → Stream) : State := withCl (fun c => { c with starts := c.starts.map fun x => { x with stream := f x.stream } }) s0
    let bad := z fun o => { o with il := BitVec.ofNat 512 (lin 0 7 0 0x30000000 0x1000) }
    let far := z fun o => { o with dl := BitVec.ofNat 512 (lin 0 7 0 0x30000000 0x1000) }
    let x : State := { s0 with xlines := [0x50003000 / 128] }
    (theStream (aft (.streamAccept 0) bad)).stop = causePAGE ∧ (theStream (aft (.streamAccept 0) bad)).accepted = 0 ∧
    (theStream (aft (.streamAccept 0) far)).faults = [0x3000] ∧ (theStream (aft (.streamAccept 0) far)).accepted = 1 ∧
    (match (x.acceptStream ((x.cluster 0).starts.getD 0 {}).stream).2 with | .error (.wait _ _) => true | _ => false) = true ∧
    ((aft (.streamAccept 0) x).cluster 0).streams = [] := by decide +kernel

/-- Parameters of a binning of one dimension: origin 1.0, scale 2.0, 10 cells. -/
def params : List Nat := [0x3F800000, 0, 0, 0x40000000, 0, 0, 10, 1, 1, 1, 3, 8]

theorem witness_Binning :
    parDims (vecOf params) = 1 ∧ rational (num32 (rne32 ((num32 (rne32 ((num32 0x40500000).add (num32 (lane (vecOf params) 0)).neg))).mul (num32 (lane (vecOf params) 3))))) = some (9 / 2) ∧
    binCell (vecOf params) (leBytes 4 0x40500000) = 4 ∧ binCell (vecOf params) (leBytes 4 0) = 10 ∧ binCell (vecOf params) (leBytes 4 0x7FC00000) = 10 ∧
    binCell (vecOf params) (leBytes 4 0x40C00000) = 10 := by decide +kernel

/-- A binning of one particle of one dimension: its cell is the snapshot. -/
theorem witness_SnapshotsAreTaken_binning :
    let o : Stream := { kind := .binCount, n := 1, param := vecOf params, il := BitVec.ofNat 512 (lin 0 7 0 0x10000000 0x1000)
                        dl := BitVec.ofNat 512 (lin 0 7 0 0x10002000 0x1000), heap := (0x10000000, 0x20000000, 0x40000000) }
    let s := withCl (fun c => { c with starts := [{ stream := o }] }) { mst with mem := Memory.setAll mst.mem (cellsAt 0x50000000 (leBytes 4 0x40500000)) }
    let r := s.streamWords o [] o.il.toNat o.ilx (wordOffs o.ioff (4 * parDims o.param))
    o.kind ≠ .gather ∧ (match r.2 with | .ok bs => decide (binCell o.param bs = 4) | _ => false) = true ∧
    (match (r.1.elementDest o [] 4 []).2 with | .ok (x, _) => decide (x.cause = 0) | .error _ => false) = true ∧
    (theStream (aft (.streamAccept 0) s)).snap = [4] ∧ (theStream (aft (.streamAccept 0) s)).lines = [[0x50002000 / 128]] := by decide +kernel

/-- A counting stream whose next particle is of cell 1. -/
def binSt : State :=
  withCl (fun c => { c with streams := [(0, { kind := .binCount, dl := BitVec.ofNat 512 (mst.layoutEntry 0 0), n := 1, accepted := 1, snap := [1],
                                              heap := (0x10000000, 0x20000000, 0x40000000), lines := [[0x50000000 / 128]] })] })
    { mst with xlines := [0x50000000 / 128] }

theorem witness_Binning_counts :
    let o := theStream binSt
    let r := binSt.streamWord o o.lines.flatten o.dl.toNat o.dlx 4
    let x := r.1.engineXlat o.agent o.dl.toNat permW true ((List.range 4).map (0x10000004 + ·))
    SMap.get? (binSt.cluster 0).streams 0 = some o ∧ o.kind = .binCount ∧ o.pos < o.accepted ∧ o.ended = false ∧ o.cancel = false ∧ laySpace o.dl.toNat < 3 ∧
    (match r.2 with | .ok bs => decide (bs = leBytes 4 0x81828384) | _ => false) = true ∧ isVal [(0x1000, { loc := 0x50000000 })] x.2 = true ∧
    x.1.clusters = binSt.clusters ∧ Memory.get (aft (.binningParticle 0 0) binSt).mem 0x50000004 = 0x85 := by decide +kernel

theorem witness_StreamsEnd :
    let o : Stream := { theStream g2 with pos := 3, queue := none }
    let s (o : Stream) : State := withCl (fun c => { c with streams := [(0, o)], counters := [(0, { value := 1 })] }) mst
    let w := withTh (fun t => { t with wait := .apwait 5 0 }) (s o)
    SMap.get? ((s o).cluster 0).streams 0 = some o ∧ o.ended = false ∧ o.kind = .gather ∧ o.n ≤ o.pos ∧ o.cancel = false ∧ (s o).awaited 0 0 = false ∧
    o.cntv = false ∧ o.orphan = false ∧ (w.thr 0).wait = .apwait 5 0 ∧ (w.thr 0).live = true ∧ threadCluster 0 = 0 ∧ w.threads.Ok ∧
    (theStream (aft (.streamEnd 0 0) (s o))).status = 3 * 2 ^ 32 ∧ (aft (.streamEnd 0 0) w).sr 5 = 3 * 2 ^ 32 ∧
    ((aft (.streamEnd 0 0) (s { o with cntv := true })).counter 0 0).value = 0 ∧
    (theStream g2).pos < (theStream g2).n ∧ ((aft (.streamEnd 0 0) w).cluster 0).streams = [] := by unfold SMap.Ok; decide +kernel


/-! ### The Firn fabric (chapter 25) -/

/-- Modules 0 and 1 are present. -/
def fst : State := { mst with present := [0, 1] }

/-- A packet of kind k between thread 0 of module 0 and switch 5 of pod 0, for tenant 0's page 3. -/
def pk (k : Nat) : Packet :=
  { kind := k, cls := kindClass k, thread := 0, from_ := 0, dest := 1024 + 5, addr := 5 * 2 ^ 37 + 3 * 2 ^ 21 + 16, size := 8, payload := leBytes 8 0x1122334455667788 ++ leBytes 8 7 }

/-- The packet stands second in the fabric. -/
def inn (p : Packet) (s : State) : State := { s with net := [{ kind := 30, thread := 9 }, p] }

theorem witness_FabricRequests :
    let g (w x y z : Nat) : State := cp w x y z fst
    let w := 3 + 2 * 2 ^ 16 + 15 * 2 ^ 24
    NoRun fst ∧ (g w 0 0 0).grantOk 0 w (((g w 0 0 0).group 6 4).drop 1) false = true ∧ (g 0 0 0 0).grantOk 0 0 (((g 0 0 0 0).group 6 4).drop 1) false = false ∧
    bits (0 : Nat) 15 0 = 0 ∧ 49152 < bits (49153 : Nat) 15 0 ∧ (2 ^ 41 / 2 ^ 41 : Nat) ≠ 0 ∧ (5 * 2 ^ 21 + 8) % 2097152 ≠ 0 ∧ (5 * 2 ^ 21) % 2097152 = 0 ∧
    fst.moraineOk (5 * 2 ^ 21) = true ∧ fst.moraineOk (2 ^ 45) = false ∧ Settled fst ∧ fst.badRegs = [] ∧
    (aft (.mgrant 5 6 0) (g w 0 0 0)).net.map (fun p => (p.dest, p.kind)) = [(1024 + 2, 5)] ∧ (aft (.mgrant 5 6 0) (g 49153 0 0 0)).me.wait = .trapped ∧
    (aft (.mrelease 5 6) (g (5 * 2 ^ 21 + 8) 3 0 0)).records.map (·.cause) = [causeALIGN] ∧ (aft (.mrelease 5 6) (g (5 * 2 ^ 21) 0 0 0)).me.wait = .trapped ∧
    (aft (.mrelease 5 6) (g (5 * 2 ^ 21) 49152 0 0)).net.map (·.kind) = [6] ∧ (aft (.mquota 5) fst).net.map (·.dest) = [1024] ∧
    (aft (.fred 6 2) (g 4096 0 0 0)).me.wait = .trapped ∧ (aft (.fred 6 2) (g 4095 63 0 0)).me.wait = .fred 4095 ∧
    (aft (.fred 6 2) (g 77 (63 + 4096) 0 0)).records.map (·.tval) = [2 ^ 63 + 63] ∧ (aft (.fbarpoll 5 6) (g 1023 0 0 0)).net.map (·.dest) = [1024 + 15] ∧
    (aft (.fbarpoll 5 6) (g 1024 0 0 0)).me.wait = .response 57 (.scalar 5 (-1)) := by unfold NoRun Settled; decide +kernel

/-- No packet of the thread is without its acknowledgement; and 256 are. -/
theorem witness_FabricRequests_window :
    let full : State := { fst with net := List.replicate 256 { pk 11 with dest := 1024 + 15, srcu := 0 } }
    (∀ dest, fst.unacked fst.cur dest < 256) ∧ (full.unacked 0 (1024 + 15) = 256) ∧
    (aft (.fbarpoll 5 6) (cp 1023 0 0 0 full)).me.wait = .retry (.window [1024 + 15]) := by
  exact ⟨fun _ => by simp [State.unacked, unackedIn, fst, mst, st], by decide +kernel, by decide +kernel⟩

/-- Object 5 of switch 5: its kind, members and MCOUNT. -/
def obj (kind pmask mcount : Nat) (o : FabricObj) (s : State) : State :=
  s.setSwitch 5 { s.switch 5 with objects := [(5, { o with desc := BitVec.ofNat 512 (pmask + up 112 5 + up 124 kind + up 164 mcount) })] }

theorem witness_FabricBarrierArrives :
    let s (mc : Nat) : State := withS [(6, 5), (7, 1024)] (obj 2 3 mc {} fst)
    let d := (SMap.getD ((s 2).switch 5).objects 5 {}).desc.toNat
    NoRun (s 2) ∧ Settled (s 2) ∧ ((s 2).sr 6).toNat < 1024 ∧ 1024 ≤ ((s 2).sr 7).toNat ∧ ((s 2).module 0).failed.contains 5 = false ∧ colKind d = 2 ∧
    colCtx d = ((s 2).agent 0).ctx ∧ (colPmask d).testBit 0 = true ∧ ((s 2).hubBarrier 0 5).arrivals + 1 < colMcount d ∧
    ((withMod (fun m => { m with failed := [5] }) (s 2)).module 0).failed.contains 5 = true := by unfold NoRun Settled; decide +kernel

theorem test_fabric_barrier :
    let s (mc : Nat) : State := withS [(6, 5), (7, 1024)] (obj 2 3 mc {} fst)
    ((aft (.fbarrier 6) (s 2)).hubBarrier 0 5).arrivals = 1 ∧ (aft (.fbarrier 6) (s 2)).net = [] ∧ (aft (.fbarrier 6) (s 1)).net.map (·.kind) = [17] ∧
    (aft (.fbarrier 7) (s 1)).records.map (·.cause) = [causeREMOTE] ∧ (aft (.fbarrier 6) fst).records.map (·.cause) = [causeREMOTE] ∧
    (aft (.fbarrier 6) (withMod (fun m => { m with failed := [5] }) (s 1))).records.map (·.cause) = [causeLOST] := by decide +kernel

theorem witness_FabricInTransaction : InTransaction (inTx fst) ∧ (aft (.fbarrier 6) (inTx fst)).me.pc = 0x2000 := by unfold InTransaction; decide +kernel

theorem witness_FirnOrder :
    (inn (pk 0) fst).net.length ≤ 2 ∧ (inn { pk 0 with stomped := true } fst).net[1]? = some { pk 0 with stomped := true } ∧
    (inn { pk 0 with stomped := true } fst).arriving 1 = none ∧ isRequest 0 = true ∧
    (let s : State := { fst with net := [pk 1, pk 0] }
     s.net[1]? = some (pk 0) ∧ s.arriving 1 = none ∧ s.arriving 0 = some (pk 1)) ∧
    (inn (pk 0) fst).arriving 1 = some (pk 0) ∧ (pk 0).kind ≠ 1 ∧ (pk 0).headerOk = true ∧
    (let p : Packet := { pk 0 with cls := 1 }
     (inn p fst).net[1]? = some p ∧ p.cls ≠ kindClass p.kind ∧ (aft (.firnRd 1) (inn p fst)).net.map (·.kind) = [30] ∧
     ((aft (.firnRd 1) (inn p fst)).switch p.firstSwitch).discarded = 1) := by decide +kernel

/-- Page 3 of tenant 0 on bank 9 of switch 5, with its other copy on bank 4 of switch 6. -/
def pages (s : State) : State :=
  (s.setSwitch 5 { s.switch 5 with pages := [(3, { bank := 9, primary := 5, mirror := some 6 })], quota := [(0, 100)] }).setSwitch 6
    { s.switch 6 with pages := [(3, { bank := 4, primary := 5, mirror := some 5 })] }

/-- A switch has failed; a module is told. -/
def dead (s : State) : State := s.setSwitch 5 { s.switch 5 with failed := true }
def told (s : State) : State := withMod (fun m => { m with failed := [5] }) s

theorem witness_MorainePages :
    let a := 5 * 2 ^ 37 + 3 * 2 ^ 21
    12 < bits (13 * 2 ^ 41) 44 41 ∧ 49152 ≤ bits (49152 * 2 ^ 21) 36 21 ∧ fst.moraineOk a = true ∧ ((dead fst).switch 5).failed = true ∧
    ((fst.module 0).failed.contains 5) = false ∧ ((pages fst).switch 5).failed = false ∧
    SMap.get? ((pages fst).switch 5).pages (pageKey 0 (bits a 36 21)) = some { bank := 9, primary := 5, mirror := some 6 } ∧
    ((told fst).module 0).failed.contains 5 = true ∧ (told fst).switches = [] ∧
    (match (pages fst).moraineCopies 0 0 a with | .ok (c, o) => decide (c = (5, 9) ∧ o = some (6, 4)) | .error _ => false) = true ∧
    isWait ((dead fst).moraineCopies 0 0 a) = true := by decide +kernel

/-- A page of which no copy is left: lost with its own switch, or with another that the module is or is not told of, and one that never was. -/
theorem witness_MorainePages_lost :
    let a := 5 * 2 ^ 37 + 3 * 2 ^ 21
    let l (w : Option Nat) (s : State) : State := s.setSwitch 5 { s.switch 5 with lost := [(3, { bank := 9, primary := 5, lostAt := w })] }
    let code (s : State) : Nat := match s.moraineCopies 0 0 a with | .error (.error c) => c | .error (.wait _ _) => 100 | _ => 101
    let six := l (some 6) (withMod (fun m => { m with failed := [6] }) fst)
    ((l (some 6) fst).switch 5).failed = false ∧ ((l (some 6) fst).switches.all fun e => decide (e.2.pages = [])) = true ∧
    (SMap.get? ((l (some 6) fst).switch 5).lost (pageKey 0 (bits a 36 21))).bind (·.lostAt) = some 6 ∧
    ((l (some 5) (told (dead fst))).module 0).failed.contains 5 = true ∧ (six.module 0).failed.contains 6 = true ∧
    code (l (some 5) (told (dead fst))) = causeLOST ∧ code six = causeLOST ∧ code (l (some 6) fst) = 100 ∧ code (l none fst) = causePAGE ∧
    code fst = causePAGE := by decide +kernel

theorem witness_FirnMemory :
    let s (k : Nat) : State := inn (pk k) (pages fst)
    (s 0).arriving 1 = some (pk 0) ∧ 1024 ≤ (pk 0).dest ∧ (pk 0).agent.module = 0 ∧ (s 1).arriving 1 = some (pk 1) ∧ (s 2).arriving 1 = some (pk 2) ∧
    (s 3).arriving 1 = some (pk 3) ∧
    (match (s 0).moraineCopies 0 0 (pk 0).addr with | .ok (c, o) => decide (c = (5, 9) ∧ o = some (6, 4)) | .error _ => false) = true ∧
    (match (inn (pk 0) fst).moraineCopies 0 0 (pk 0).addr with | .error (.error c) => decide (c = causePAGE) | _ => false) = true ∧
    isWait ((inn (pk 0) (dead fst)).moraineCopies 0 0 (pk 0).addr) = true ∧
    (s 0).badMem = [] ∧ (s 0).MemoryOk ∧ (s 0).lineKey = [] ∧ [(5, 9), (6, 4)].Nodup ∧ (pk 0).addr % 2 ^ 21 + (pk 0).payload.length ≤ 2 ^ 21 ∧
    (pk 0).addr % 8 = 0 ∧ amoValue 0 8 0 5 0 = some 5 := by unfold State.MemoryOk; decide +kernel

theorem test_firn_memory :
    let s (k : Nat) : State := inn (pk k) (pages fst)
    Memory.get (aft (.firnWr 1) (s 1)).mem (2 ^ 62 + (5 * 49152 + 9) * 2 ^ 21 + 16) = 0x88 ∧
    Memory.get (aft (.firnWr 1) (s 1)).mem (2 ^ 62 + (6 * 49152 + 4) * 2 ^ 21 + 23) = 0x11 ∧
    (aft (.firnRd 1) (s 0)).net.map (fun p => (p.kind, p.status)) = [(30, 0), (12, 0)] ∧
    (aft (.firnRd 1) (inn (pk 0) fst)).net.map (fun p => (p.kind, p.status)) = [(30, 0), (12, causePAGE)] := by decide +kernel

theorem witness_FirnMemory_peer :
    let p : Packet := { pk 0 with dest := 1, addr := 0x100000 }
    let s := inn p fst
    s.arriving 1 = some p ∧ p.dest < 1024 ∧ s.present.contains p.dest = true ∧ s.peerKey 0 1 p.addr p.size rangeR = none ∧
    s.peerKey 0 1 p.addr p.payload.length rangeW = none ∧ (aft (.firnRd 1) s).net.map (·.status) = [0, causeREMOTE] := by decide +kernel

/-- The region's budget of Moraine memory in 2 MiB units (R22), and a grant of w. -/
def budget (n : Nat) (s : State) : State := withMod (fun m => { m with regions := [(0, { reg with eff := BitVec.ofNat 2048 (rcb + up 256 (n * 2097152)) })] }) s
def gp (w : Nat) : Packet := { pk 5 with payload := leBytes 8 w, aux := 0 }

theorem witness_FirnGrants :
    let s (n : Nat) (k : Packet) : State := inn k (budget n (pages fst))
    let rel : Packet := { pk 6 with payload := leBytes 8 1, addr := 5 * 2 ^ 37 + 3 * 2 ^ 21 }
    let mine := fst.setSwitch 5 { fst.switch 5 with pages := [(3, { bank := 9, primary := 5 })] }
    (s 5 (gp 2)).arriving 1 = some (gp 2) ∧ (s 5 (gp 2)).budgets 0 0 = [0] ∧ (s 5 (gp 2)).moraineHeld 0 0 + 2 * 2097152 ≤ ((s 5 (gp 2)).region 0 0).morb ∧
    ¬ (s 1 (gp 2)).moraineHeld 0 0 + 2 * 2097152 ≤ ((s 1 (gp 2)).region 0 0).morb ∧ ((s 5 (gp 2)).module 0).failed.contains 5 = false ∧
    ((s 5 (gp 2)).switch 5).failed = false ∧ 2 ≤ ((s 5 (gp 2)).switch 5).quotaLeft 0 ∧ ((s 500 (gp 101)).switch 5).quotaLeft 0 < 101 ∧
    (inn rel mine).toDead rel = false ∧ rel.operand 0 = 1 ∧ SMap.get? ((inn rel mine).switch 5).pages (pageKey 0 3) = some { bank := 9, primary := 5 } ∧
    (inn rel mine).mayFree rel { bank := 9, primary := 5 } = true ∧ mine.switches.Ok ∧ (mine.switch 5).pages.Ok ∧ mine.MemoryOk ∧
    (inn (pk 7) (budget 5 fst)).toDead (pk 7) = false ∧ (inn (pk 7) (budget 5 fst)).budgets 0 0 = 0 :: [] ∧
    (aft (.firnMgrant 1) (s 1 (gp 2))).net.map (·.status) = [0, causeQUOTA] ∧ (aft (.firnMrelease 1) (inn rel mine)).net.map (·.payload) = [[], leBytes 8 1] := by
  unfold SMap.Ok State.MemoryOk; decide +kernel

theorem witness_FirnGrants_free : 2 ≤ ((inn (gp 2) (budget 5 (pages fst))).switch 5).freeBanks.length := by
  have h : (((inn (gp 2) (budget 5 (pages fst))).switch 5).freeBanks.take 2).length = 2 := by decide +kernel
  rw [List.length_take] at h
  omega

theorem witness_FirnGrants_run : (inn (gp 2) (budget 5 (pages fst))).commonRun 0 2 [5] = some 0 := by decide +kernel


/-- A packet of a multicast or of tag 5. -/
def tp (k : Nat) : Packet := { pk k with addr := 5 }
def mcp (last : Bool) : Packet := { pk 19 with addr := 5, payload := leBytes 8 32 ++ leBytes 4 0x04030201, last := last, status := 9 }

/-- A subscription of cluster 0 to tag 5, through entry 13, counted in counter 3. -/
def sub5 : Subscription :=
  { cluster := 0, tag := 5, lay := BitVec.ofNat 512 (lin 0 7 0 0x10003000 0x1000 + up 384 15), cntv := true, cnt := 3, heap := (0x10000000, 0x20000000, 0x40000000) }

/-- Module 0 holds subscriptions of cluster 0, and port 0 of the tag is set at the switch, at the hub and at the die's router. -/
def subs (l : List Subscription) (s : State) : State :=
  let s := (withCnt { value := 1 } (withMod (fun m => { m with subs := l, tags := [(5, [0])] }) s)).setSwitch 5 { s.switch 5 with tags := [(5, [0])] }
  s.setDie 0 { s.die 0 with tags := [(5, [0])] }

theorem witness_FirnMulticast :
    let s := inn (mcp true) (subs [sub5] fst)
    (inn (tp 8) fst).arriving 1 = some (tp 8) ∧ (inn (tp 8) fst).toDead (tp 8) = false ∧ (inn (tp 8) fst).toLost (tp 8) = false ∧
    (inn (tp 8) fst).podPresent 0 = true ∧ (inn (tp 9) fst).arriving 1 = some (tp 9) ∧
    ((inn (tp 9) (subs [sub5] fst)).module 0).subs.any (fun x => decide (x.tag = 5)) = true ∧
    ((inn (tp 9) (subs [] fst)).module 0).subs.any (fun x => decide (x.tag = 5)) = false ∧ s.arriving 1 = some (mcp true) ∧
    (inn (mcp true) fst).subscribers 5 ((inn (mcp true) fst).tagModules 0 5) = [] ∧ s.subscribers 5 (s.tagModules 0 5) = [sub5] ∧
    isOk (s.receive (mcp true) sub5) = true ∧ SMap.getD ((aft (.firnJoin 1) (inn (tp 8) fst)).switch 5).tags 5 [] = [0] ∧
    SMap.getD ((aft (.firnLeave 1) (inn (tp 9) (subs [] fst))).switch 5).tags 5 [] = [] := by decide +kernel

theorem witness_FirnMulticast_write :
    let s := inn (mcp true) (subs [sub5] fst)
    let a : Agent := { thread := 0, unit := 3, cluster := 0, ctx := 0, heap := sub5.heap }
    let cells := (mcCells sub5.lay.toNat 32 0 [1, 2, 3, 4]).getD []
    let x := s.engineXlat a sub5.lay.toNat permW true (cells.map (·.1))
    cells = [(0x10003020, 1), (0x10003021, 2), (0x10003022, 3), (0x10003023, 4)] ∧ isVal [(0x1000, { loc := 0x50000000 })] x.2 = true ∧
    laySpace sub5.lay.toNat < 3 ∧ isDirected sub5.lay.toNat [(0x1000, { loc := 0x50000000 })] = false ∧ x.1.clusters = s.clusters ∧ x.1.MemoryOk ∧
    (cells.map fun c => xlatLoc [(0x1000, { loc := 0x50000000 })] c.1).Nodup ∧
    Memory.get (aft (.firnMcdata 1) s).mem 0x50003021 = 2 ∧ ((aft (.firnMcdata 1) s).counter 0 3).value = 0 ∧
    ((aft (.firnMcdata 1) s).counter 0 3).status = 9 := by unfold State.MemoryOk; decide +kernel

theorem witness_FirnMulticast_ack :
    let p : Packet := { tp 22 with dest := 0, from_ := 1029 }
    let o : CopyOp := { thread := 0, tag := 5, sent := true, multicast := true, cnt := 3, cause := 7 }
    let s := inn p (withCnt { value := 1 } (withCl (fun c => { c with copies := [{ thread := 4 }, o] }) fst))
    s.arriving 1 = some p ∧ (s.cluster (threadCluster 0)).copies[1]? = some o ∧ o.sent = true ∧
    (∀ x ∈ (s.cluster 0).copies.take 1, ¬(x.sent = true ∧ x.thread = 0 ∧ x.tag = 5)) ∧ (aft (.firnMcack 1) s |>.counter 0 3).status = 7 := by
  decide +kernel

/-- A contribution of two registers to object 5, which adds integers of two members. -/
def cfr (k : Nat) : Packet := { pk k with addr := 5, opc := 2, aux := 1, payload := leBytes 256 (3 + 2 ^ 1024 * 5) }
def redO (o : FabricObj) (s : State) : State := obj 1 0 0 {} s |>.setSwitch 5 { failed := false, objects := [(5, { o with
  desc := BitVec.ofNat 512 (3 + up 112 5 + up 124 1 + up 126 2 + up 129 1 + up 132 5 + up 192 0x40) })] }
def con (m : Nat) : Contribution := { module := m, regs := [5, 7] }

theorem witness_FirnReductions :
    let s (o : FabricObj) : State := inn (cfr 15) (redO o fst)
    let d := (SMap.getD ((s {}).switch 5).objects 5 {}).desc.toNat
    (s {}).arriving 1 = some (cfr 15) ∧ (cfr 15).sw = 5 ∧ (s {}).toLost (cfr 15) = false ∧ (s {}).toDead (cfr 15) = false ∧
    (inn (cfr 15) (told fst)).toLost (cfr 15) = true ∧ colKind d = 1 ∧ colCtx d = 0 ∧ colPmask d = 3 ∧ colOp d = 2 ∧ colNreg d = 2 ∧ colTag d = 5 ∧
    ({ stored := [con 0] } : FabricObj).stored.map (·.module) = [0] ∧ (cfr 15).opc = colOp d ∧ (cfr 15).aux + 1 = colNreg d ∧
    { cfr 15 with opc := 1 }.opc ≠ colOp d ∧
    (aft (.firnFcontrib 1) (s {})).net.map (fun p => (p.kind, p.aux, p.status)) = [(30, 0, 0), (16, 1, 0)] ∧
    (aft (.firnFcontrib 1) (s { stored := [con 0] })).net.map (·.kind) = [30] ∧
    (aft (.firnFcontrib 1) (s { stored := [con 1] })).net.map (·.kind) = [30, 16, 20] ∧
    (aft (.firnFcontrib 1) (inn (cfr 15) fst)).net.map (·.status) = [0, causeREMOTE] ∧
    (aft (.firnFcontrib 1) (inn { cfr 15 with opc := 1 } (redO {} fst))).net.map (·.status) = [0, causeILLEGAL] ∧
    (aft (.firnFcontrib 1) (inn (cfr 15) (told fst))).net.map (·.status) = [0, causeLOST] := by decide +kernel

theorem witness_FirnReductions_replies :
    let ack (a st : Nat) : Packet := { cfr 16 with from_ := 1029, dest := 0, aux := a, status := st }
    let w := withTh (fun t => { t with wait := .fred 5 }) fst
    let q : Packet := { cfr 18 with thread := 0 }
    (inn (ack 1 0) fst).arriving 1 = some (ack 1 0) ∧ ((inn (ack 1 0) w).thr 0).live = true ∧ ((inn (ack 1 0) fst).thr 0).wait ≠ .fred 5 ∧
    ((inn (ack 1 0) w).thr 0).wait = .fred 5 ∧ ((inn (ack 1 0) w).thr 0).run.active = false ∧ ((inn (ack 1 0) w).thr 0).run.ordered = false ∧
    (aft (.firnFrack 1) (inn (ack 1 0) w)).me.pc = 0x1004 ∧ (aft (.firnFrack 1) (inn (ack 0 0) w)).me.wait = .ready ∧
    (aft (.firnFrack 1) (inn (ack 0 0) w)).me.pc = 0x1000 ∧ (aft (.firnFrack 1) (inn (ack 0 4) w)).me.wait = .trapped ∧
    (inn q (redO {} fst)).arriving 1 = some q ∧ q.sw = 5 ∧
    (aft (.firnFwdraw 1) (inn q (redO { waiting := [con 0] } fst))).net.map (·.kind) = [30, 16] ∧
    (aft (.firnFwdraw 1) (inn q (redO {} fst))).net.map (·.kind) = [30] ∧ (inn q (told (redO {} fst))).toLost q = true := by decide +kernel

theorem test_combine :
    (combine 2 [vecOf [5, 0xFFFFFFFF]] [vecOf [3, 2]]).map (fun v => ((lane v 0).toNat, (lane v 1).toNat)) = [(8, 1)] ∧
    (combine 3 [vecOf [0x3F800000]] [vecOf [0x40000000]]).map (fun v => (lane v 0).toNat) = [0x40000000] := by decide +kernel

/-- A collective descriptor of kind k at 0x5000_4000, and its packet. -/
def colD (k : Nat) : Nat := 3 + up 112 5 + up 124 k + up 164 (if k = 2 then 2 else 0)
def colS (d : Nat) (s : State) : State := { s with mem := Memory.setAll s.mem (cellsAt 0x50004000 (leBytes 64 d)) }
def fcp (d : Nat) : Packet := { pk 10 with addr := 5, payload := leBytes 64 d }

theorem witness_CollectiveConfiguration :
    let s := colS (colD 2) fst
    let i := withMod (fun m => { m with fcol := some 5 }) s
    (i.module 0).fcol.isSome = true ∧ (s.module 0).fcol = none ∧ (0x50004001 % 64 : Nat) ≠ 0 ∧ (0x50004000 % 64 : Nat) = 0 ∧ inHbm 0x50004000 = true ∧
    colOk (s.num 0x50004000 64) = true ∧ colOk (fst.num 0x50004100 64 + 2 ^ 511) = false ∧ colObj (s.num 0x50004000 64) = 5 ∧
    ((told s).module 0).failed.contains 5 = true ∧ (s.module 0).failed.contains 5 = false ∧
    ((aft (.fcolcfg 0 0x50004001) s).module 0).fcolCode = 1 ∧ ((aft (.fcolcfg 0 0x50004000) (colS (2 ^ 511) fst)).module 0).fcolCode = 2 ∧
    ((aft (.fcolcfg 0 0x50004000) (told s)).module 0).fcolCode = 4 ∧ (aft (.fcolcfg 0 0x50004000) s).net.map (·.dest) = [1029] ∧
    ((aft (.fcolcfg 0 0x50004000) i).module 0).fcolLost = true := by decide +kernel

theorem witness_CollectiveConfiguration_switch :
    let p := fcp (colD 2)
    let i (s : State) : State := withMod (fun m => { m with fcol := some 5 }) s
    let busy := obj 1 3 0 { stored := [con 0] } fst
    (inn p (i fst)).arriving 1 = some p ∧ (inn p (i fst)).toDead p = false ∧ (inn p (i fst)).toLost p = false ∧ p.sw = 5 ∧
    (inn p (i (told fst))).toLost p = true ∧ (SMap.getD ((inn p (i busy)).switch 5).objects 5 {}).busy = true ∧
    (SMap.getD ((inn p (i fst)).switch 5).objects 5 {}).busy = false ∧ ((aft (.firnFcfg 1) (inn p (i busy))).module 0).fcolCode = 3 ∧
    ((aft (.firnFcfg 1) (inn p (i (told fst)))).module 0).fcolCode = 4 ∧ SMap.has ((aft (.firnFcfg 1) (inn p (i fst))).switch 5).objects 5 = true ∧
    SMap.has ((aft (.firnFcfg 1) (inn (fcp 0) (i (obj 2 3 2 {} fst)))).switch 5).objects 5 = false := by decide +kernel

theorem witness_FirnBarriers :
    let s (o : FabricObj) : State := inn (tp 17) (obj 2 3 2 o fst)
    let rel : Packet := { tp 21 with dest := 0, from_ := 1029, aux := 77 }
    let w := (withTh (fun t => { t with wait := .fbarrier 5 4 }) fst).setHubBarrier 0 5 { arrivals := 1, sent := 5, released := 4 }
    (s {}).arriving 1 = some (tp 17) ∧ (tp 17).sw = 5 ∧ (s {}).toLost (tp 17) = false ∧ (s {}).toDead (tp 17) = false ∧
    colPmask (SMap.getD ((s {}).switch 5).objects 5 {}).desc.toNat = 3 ∧ (inn rel w).arriving 1 = some rel ∧ (inn rel w).threads.Ok ∧
    ((inn rel w).thr 0).wait = .fbarrier 5 ((inn rel w).hubBarrier 0 5).released ∧ (inn (tp 11) (obj 2 3 2 {} fst)).arriving 1 = some (tp 11) ∧
    (aft (.firnFbarr 1) (s {})).net.map (·.kind) = [30] ∧ (aft (.firnFbarr 1) (s { reported := [1] })).net.map (·.dest) = [0, 0, 1] ∧
    (aft (.firnFbrel 1) (inn rel w)).me.pc = 0x1004 ∧ (aft (.firnFbpoll 1) (inn (tp 11) (obj 2 3 2 { number := 6, reported := [1] } fst))).net.map (·.payload)
      = [[], leBytes 8 0x600010000] ∧ (aft (.firnFbpoll 1) (inn (tp 11) fst)).net.map (·.payload) = [[], leBytes 8 (2 ^ 64 - 1)] := by
  unfold SMap.Ok; decide +kernel

theorem witness_FirnReplies :
    let rd : Packet := { pk 12 with dest := 0, from_ := 1029, addr := 64, payload := leBytes 4 0x12345678 }
    let ak : Packet := { pk 13 with dest := 0, from_ := 1029, payload := leBytes 8 0x12345678, va := 999 }
    let f (fin : Finish) : State := withTh (fun t => { t with wait := .fabric 37 1 [] none fin, posted := 3 }) fst
    let nk : Packet := { pk 14 with dest := 0, from_ := 1029, seq := 3 }
    let n : State := { fst with net := [{ pk 0 with seq := 3, stomped := true }, nk] }
    (inn rd (f (.load 6 [64, 65, 66, 67] false))).arriving 1 = some rd ∧ rd.status = 0 ∧ [64, 65, 66, 67] = (List.range rd.payload.length).map (rd.addr + ·) ∧
    rd.payload.length ≤ 8 ∧ (inn ak (f (.scalar 6))).arriving 1 = some ak ∧ ak.payload.length = 8 ∧ ak.posted = false ∧ ak.held = false ∧
    ((inn ak (f (.scalar 6))).thr 0).live = true ∧ ((inn ak (f (.scalar 6))).thr 0).run.active = false ∧ n.arriving 1 = some nk ∧
    (n.net.eraseIdx 1)[0]? = some { pk 0 with seq := 3, stomped := true } ∧ fst.net = [] ∧ (inn (pk 0) fst).net[1]? = some (pk 0) ∧ (pk 0).stomped = false ∧
    (aft (.firnRdata 1 7) (inn rd (f (.load 6 [64, 65, 66, 67] false)))).sr 6 = 0x12345678 ∧ (aft (.firnAck 1 7) (inn ak (f (.scalar 6)))).sr 6 = 0x12345678 ∧
    (aft (.firnAck 1 7) (inn { ak with status := 4 } (f (.scalar 6)))).me.wait = .trapped ∧
    (aft (.firnAck 1 7) (inn { ak with status := 4, posted := true } (f (.scalar 6)))).me.posted = 2 ∧
    ((aft (.firnAck 1 7) (inn { ak with status := 4, posted := true } (f (.scalar 6)))).me.postedErr.map (·.1)) = some 4 ∧
    (aft (.firnNak 1) n).net.map (·.stomped) = [false] ∧ (aft (.stompedPacket 1) (inn (pk 0) fst)).net.map (·.kind) = [30, 0, 14] := by decide +kernel

/-- The answer to an MGRANT for entry 20: the entry is written, waits for its line, or is left alone where the answer is a refusal. -/
theorem witness_FirnReplies_grant :
    let w : Word := BitVec.ofNat 64 (3 + 20 * 2 ^ 28)
    let g (a : Nat) : Packet := { pk 13 with dest := 0, from_ := 1029, payload := leBytes 8 a }
    let f (p : Packet) (s : State := fst) : State := inn p (withTh (fun t => { t with wait := .fabric 63 1 [] none (.grant 6 w) }) s)
    let loc := 0x00400000 + 64 * 20
    let s := f (g (5 * 2 ^ 37))
    s.arriving 1 = some (g (5 * 2 ^ 37)) ∧ (s.thr 0).live = true ∧ (s.thr 0).wait = .fabric 63 1 [] none (.grant 6 w) ∧ s.entryLoc 0 (bits w.toNat 35 28) = loc ∧
    lineOf loc ∉ s.xlines ∧ lineOf (loc + 63) ∉ s.xlines ∧ s.dirQueue = [] ∧ s.MemoryOk ∧ (∀ j, j < 64 → SameKey s 0 (loc + j)) ∧
    5 * 2 ^ 37 < 2 ^ 64 - 3 ∧ (aft (.firnAck 1 0) s).sr 6 = 5 * 2 ^ 37 ∧ (aft (.firnAck 1 0) s).num loc 64 = grantEntry w.toNat (5 * 2 ^ 37) ∧
    (let x := f (g (5 * 2 ^ 37)) { fst with xlines := [lineOf loc] }
     lineOf loc ∈ x.xlines ∧ (aft (.firnAck 1 0) x).net = x.net) ∧
    (aft (.firnAck 1 0) (f (g (2 ^ 64 - 3)))).sr 6 = BitVec.ofNat 64 (2 ^ 64 - 3) ∧ (aft (.firnAck 1 0) (f (g (2 ^ 64 - 3)))).mem = fst.mem := by
  unfold State.MemoryOk SameKey; decide +kernel

theorem witness_FirnReplies_grant_runs (m : Nat) :
    (inn { pk 13 with dest := 0, from_ := 1029, payload := leBytes 8 (5 * 2 ^ 37) }
      (withTh (fun t => { t with wait := .fabric 63 1 [] none (.grant 6 (BitVec.ofNat 64 (3 + 20 * 2 ^ 28))) }) fst)).holders m = [] :=
  no_holders_of (by decide +kernel) (by decide +kernel) m

/-- A SEND to mailbox 6 of core 3, from module 0 or from module 1, and what core 3 holds. -/
def sd (m : Nat) : Packet := { pk 4 with dest := 0, from_ := m, addr := 3, aux := 6, payload := leBytes 8 0xABC }
def sdSt (m : Nat) (c : Core) : State := inn (sd m) ((withTh (fun t => { t with wait := .send }) fst).setCore 3 { c with resident := some 0 })
def fullCore : Core := { present := 64, inbound := (List.range 16).map fun i => (i, 5) }

theorem witness_FirnSend :
    (sdSt 0 {}).arriving 1 = some (sd 0) ∧ (sd 0).from_ = (sd 0).dest ∧ (sd 1).from_ ≠ (sd 1).dest ∧ (sdSt 0 {}).present.contains 0 = true ∧
    (sdSt 0 {}).mailAllowed 3 0 = true ∧ (inn (sd 0) fst).mailAllowed 3 0 = false ∧ (sdSt 0 fullCore).mailRoom 3 6 = false ∧ (sdSt 0 {}).mailRoom 3 6 = true ∧
    ((sdSt 0 {}).thr 0).wait = .send ∧ ((sdSt 0 {}).thr 0).live = true ∧ (sd 0).held = false ∧ (sdSt 0 {}).receiver 3 6 = none ∧
    ((sdSt 0 {}).core 3).present.getLsbD 6 = false ∧ (sd 0).aux < 32 ∧ ((sdSt 0 { present := 64 }).core 3).present.getLsbD 6 = true ∧
    ((sdSt 0 {}).thr 0).run.active = false ∧ SMap.getD ((aft (.mailboxArrival 1) (sdSt 0 {})).core 3).mail 6 0 = 0xABC ∧
    (aft (.mailboxArrival 1) (sdSt 0 {})).me.pc = 0x1004 ∧ ((aft (.mailboxArrival 1) (sdSt 0 { present := 64 })).core 3).inbound = [(6, 0xABC)] ∧
    (aft (.mailboxArrival 1) (sdSt 0 fullCore)).me.wait = .send ∧ (aft (.firnSend 1) (sdSt 1 {})).net.map (·.kind) = [30, 13] ∧
    (aft (.firnSend 1) (inn (sd 1) fst)).net.map (·.status) = [0, causeREMOTE] ∧
    (aft (.mailboxArrival 1) (inn (sd 0) (withTh (fun t => { t with wait := .send }) fst))).me.wait = .trapped ∧ (sd 0).gate = false ∧
    (let p : Packet := { sd 0 with gate := true }
     let s := inn p (withTh (fun t => { t with wait := .send, posted := 1 }) fst)
     s.arriving 1 = some p ∧ s.releaseStatus 0 true = .wait ∧ (aft (.mailboxArrival 1) s).me.wait = .send) := by decide +kernel

/-- A packet of each collective kind at a switch that serves it. -/
theorem witness_CollectivePackets :
    let ok (s : State) (p : Packet) : Prop := (inn p s).arriving 1 = some p ∧ (inn p s).toDead p = false ∧ (inn p s).toLost p = false
    let r := redO {} fst
    let d := (SMap.getD (r.switch 5).objects 5 {}).desc.toNat
    let res : Packet := { tp 20 with from_ := 1029, dest := 0, payload := leBytes 8 32 ++ leBytes 4 0x04030201 }
    let rel : Packet := { tp 21 with dest := 0, from_ := 1029 }
    let ack : Packet := { cfr 16 with from_ := 1029, dest := 0, aux := 1 }
    let mca : Packet := { tp 22 with dest := 0, from_ := 1029 }
    let m := withCl (fun c => { c with copies := [{ thread := 0, tag := 5, sent := true, multicast := true }] }) fst
    ok fst (tp 8) ∧ ok fst (tp 9) ∧ threadModule (tp 8).thread = (tp 8).from_ ∧ ok fst (fcp (colD 2)) ∧ (fcp (colD 2)).sw = 5 ∧
    (SMap.getD (fst.switch 5).objects 5 {}).busy = false ∧ ok fst (tp 11) ∧ ok r (cfr 15) ∧ (cfr 15).sw = 5 ∧ colKind d = 1 ∧ colCtx d = (cfr 15).ctx ∧
    (colPmask d).testBit 0 = true ∧ (cfr 15).opc = colOp d ∧ (cfr 15).aux + 1 = colNreg d ∧ (1 < 72 ∧ (colPmask d).testBit 1 = true) ∧
    ok (withTh (fun t => { t with wait := .fred 5 }) fst) ack ∧ ack.status = 0 ∧ ok (obj 2 3 2 {} fst) (tp 17) ∧ (tp 17).sw = 5 ∧
    ok (redO { waiting := [con 0] } fst) (cfr 18) ∧ (con 0).module = (cfr 18).from_ ∧ (con 0).thread = (cfr 18).thread ∧
    ok (subs [sub5] fst) (mcp true) ∧ ok (subs [sub5] fst) res ∧ (inn res (subs [sub5] fst)).subscribers 5 ((inn res (subs [sub5] fst)).tagModules (res.sw / 16) 5) = [sub5] ∧
    isOk ((inn res (subs [sub5] fst)).receive res sub5) = true ∧ ok fst rel ∧ ok m mca ∧ (m.cluster 0).copies.length = 1 ∧
    (aft (.firnMcack 1) (inn mca m)).net.map (·.kind) = [30] ∧ ((aft (.firnMcack 1) (inn mca m)).cluster 0).copies = [] := by decide +kernel

theorem witness_CollectiveIsAsked :
    let s := colS (colD 2) fst
    (s.module 0).fcol = none ∧ 0x50004000 < 2 ^ 52 ∧ inHbm 0x50004000 = true ∧ colOk (s.num (locOf 0 0x50004000) 64) = true ∧
    (s.module 0).failed.contains (0 / 72 * 16 + colObj (s.num (locOf 0 0x50004000) 64) % 16) = false ∧
    (aft (.fcolcfg 0 0x50004000) s).net.map (fun p => (p.kind, p.dest)) = [(10, 1029)] := by decide +kernel

theorem witness_SwitchFailure :
    let p := fst.setSwitch 5 { fst.switch 5 with pages := [(3, { bank := 9, primary := 5 })] }
    let f := withTh (fun t => { t with wait := .fred 5 }) (dead fst)
    ((told fst).module 0).failed.contains 5 = true ∧ (p.module 0).failed.contains 5 = false ∧ (p.switch 5).failed = false ∧ (p.switch 5).pages.Ok ∧
    SMap.get? (p.switch 5).pages 3 = some { bank := 9, primary := 5 } ∧ (f.switch 5).failed = true ∧ f.threads.Ok ∧ (f.thr 0).live = true ∧
    (f.thr 0).wait = .fred 5 ∧ threadModule 0 = 0 ∧ (f.threads.all fun e => !e.2.run.active && !e.2.run.ordered) = true ∧
    SMap.has ((aft (.firnSwfail 0 5) p).switch 5).lost 3 = true ∧ (aft (.firnSwfail 0 5) f).me.wait = .trapped ∧
    ((aft (.switchReplacement 5) (told (dead fst))).switch 5).failed = false ∧ ((aft (.switchReplacement 5) (told (dead fst))).module 0).failed = [] := by
  unfold SMap.Ok; decide +kernel

/-- A page lost with its switch is told of once the switch is replaced. -/
theorem witness_SwitchFailure_lost :
    let p := fst.setSwitch 5 { fst.switch 5 with pages := [(3, { bank := 9, primary := 5 })] }
    let f := aft (.firnSwfail 0 5) p
    (f.switch 5).lost = [(3, { bank := 9, primary := 5, lostAt := some 5 })] ∧ (p.switch 6).pages = [] ∧
    ((aft (.switchReplacement 5) f).switch 5).lost = [(3, { bank := 9, primary := 5, lostAt := none })] := by decide +kernel


/-! ### System instructions, records and their resolution (chapters 04, 08, 21) -/

/-- Slot 1 of the CCC of cluster 0, in supervisor mode; its TSEL names the record of thread 0. -/
def ccc : Thread := { live := true, pc := 0x4000, super := true, tsel := threadHandle 0, sreg := [(1, 5), (2, 9)] }

/-- The CCC's thread issues; thread 0 is trapped. -/
def sup (rs : List Record) (s : State := mst) : State :=
  { (s.setThr 0 { s.thr 0 with wait := .trapped, dslot := 5 }).setThr (cccBase + 1) ccc with cur := cccBase + 1, records := rs }

/-- The same in user mode, acting for region 0. -/
def usr (s : State) : State := withTh (fun t => { t with super := false, cctx := 0x1000000 }) s

/-- A record of a thread or an engine, and the one of thread 0 in the trap queue. -/
def rc (h : BitVec 64) (c : Nat) (p : Place) : Record := { handle := h, cause := c, tpc := 0x1000, tval := 77, tnpc := 0x1004, place := p }
def r0 : Record := rc (threadHandle 0) 5 (.queue false)

theorem test_csr :
    (aft (.csrr 6 0x001) (aft (.csrw 3 0x001) st)).sr 6 = 0x1D ∧ (aft (.csrr 6 0x01F) (aft (.csrw 3 0x01F) st)).sr 6 = 0xFFFFFFFFFFFFFFFD ∧
    (aft (.csrr 6 0x004) (inTx st)).sr 6 = 2 ^ 19 ∧ (aft (.csrr 6 0x802) (sup [r0])).sr 6 = 5 ∧ (aft (.csrr 6 0x803) (sup [r0])).sr 6 = 0x1000 ∧
    (aft (.csrr 6 0x805) (sup [])).sr 6 = 0 ∧ (aft (.csrr 6 0x812) (aft (.csrw 2 0x812) (withS [(2, 2 ^ 64 - 1)] (sup [])))).sr 6 = 0x000FFFFFFFFFF000 := by
  decide +kernel

theorem witness_SupervisorCsrs :
    (sup [r0]).supervisor (sup [r0]).cur = true ∧ (sup []).tselRecord (sup []).cur = none ∧ (sup [r0]).tselRecord (sup [r0]).cur = some r0 ∧
    (aft (.csrw 2 0x804) (sup [r0])).records.map (·.tnpc) = [9] := by decide +kernel

theorem witness_PrivilegeTraps :
    (usr (sup [])).supervisor (usr (sup [])).cur = false ∧ NoRun (usr (sup [])) ∧ st.supervisor st.cur = false ∧ (0x800#12 ≤ 0x800#12) ∧
    (aft (.csrr 6 0x800) (usr (sup []))).records.map (·.cause) = [causePRIV] ∧ (aft .wfi st).records.map (·.cause) = [causePRIV] := by
  unfold NoRun; decide +kernel

theorem witness_ComputeCoreOnly :
    isCcc st.cur = false ∧ isCcc (sup []).cur = true ∧ NoRun (sup []) ∧ (aft (.mpoll 6) (sup [])).records.map (·.cause) = [causeILLEGAL] := by
  unfold NoRun; decide +kernel

/-- Debug is enabled on core 0. -/
def dbgOn (s : State) : State := withCore (fun c => { c with dbg := { en := true } }) s

theorem witness_TrapInstructions :
    NoRun st ∧ NoRun (sup []) ∧ isCcc (sup []).cur = true ∧ (st.core 0).dbg.en = false ∧ isCcc st.cur = false ∧ ((dbgOn st).core 0).dbg.en = true ∧
    ((dbgOn st).core 0).dbg.stopped = false ∧ (aft .ecall st).records.map (fun r => (r.cause, r.tpc, r.tnpc)) = [(causeECALL, 0x1000, 0x1004)] ∧
    (aft .illegal st).records.map (·.tnpc) = [0x1000] ∧ ((aft .ebreak (dbgOn st)).core 0).dbg.stopped = true ∧
    InTransaction (dbgOn (inTx st)) ∧ (aft .ebreak (dbgOn (inTx st))).me.pc = 0x2000 ∧ ((aft .ebreak (dbgOn (inTx st))).core 0).dbg.cause = 2 ∧ (aft .ebreak st).me.wait = .trapped := by
  unfold NoRun InTransaction; decide +kernel

theorem test_counters :
    (aft (.rdtime 6) { st with time := 3 * tickUnits }).sr 6 = 3 ∧ (aft (.rdcycle 6) (st.setDie 0 { halted := true, cycles := 7 })).sr 6 = 7 ∧
    (aft (.rdinsn 6) (withTh (fun t => { t with insn := 8 }) st)).sr 6 = 8 := by decide +kernel

theorem witness_TrapQueueReads :
    let x := rc (threadHandle 1) 5 (.queue true)
    (sup []).supervisor (sup []).cur = true ∧ (sup [x, r0]).records = [x] ++ r0 :: [] ∧ (∀ y ∈ [x], ¬(y.place = .queue false ∧ handleId y.handle / 8 = 0)) ∧
    r0.place = .queue false ∧ handleId r0.handle / 8 = 0 ∧ (∀ y ∈ [x] ++ [], y.handle ≠ r0.handle) ∧ threadCluster (sup []).cur = 0 ∧
    (aft (.tq 6) (sup [x, r0])).sr 6 = threadHandle 0 ∧ (aft (.tq 6) (sup [x])).sr 6 = 0 ∧
    (aft (.tq 6) (sup [x, r0])).records.map (·.place) = [.queue true, .queue true] := by decide +kernel

/-- TXIDX selects a class and an index. -/
def tx (c k : Nat) (s : State) : State := withTh (fun t => { t with txidx := BitVec.ofNat 64 (c * 2 ^ 20 + k) }) s

theorem witness_SelectedState :
    let s := sup [r0]
    s.supervisor s.cur = true ∧ NoRun s ∧ ((sup []).tselRecord (sup []).cur).all (fun r => decide (handleKind r.handle ≠ 1)) = true ∧
    s.tselRecord s.cur = some r0 ∧ handleThread r0.handle = 0 ∧ handleKind r0.handle = 1 ∧ (s.core 0).locks = [] ∧ s.badRegs = [] ∧ s.badAccs = [] ∧
    (tx 3 2047 s).me.txidx.toNat / 2 ^ 20 % 16 = 3 ∧ 2047 < 32 * winSize 0 (s.thr 0) ∧ 511 < 256 * (s.thr 0).tiles.length ∧ isUserCsr 4 = true ∧ isUserCsr 5 = false ∧
    (aft (.txdata false 6) (tx 0 1 s)).sr 6 = 5 ∧ (aft (.txdata false 6) (tx 1 0 s)).sr 6 = 0xFFFFFFFF ∧ ((aft (.txdata true 2) (tx 0 63 s)).thr 0).s 63 = 9 ∧
    ((aft (.txdata true 2) (tx 0 0 s)).thr 0).s 0 = 0 ∧ (aft (.txdata false 6) (tx 0 64 s)).me.wait = .trapped ∧
    ((aft (.txdata true 2) (tx 5 1 s)).thr 0).fflags = 9 ∧ lane ((aft (.txdata true 2) (tx 3 2047 s)).vecAt 0 63) 31 = 9 ∧
    elemOf ((aft (.txdata true 2) (tx 4 511 s)).tileAt 0 1) 255 = 9 ∧ (aft (.txdata false 6) (tx 6 0 s)).me.wait = .trapped ∧
    (aft (.csrr 6 0x807) (sup [])).me.wait = .trapped := by
  unfold NoRun; decide +kernel

theorem witness_SelectedState_writes :
    let s := sup [r0]
    (tx 0 64 s).me.txidx.toNat % 2 ^ 20 = 64 ∧ NoRun (tx 0 64 s) ∧ (aft (.csrw 2 0x807) (tx 0 64 s)).me.wait = .trapped ∧
    (aft (.csrw 2 0x807) (tx 5 5 s)).me.wait = .trapped ∧ (aft (.txdata true 2) (tx 6 0 s)).records.map (·.cause) = [5, causeILLEGAL] ∧
    (aft (.csrw 2 0x807) (tx 4 511 s)).me.wait = .ready := by unfold NoRun; decide +kernel

/-- The value written to TRES. -/
def res (v : BitVec 64) (s : State) : State := withTh (fun t => { t with sreg := [(1, v)] }) s

theorem witness_ResolutionChecks :
    let u := usr (sup [r0])
    NoRun u ∧ u.supervisor u.cur = false ∧ (threadHandle 0).toNat / 2 ^ 60 = 1 ∧ (threadHandle 0 + 3).toNat % 4 = 3 ∧
    (threadHandle 0).toNat / 2 ^ 50 % 2 ^ 10 = threadModule u.cur ∧ (threadHandle (16 * 1024)).toNat / 2 ^ 50 % 2 ^ 10 ≠ threadModule u.cur ∧
    (mkHandle 6 0 0 0 0 0).toNat / 2 ^ 60 = 6 ∧ u.findRecord (threadHandle 0 &&& ~~~3#64) = some r0 ∧
    (usr (sup [{ r0 with region := 9 }])).mayReach u.cur 9 = false ∧
    (aft (.csrw 1 0x003) (res 0 u)).records.map (·.cause) = [5, causeILLEGAL] ∧ (aft (.csrw 1 0x003) (res (threadHandle 0 + 3) u)).records.map (·.cause) = [5, causePRIV] ∧
    (aft (.csrw 1 0x003) (res (threadHandle (16 * 1024)) u)).records.map (·.cause) = [5, causeREMOTE] ∧
    (aft (.csrw 1 0x003) (res (threadHandle 0) (usr (sup [{ r0 with region := 9 }])))).records.map (·.cause) = [5, causeREMOTE] := by
  unfold NoRun; decide +kernel

theorem witness_ResolutionWrites :
    let s := res (threadHandle 0) (sup [r0])
    NoRun s ∧ Settled s ∧ (s.sr 1 &&& ~~~3#64) = threadHandle 0 ∧ s.findRecord (threadHandle 0) = some r0 ∧ (sup []).findRecord (threadHandle 0) = none ∧
    s.supervisor s.cur = true ∧ (threadHandle 0).toNat / 2 ^ 24 % 4 < 2 ∧ (threadHandle 0).toNat / 4 % 2 ^ 22 = 0 ∧ (sup []).findRecord (sup []).me.tsel = none ∧
    ((aft (.csrw 1 0x003) s).thr 0).pc = 0x1004 ∧ ((aft .tret s).thr 0).pc = 0x1004 ∧ (aft .tret s).records = [] ∧
    (let far := rc (threadHandle (16 * 1024)) 5 .fresh
     let u := withTh (fun t => { t with tsel := far.handle }) (sup [far])
     u.findRecord u.me.tsel = some far ∧ handleId u.me.tsel / 1024 ≠ threadModule u.cur ∧ (aft .tret u).records.map (·.cause) = [5, causeREMOTE]) ∧
    handleId s.me.tsel / 1024 = threadModule s.cur ∧
    (aft (.csrw 1 0x003) (res (threadHandle 0 + 3) (sup [r0]))).records.map (·.place) = [.chain (some 0)] := by
  unfold NoRun Settled; decide +kernel

/-- Records of kinds 2 to 5 of core 0, cluster 0 and its slot 3. -/
def hk (k : Nat) : BitVec 64 := mkHandle k 0 0 (if k = 3 ∨ k = 4 then 3 else 0) 0 0
def recs : List Record :=
  [r0, rc (hk 2) 5 .fresh, rc (hk 3) 8 (.chain (some 1)), rc (hk 4) 6 (.handler 0), rc (hk 5) 13 .fresh, rc (threadHandle cccBase) 5 .fresh]
def resSt : State :=
  (withCore (fun c => { c with sideLog := [{ logEntry with recorded := true }, logEntry] }) (withCl (fun c => { c with
    tasks := [(3, { state := .ready, heldBack := true, stagingFault := true }), (5, { state := .dispatched, thread := 0 })] })
    ((sup recs).setThr cccBase { ccc with wait := .trapped })))

theorem witness_Resolutions :
    resSt.findRecord (hk 6) = none ∧ resSt.findRecord (threadHandle 0) = some r0 ∧ handleKind (threadHandle 0) = 1 ∧ isCcc 0 = false ∧
    resSt.findRecord (threadHandle cccBase) = some (rc (threadHandle cccBase) 5 .fresh) ∧ isCcc (handleThread (threadHandle cccBase)) = true ∧
    (resSt.task (resSt.thr 0).slice (resSt.thr 0).dslot).state = .dispatched ∧ (resSt.task (resSt.thr 0).slice (resSt.thr 0).dslot).thread = 0 ∧
    resSt.childrenOf 0 5 = [] ∧ handleKind (hk 2) = 2 ∧ (resSt.core 0).sideLog = { logEntry with recorded := true } :: [logEntry] ∧ logEntry.stream = none ∧
    handleKind (hk 3) = 3 ∧ handleKind (hk 4) = 4 ∧ resSt.childrenOf 0 3 = [] ∧ handleKind (hk 5) = 5 ∧ (resSt.findRecord (hk 4)).map (·.place) = some (.handler 0) ∧
    ((aft (.tresSkip (threadHandle 0)) resSt).thr 0).pc = 0x1004 ∧ ((aft (.tresDiscard (threadHandle 0)) resSt).thr 0).live = false ∧
    ((aft (.tresResume (hk 2)) resSt).core 0).sideLog = [logEntry, logEntry] ∧ ((aft (.tresSkip (hk 2)) resSt).core 0).sideLog = [logEntry] ∧
    ((aft (.tresResume (hk 3)) resSt).task 0 3).stagingFault = false ∧ ((aft (.tresResume (hk 4)) resSt).task 0 3).heldBack = false ∧
    SMap.has ((aft (.tresDiscard (hk 4)) resSt).cluster 0).tasks 3 = false ∧ (aft (.tresSkip (hk 5)) resSt).records.length = 5 ∧
    ((aft (.tresForward (hk 4)) resSt).findRecord (hk 4)).map (·.place) = some (.chain none) ∧
    ((aft (.tresDiscard (threadHandle cccBase)) resSt).thr cccBase).live = false := by decide +kernel

theorem witness_TrapQueueEntry :
    let f := rc (threadHandle 0) causePAGE .fresh
    let e := rc (hk 2) causePAGE .fresh
    let many : List Record := (List.range 64).map fun i => rc (mkHandle 2 0 0 0 0 (i + 1)) causePAGE (.queue true)
    (sup [f]).findRecord (threadHandle 0) = some f ∧ f.place = .fresh ∧ (sup []).findRecord (threadHandle 0) = none ∧
    (sup (e :: many)).findRecord (hk 2) = some e ∧ ((sup (e :: many)).records.filter fun q =>
      decide ((q.place = .queue false ∨ q.place = .queue true) ∧ handleId q.handle / 8 = 0 ∧ handleKind q.handle ≠ 1)).length = 64 ∧
    (aft (.trapQueueEntry (threadHandle 0)) (sup [f])).records.map (·.place) = [.queue false] ∧ aft (.trapQueueEntry (hk 2)) (sup (e :: many)) = sup (e :: many) := by
  decide +kernel

/-- Regions 0 and 1 with handlers at 0x5000_6000 and 0x5000_6100 for the causes of their masks. -/
def handSt (h0 m0 h1 m1 : Nat) (r : Record) : State :=
  let s := sup [r]
  { s.setModule 0 { s.module 0 with regions := [(0, { reg with eff := BitVec.ofNat 2048 (rcb + up 320 h0 + up 384 m0) }),
      (1, { reg with eff := BitVec.ofNat 2048 (rcb + up 320 h1 + up 384 m1), parent := some 0 })] } with
    mem := Memory.setAll s.mem (cellsAt 0x50006000 (leBytes 64 (descOf 0 false)) ++ cellsAt 0x50006100 (leBytes 64 (descOf 1 false))) }

/-- A record of thread 0 with the cause ALIGN that has just arisen in a region. -/
def fresh (q : Nat) : Record := { rc (threadHandle 0) causeALIGN .fresh with region := q }

theorem witness_HandlerEntry :
    let bit := 2 ^ causeALIGN
    let s := handSt 0x50006000 bit 0x50006100 bit (fresh 1)
    let t := handSt 0x50006000 bit 0 0 (fresh 1)
    let z := handSt 0 0 0 0 (fresh 0)
    (sup []).findRecord (threadHandle 0) = none ∧ s.findRecord (threadHandle 0) = some (fresh 1) ∧ (fresh 1).cause ≠ causePAGE ∧ (fresh 1).cause ≠ causeASSIST ∧
    (fresh 1).cause ≠ causeECALL ∧ (s.records.find? fun q => q.walkFrom.isSome && decide (handleId q.handle / 8 = 0 ∧ q.region ≠ noRegion)) = some (fresh 1) ∧
    handles s 0 1 causeALIGN = true ∧ s.freeSlot 0 = some 0 ∧ handles t 0 1 causeALIGN = false ∧ (t.region 0 1).parent = some 0 ∧ handles t 0 0 causeALIGN = true ∧
    handles z 0 0 causeALIGN = false ∧ (z.region 0 0).parent = none ∧ SMap.has (z.module 0).regions 0 = true ∧ z.findRecord (threadHandle 0) = some (fresh 0) := by
  decide +kernel

theorem test_handler_entry :
    let bit := 2 ^ causeALIGN
    let s := handSt 0x50006000 bit 0x50006100 bit (fresh 1)
    let z := handSt 0 0 0 0 (fresh 0)
    (aft (.handlerEntry (threadHandle 0)) s).records.map (·.place) = [.handler 1] ∧ dArg ((aft (.handlerEntry (threadHandle 0)) s).task 0 0).desc 3 = 77 ∧
    dArg ((aft (.handlerEntry (threadHandle 0)) s).task 0 0).desc 1 = causeALIGN + 0x0101 * 2 ^ 8 + 2 ^ 24 ∧
    ((aft (.handlerEntry (threadHandle 0)) z).module 0).regions = [] ∧ (aft (.handlerEntry (threadHandle 0)) z).records = [] := by decide +kernel

/-- A root with a task fails: the task is aborted, and the region runs on until nothing of it is outstanding. -/
theorem witness_HandlerEntry_fails :
    let z := handSt 0 0 0 0 (fresh 0)
    let k := withCl (fun c => { c with tasks := [(9, { desc := BitVec.ofNat 512 (descOf 0 false), state := .ready })] }) z
    (z.module 0).failing = [] ∧ z.quiet 0 0 = true ∧ z.quiet 0 1 = true ∧ z.images = [] ∧ k.descends 0 256 0 0 = true ∧
    SMap.has (k.cluster 0).tasks 9 = true ∧ dRegion (k.task 0 9).desc = 0 ∧ (k.task 0 9).state ≠ .dispatched ∧
    (let t := aft (.handlerEntry (threadHandle 0)) k
     (t.module 0).failing = [0] ∧ SMap.has (t.module 0).regions 0 = true ∧ SMap.has (t.cluster 0).tasks 9 = false) := by decide +kernel

/-- Nothing holds the line of the STATE of the root that fails. -/
theorem witness_HandlerEntry_clear : HubClear ((State.family (handSt 0 0 0 0 (fresh 0)) 0 0).map fun q => stateLine 0 ((handSt 0 0 0 0 (fresh 0)).region 0 q).rcb)
    (handSt 0 0 0 0 (fresh 0)) :=
  ⟨by decide +kernel, no_holders_of (by decide +kernel) (by decide +kernel), by decide +kernel⟩

/-- TLB entries of contexts 5 and 6 in core 0. -/
def tlbSt (x : Nat) : State :=
  withS [(6, x), (7, 0x1FFF8)] (withCore (fun c => { c with tlb := [{ ctx := 5, va := 0x10000, size := 0x10000 }, { ctx := 5, va := 0x20000, size := 0x10000 }, { ctx := 6, va := 0x10000, size := 0x10000 }] }) (sup []))

theorem witness_TlbInvalidation :
    let s := tlbSt 5
    let w (x : State) : State := x.setThr 3 { th with wait := .tlbinv 0 5 }
    let c := withCl (fun c => { c with copies := [{ accepted := true, ctx := 5 }] }) s
    NoRun s ∧ s.supervisor s.cur = true ∧ Settled s ∧ 3 ≤ ((tlbSt 0x30000).sr 6).toNat / 2 ^ 16 ∧ ((tlbSt 0x2FFFF).sr 6).toNat / 2 ^ 16 < 3 ∧
    ((w s).thr 3).wait = .tlbinv 0 5 ∧ ((w s).thr 3).live = true ∧ (w s).translationsDone 0 0 5 = true ∧ (w c).translationsDone 0 0 5 = false ∧
    ((aft (.tlbinv 6 7) s).core 0).tlb.length = 2 ∧ ((aft (.tlbinv 6 7) (tlbSt 0x10005)).core 0).tlb.length = 1 ∧ ((aft (.tlbinv 6 7) (tlbSt 0x20000)).core 0).tlb = [] ∧
    (aft (.tlbinv 6 7) (tlbSt 0x30000)).me.wait = .trapped ∧ ((aft (.accessResponse 3 0) (w s)).thr 3).wait = .ready := by
  unfold NoRun Settled; decide +kernel

theorem witness_WaitForInterrupt :
    let w (rs : List Record) (n : Nat) : State := withTh (fun t => { t with wait := .wfi n }) (sup rs)
    (sup []).supervisor (sup []).cur = true ∧ (w [] 1).me.wait = .wfi 1 ∧ (w [] 1).me.live = true ∧ ¬ 1 ≤ (w [] 1).time / tickUnits ∧ 0 ≤ (w [] 0).time / tickUnits ∧
    (∃ r ∈ (w [r0] 1).records, (r.place = .queue false ∨ r.place = .queue true) ∧ handleId r.handle / 8 = threadCluster (cccBase + 1)) ∧
    (aft .wfi (sup [])).me.wait = .wfi 1048576 ∧ (aft (.wfiWake (cccBase + 1)) (w [r0] 1)).me.wait = .ready ∧ (aft (.wfiWake (cccBase + 1)) (w [] 1)).me.wait = .wfi 1 := by
  decide +kernel


/-! ### The task scheduler (chapter 02) -/

/-- An RCB: parent, inheritance mask, PRIO (with CEIL 1), number of descriptors, the word at bit 1024 (number, STATE, NUMV), and budgets. -/
def lrcb (par inh prio n w : Nat) : Nat :=
  par + up 64 prio + up 67 1 + up 70 1 + up 86 3 + up 102 1 + up 103 9 + up 128 4 + up 139 16 + up 154 8 + up 160 4096 + up 192 65536
  + up 448 0x00400000 + up 960 inh + up 1024 w + up 1088 0x700000 + up 1152 n

/-- A launch of the RCB at 0x400100 is asked for with the value v of RGNSTART; region 0 runs from the RCB at 0x300000. -/
def lst (v r : Nat) : State :=
  { st with
    modules := [(0, { ready := true, launch := some (BitVec.ofNat 64 v), regions := [(0, reg)] })]
    mem := memOf [(0x400100, 256, r), (0x700000, 64, descOf 1 false), (0x700040, 64, descOf 1 true)] }

theorem witness_LaunchRequest :
    let a := lst 0x400100 0
    let b := withMod (fun m => { m with launch := none }) a
    ((a.module 0).ready = true ∧ (a.module 0).launch = some 0x400100) ∧ ((b.module 0).ready = true ∧ (b.module 0).launch = none) ∧
    (st.module 0).ready = false ∧ ((aft (.rgnstart 0 7) a).module 0).rgnLost = true ∧ ((aft (.rgnstart 0 7) b).module 0).launch = some 7 := by
  decide +kernel

/-- One launch for each check of R28, in the order of the codes 1, 1, 1, 2, 2, 3, 4, 6, 6. -/
theorem witness_LaunchFailures :
    let code (v r : Nat) : Nat := ((aft (.regionLaunch 0) (lst v r)).module 0).rgnCode
    (st.module 0).launch = none ∧ inHbm 0x400100 = true ∧ inHbm 0x20000000000 = true ∧ inHbm (2 ^ 43) = false ∧
    code 0x400101 0 = 1 ∧ code (2 ^ 52) 0 = 1 ∧ code (2 ^ 43) 0 = 1 ∧
    rcbBad (lrcb 0 0 3 2 256) = true ∧ code 0x400100 (lrcb 0 0 3 2 256) = 2 ∧
    rcbBad (lrcb 0 0 0 2 0) = false ∧ code 0x400100 (lrcb 0 0 0 2 0) = 2 ∧
    rcbBad (lrcb 0x310000 0 3 2 0) = false ∧ (lst 0 0).regionAt 0 0x310000 = none ∧ code 0x400100 (lrcb 0x310000 0 3 2 0) = 3 ∧
    rcbBad (lrcb 0 2 3 2 0) = false ∧ code 0x400100 (lrcb 0 2 3 2 0) = 4 ∧
    rcbBad (lrcb 0 0 3 0 0) = false ∧ code 0x400100 (lrcb 0 0 3 0 0) = 6 ∧ code 0x400100 (lrcb 0 0 3 1025 0) = 6 := by decide +kernel

/-- One bit of each reserved field, and one value of each field out of its range. -/
theorem witness_LaunchFailures_fields :
    let base := lrcb 0 0 3 2 0
    let bad : List Nat := [base + up 1216 1, base + up 1186 1, base + up 1035 1, base + up 966 1, base + up 216 1, base + up 178 1, base + up 114 1,
      base + up 1032 1, base + up 1088 1, base + 1, base + up 256 1, base + up 192 8388608, base + up 160 1, base + up 160 131072, base + up 154 32,
      base - up 139 16, base + up 139 16384, base - up 128 4, base + up 128 1024, base + up 448 1, base + up 512 1, base + up 576 1, base + up 640 1,
      base + up 320 1]
    (bad.all fun r => decide (((aft (.regionLaunch 0) (lst 0x400100 r)).module 0).rgnCode = 2)) = true ∧
    (let s := withMod (fun m => { m with regions := [(0, { reg with eff := BitVec.ofNat 2048 (rcb + up 67 1) })] }) (lst 0x400100 (lrcb 0x300000 1 3 2 0))
     s.regionAt 0 0x300000 = some 0 ∧ (s.region 0 0).f 66 64 < (s.region 0 0).f 69 67 ∧ ((aft (.regionLaunch 0) s).module 0).rgnCode = 2) := by
  decide +kernel

theorem witness_LaunchFailures_ranges : ¬rcbOutOfRange (bits (lrcb 0 0 3 2 0)) ∧ rcbOutOfRange (bits (lrcb 0 0 3 2 0 + up 1216 1)) := by
  refine ⟨?_, .inl (by decide +kernel)⟩
  rintro (h | h | h | h | h | h | h | h | h | h | h | h | h | h | h | h | h | h | h | h | h | h) <;> revert h <;> decide +kernel

/-- The codes from 5 to 9, and an engine that holds a line of the RCB. -/
theorem witness_LaunchFailures_resources :
    let code (s : State) : Nat := ((aft (.regionLaunch 0) s).module 0).rgnCode
    let ok := lst 0x400100 (lrcb 0 0 3 2 0)
    let two (s : State) : State := withMod (fun m => { m with regions := m.regions ++ [(1, { rcb := 0x380000 })] }) s
    let wide := withMod (fun m => { m with regions := [(0, { reg with eff := BitVec.ofNat 2048 (rcb - up 192 65536 + up 192 8388608) })] }) ok
    let held : State := { ok with xlines := [lineOf (locOf 0 0x400100)] }
    (ok.region 0 0).f 138 128 < bits (lrcb 0x300000 0 3 2 0 - up 192 65536 + up 128 13) 138 128 ∧
    code (lst 0x400100 (lrcb 0x300000 0 3 2 0 - up 192 65536 + up 128 13)) = 5 ∧ (ok.ancestors 0 256 0) = [0] ∧
    (ok.region 0 0).f 215 192 < ok.csmUse 0 0 + 65536 ∧ code (lst 0x400100 (lrcb 0x300000 0 3 2 0)) = 5 ∧
    dRegion (BitVec.ofNat 512 (ok.num 0x700000 64)) ≠ 2 ∧ code (lst 0x400100 (lrcb 0 0 3 2 (1024 + 2))) = 6 ∧
    dRegion (BitVec.ofNat 512 (ok.num 0x700000 64)) = 1 ∧ SMap.has ((two ok).module 0).regions 1 = true ∧
    ok.countersTaken 0 ((List.range 2).map fun i => (i, BitVec.ofNat 512 (ok.num (0x700000 + 64 * i) 64))) [] = false ∧
    code (two (lst 0x400100 (lrcb 0 0 3 2 (1024 + 1)))) = 7 ∧
    (ok.placement 0 ((List.range 2).map fun i => (i, BitVec.ofNat 512 (ok.num (0x700000 + 64 * i) 64)))).isSome = true ∧
    dCntv (BitVec.ofNat 512 (ok.num 0x700040 64)) = true ∧ 0 * 128 + 1 % 128 = 1 ∧ csmBlocks 65536 = 1 ∧
    (∀ b, b < 128 → b ∈ wide.csmTaken 0) ∧ code wide = 9 ∧ lineOf (locOf 0 0x400100) ∈ held.xlines ∧
    (aft (.regionLaunch 0) held).modules = held.modules ∧ SameKey ok 0 (locOf 0 0x400100 + 129) := by
  unfold SameKey; decide +kernel

theorem witness_LaunchFailures_full : 1024 ≤ (((lst 0x400100 (lrcb 0 0 3 2 0)).setCluster 1
    { tasks := (List.range 1024).map fun n => (n, ({} : Task)) }).cluster 1).tasks.length := by
  simp [lst, st, State.setCluster, State.cluster, SMap.set, SMap.getD, SMap.get?]

/-- A list of two descriptors, the second with counter 3: region 1 runs with two tasks. -/
theorem witness_LaunchSucceeds :
    let s := lst 0x400100 (lrcb 0 0 3 2 0)
    (match s.checkLaunch 0 0x400100 with | .ok l => decide (l.num = 1 ∧ l.descs.length = 2) | .error _ => false) = true ∧
    (let t := aft (.regionLaunch 0) s
     (t.module 0).rgnNum = 1 ∧ (t.module 0).rgnCode = 0 ∧ (t.module 0).launch = none ∧ SMap.has (t.module 0).regions 1 = true ∧
     t.num 0x400181 1 % 4 = 1) := by decide +kernel

/-- Nothing holds a line of the launch. -/
theorem witness_LaunchSucceeds_clear (ls : List Nat) : HubClear ls (lst 0x400100 (lrcb 0 0 3 2 0)) :=
  ⟨fun _ _ => by simp [lst, st], no_holders_of (by decide +kernel) (by decide +kernel), rfl⟩

/-- Region 1 with nothing left. -/
def finSt : State :=
  withMod (fun m => { m with
    regions := [(0, reg), (1, { rcb := 0x400100, eff := BitVec.ofNat 2048 (lrcb 0 0 3 2 0) })]
    barriers := [(4, { owner := 1 })] }) st

theorem witness_RegionFinish :
    finSt.finished 0 1 = true ∧ inHbm (finSt.region 0 1).rcb = true ∧
    (let t := aft (.regionFinish 0 1) finSt
     SMap.has (t.module 0).regions 1 = false ∧ t.num 0x400181 1 % 4 = 2 ∧ (t.module 0).msix = [9] ∧ (t.module 0).barriers = []) ∧
    SMap.has (finSt.module 0).regions 2 = false ∧
    (∃ e ∈ ((withMod (fun m => { m with regions := [(1, {}), (2, { parent := some 1 })] }) st).module 0).regions, e.2.parent = some 1) ∧
    (∃ e ∈ (full 1 finSt).clusters, clusterModule e.1 = 0 ∧ ∃ k ∈ e.2.tasks, dRegion k.2.desc = 0) ∧
    (∃ q ∈ (sup [{ r0 with region := 1 }] finSt).records, q.region = 1 ∧ handleId q.handle / 1024 = 0) ∧
    (∃ e ∈ ({ finSt with images := [(4, { region := 1 })] } : State).images, clusterModule e.2.cluster = 0 ∧ e.2.region = 1) ∧
    (withMod (fun m => { m with failing := [1] }) finSt).isFailing 0 1 = true ∧
    (let s := withCl (fun c => { c with commits := [{ owner := { region := 1 } }], copies := [{ region := 1 }], nears := [{ region := 1 }], streams := [(0, { region := 1 })] }) finSt
     ∃ e ∈ s.clusters, clusterModule e.1 = 0 ∧ (∃ k ∈ e.2.commits, k.owner.region = 1) ∧ (∃ k ∈ e.2.copies, k.region = 1) ∧ (∃ k ∈ e.2.nears, k.region = 1) ∧
       ∃ k ∈ e.2.streams, k.2.region = 1 ∧ k.2.ended = false) := by decide +kernel

/-- The line of a finished region's STATE is free, or an engine holds it. -/
theorem witness_RegionFinish_clear : HubClear [stateLine 0 (finSt.region 0 1).rcb] finSt ∧ SameKey finSt 0 (locOf 0 (finSt.region 0 1).rcb + 129) ∧
    (let s : State := { finSt with xlines := [stateLine 0 (finSt.region 0 1).rcb] }
     s.finished 0 1 = true ∧ stateLine 0 (s.region 0 1).rcb ∈ s.xlines ∧ (aft (.regionFinish 0 1) s).modules = s.modules) :=
  ⟨⟨by decide +kernel, no_holders_of (by decide +kernel) (by decide +kernel), by decide +kernel⟩, by unfold SameKey; decide +kernel, by decide +kernel⟩

/-- After boot a launch is asked for; it passes its checks; and a region that is finished. -/
theorem witness_RegionSteps :
    let a := withMod (fun m => { m with launch := none }) (lst 0x400100 (lrcb 0 0 3 2 0))
    let b := aft (.rgnstart 0 0x400100) a
    (a.module 0).ready = true ∧ (a.module 0).launch = none ∧ (b.module 0).launch = some 0x400100 ∧
    (match b.checkLaunch 0 0x400100 with | .ok l => decide (l.num = 1) | .error _ => false) = true ∧ (aft (.regionLaunch 0) b |>.module 0).rgnNum = 1 ∧
    finSt.finished 0 1 = true ∧ inHbm (finSt.region 0 1).rcb = true ∧ SMap.has ((aft (.regionFinish 0 1) finSt).module 0).regions 1 = false := by
  decide +kernel

/-- A task of a region: its class and timestamp, and other fields. -/
def tkOf (q ord ts : Nat) (w : Nat) : Task :=
  { desc := BitVec.ofNat 512 (0x5000 + up 64 ts + up 128 12 + up 384 q + up 392 ord + up 411 3 + up 417 1 + w), state := .ready, readySeq := 7 }

/-- Slice 0 holds tasks of region 0, in slots 0, 1, …; core 0 has windows left. -/
def tksSt (xs : List Task) : State := { withCl (fun c => { c with tasks := (List.range xs.length).map fun i => (i, xs.getD i {}) }) mst with threads := [] }

theorem witness_TaskChoice :
    let s := tksSt [tkOf 0 0 3 0, { tkOf 0 0 2 0 with readySeq := 5 }]
    (tksSt []).dispatchPool 0 = [] ∧ (s.choose 0 (s.dispatchPool 0)).map (·.1) = some 1 := by decide +kernel

/-- A task with a counter and a format word. -/
def dspSt : State := withCnt { status := 9, under := true } (tksSt [tkOf 0 0 3 (up 394 1 + up 395 3)])

theorem witness_TaskDispatch :
    (dspSt.cluster 0).held = none ∧ (tksSt []).dispatchPool 0 = [] ∧
    (match dspSt.choose 0 (dspSt.dispatchPool 0) with
      | some (n, x, _) => decide (n = 0 ∧ (dspSt.cluster 0).orderedHeld.length < 256 ∧ x = dspSt.task 0 n) &&
        (dspSt.firstFit (dRegion x.desc) (dWin x.desc) (dAccn x.desc)
          ((dspSt.coreOrder 0 (dRegion x.desc)).filter fun g => decide ((dspSt.cluster 0).reserved ≠ some g))).isSome
      | none => false) = true ∧
    (let t := aft (.taskDispatch 0) dspSt
     (t.thr 0).live = true ∧ (t.thr 0).pc = 0x5000 ∧ (t.thr 0).s 1 = 12 ∧ (t.thr 0).s 5 = 73 ∧ (t.task 0 0).state = .dispatched) := by
  decide +kernel

/-- An ordered task with no other held in the cluster, and the least ready one for the last place. -/
theorem witness_TaskDispatch_ordered :
    let s := tksSt [tkOf 0 1 3 0]
    let u := tksSt (tkOf 0 1 3 0 :: (List.range 255).map fun i => { tkOf 0 1 (4 + i) 0 with state := .dispatched })
    dOrd (tkOf 0 1 3 0).desc = true ∧ (s.cluster 0).orderedHeld.length < 255 ∧ (s.choose 0 (s.dispatchPool 0)).map (·.1) = some 0 ∧
    (u.cluster 0).orderedHeld.length = 255 ∧
    (∀ e ∈ (u.cluster 0).readyTasks, dOrd e.2.desc = true → orderLt e.2.order (tkOf 0 1 3 0).order = false) ∧
    ((aft (.taskDispatch 0) s).task 0 0).state = .dispatched := by decide +kernel

/-- A thread that waits for tile i of its descriptor, whose field is f, with address s1 = a. -/
def stgSt (i f a : Nat) : State :=
  (withTh (fun t => { t with staging := true, dslot := 2 }) mst).setTask 0 2
    { desc := BitVec.ofNat 512 (0x5000 + up 128 a + up (444 + 17 * i) f), state := .dispatched, staged := i
      captured := some (List.replicate 4 (if f % 2 = 1 then mst.layoutEntry 0 (f / 2 % 256) else 0)) }

/-- An invalid tile, one of an invalid entry, one past the window, one that is read, and the end. -/
theorem witness_TileStaging :
    let idle (s : State) : Bool := !(s.thr 0).live || !(s.thr 0).staging || (s.task 0 2).stagingFault
    let ok (f a : Nat) : Bool :=
      let s := stgSt 0 f a
      let e := s.layoutEntry 0 (f / 2 % 256)
      layValid e && layGrants e 1 && linearFits e a (imageBytes e)
    idle mst = true ∧ idle (stgSt 0 0 0) = false ∧ (stgSt 0 0 0).engineHeld 0 = false ∧
    ((aft (.tileStaging 0) (stgSt 0 0 0)).task 0 2).staged = 1 ∧
    ok (1 + 77 * 2) 0 = false ∧ ((aft (.tileStaging 0) (stgSt 0 (1 + 77 * 2) 0)).task 0 2).stagingFault = true ∧
    ok (1 + 1 * 2 + 63 * 2048) 0 = true ∧ winSize 0 ((stgSt 0 0 0).thr 0) < 16 * 63 + registerImage ((stgSt 0 0 0).layoutEntry 0 1) / 128 ∧
    ((aft (.tileStaging 0) (stgSt 0 (1 + 1 * 2 + 63 * 2048) 0)).task 0 2).stagingFault = true ∧
    registerImage ((stgSt 0 0 0).layoutEntry 0 1) / 128 ≤ winSize 0 ((stgSt 0 0 0).thr 0) ∧
    ((aft (.tileStaging 0) (stgSt 3 0 0)).task 0 2).staged = 4 ∧ ((aft (.tileStaging 0) (stgSt 4 0 0)).thr 0).staging = false := by decide +kernel

/-- Staging begins with the capture of the entries of its tiles. -/
theorem witness_TileStaging_captures :
    let f := 1 + 1 * 2
    let s := (stgSt 0 f 0).setTask 0 2 { (stgSt 0 f 0).task 0 2 with captured := none }
    (s.task 0 2).captured = none ∧ (s.meetEntries { s.agent 0 with unit := 3 } [1]).2 = .ok ∧
    ((s.meetEntries { s.agent 0 with unit := 3 } [1]).1.thr 0).live = true ∧
    ((aft (.tileStaging 0) s).task 0 2).captured = some [mst.layoutEntry 0 1, 0, 0, 0] ∧ ((aft (.tileStaging 0) s).task 0 2).staged = 0 := by decide +kernel

/-- An entry with an uncorrectable byte, and one whose line an engine holds. -/
theorem witness_TileStaging_entries :
    let s := (stgSt 0 3 0).setTask 0 2 { (stgSt 0 3 0).task 0 2 with captured := none }
    let a : Agent := { s.agent 0 with unit := 3 }
    let bad : State := { s with badMem := [0x00400047] }
    let x : State := { s with xlines := [lineOf 0x00400040] }
    (match (bad.meetEntries a [1]).2 with | .bad l => decide (l = 0x00400047) | _ => false) = true ∧ ((bad.meetEntries a [1]).1.thr 0).live = true ∧
    (bad.meetEntries a [1]).1.thr 0 = bad.thr 0 ∧ (aft (.tileStaging 0) bad).records.map (fun r => (r.cause, r.tval)) = [(causeDATA, 0x00400047)] ∧
    (match (x.meetEntries a [1]).2 with | .wait _ => true | _ => false) = true ∧ (x.meetEntries a [1]).1 = x ∧ aft (.tileStaging 0) x = x := by
  decide +kernel

/-- The entry of that tile reads its bytes at once. -/
theorem witness_TileStaging_reads :
    let s := stgSt 0 (1 + 1 * 2) 0
    ((aft (.tileStaging 0) s).task 0 2).staged = 1 ∧ ((aft (.tileStaging 0) s).task 0 2).stagingFault = false := by decide +kernel

/-- Slice 1 has nothing, slice 0 has one task. -/
theorem witness_TaskSteal :
    let s := tksSt [tkOf 0 0 3 0]
    (s.cluster 1).readyTasks.any (fun e => s.placeable 1 e.2) = false ∧ (s.cluster 0).readyTasks.any (fun e => s.placeable 0 e.2) = true ∧
    s.freeSlot 1 = some 0 ∧ (List.range 14).all (fun i => (s.stealable 1 (2 + i)).isNone) = true ∧ s.stealable 1 0 = some (0, tkOf 0 0 3 0) ∧
    (aft (.taskSteal 1) s).task 1 0 = tkOf 0 0 3 0 ∧ SMap.has ((aft (.taskSteal 1) s).cluster 0).tasks 0 = false := by decide +kernel

/-- AGE = 1 from PRIO 3 to CEIL 1, one interval after the task became ready. -/
def ageSt (p : Nat) : State :=
  { tksSt [tkOf 0 0 3 0] with modules := [(0, { regions := [(0, { reg with eff := BitVec.ofNat 2048 (lrcb 0 0 p 0 0) })] })], time := 256 * tickUnits }

theorem witness_AgeingInterval :
    ((ageSt 3).task 0 0).state = .ready ∧ 0 < ((ageSt 3).ticks - 0) / 256 ∧ ((aft (.ageingInterval 0 0) (ageSt 3)).task 0 0).aged = 1 ∧
    (aft (.ageingInterval 0 0) (ageSt 3)).priority 0 ((aft (.ageingInterval 0 0) (ageSt 3)).task 0 0) = 2 ∧
    ((aft (.ageingInterval 0 0) (ageSt 1)).task 0 0).aged = 0 := by decide +kernel

theorem witness_GvtRecompute :
    let a := tksSt [tkOf 0 1 5 0]
    let b := tksSt [{ tkOf 0 1 5 0 with state := .finishedSpeculative }]
    a.orderedTasks 0 = [(0, 0, tkOf 0 1 5 0)] ∧ SMap.has (a.module 0).regions 0 = true ∧ (tkOf 0 1 5 0).state ≠ .finishedSpeculative ∧
    ((aft (.gvtRecompute 0) a).module 0).gvt = [(0, some (tkOf 0 1 5 0).order)] ∧
    b.orderedTasks 0 = [(0, 0, { tkOf 0 1 5 0 with state := .finishedSpeculative })] ∧
    SMap.has ((aft (.gvtRecompute 0) b).cluster 0).tasks 0 = false := by decide +kernel

/-! ### Pre-emption (chapter 21) -/

/-- The supervisor thread of slot 1 issues, slot 2 waits in WFI, and the image address of cluster 0 is a. -/
def preSt (a v : Nat) (s : State) : State :=
  let s := withCl (fun k => { k with preimg := BitVec.ofNat 64 a }) s
  let t := (s.setThr (cccBase + 1) { ccc with sreg := [(2, BitVec.ofNat 64 v)] }).setThr (cccBase + 2) { ccc with wait := .wfi 99 }
  { t with cur := cccBase + 1 }

/-- An image of core 0 at 0x2000000, with a thread of slot 3 in a wait: its s1 is 5, its window of 64 registers holds 0xAB in the first. -/
def imgSt (w : Wait) (q : Nat) : State :=
  let s := preSt 0x2000000 0x8000 { mst with threads := [], cores := [] }
  { s with
    mem := Memory.setAll s.mem (memOf [(0x2000000, 8, 0x445A494D), (0x2000008, 8, 1), (0x2000010, 1, q), (0x2000018, 2, 8), (0x2000D08, 8, 5),
      (0x2000D00 + 8 * 64, 8, 0x1000), (0x2000D00 + 8 * 91, 8, 7 + 64 * 2 ^ 40), (0x2000D00 + 8 * 92, 8, w.words.1), (0x2000D00 + 8 * 93, 8, w.words.2),
      (0x2010000, 1, 0xAB)])
    images := [(1, { core := 0, region := q, threads := [{ slot := 3, dslot := 7, regs := 64 }] })] }

theorem witness_PrectlWrites :
    let s (v : Nat) : State := preSt 0x2000000 v mst
    (s 0).supervisor (s 0).cur = true ∧ threadCluster (s 0).cur = 0 ∧ ((s 0).cluster 0).preBusy = false ∧
    ((s 0).sr 2).getLsbD 15 = false ∧ ((s 0xA000).sr 2).getLsbD 15 = true ∧ ((s 0xA000).sr 2).getLsbD 13 = true ∧ ((s 0x8000).sr 2).getLsbD 13 = false ∧
    ((withCl (fun k => { k with preBusy := true }) (s 0)).cluster 0).preBusy = true ∧
    ((aft (.csrw 2 0x810) (s 0)).cluster 0).preBusy = true := by decide +kernel

theorem witness_SaveDecision :
    let a := preSt 0x2000000 0 (inTx mst)
    let f := preSt 0x2000000 0 (withTh (fun t => { t with wait := .fred 5 }) mst)
    let placed (s : State) : Prop := (s.cluster 0).preimg.toNat % 65536 = 0 ∧ inHbm ((s.cluster 0).preimg.toNat + 0x90000 - 1) = true
    let here (s : State) (p : Thread → Bool) : Bool := s.liveThreads.all fun e => !decide (threadCore e.1 = 0) || p e.2
    (a.core 0).resident = some 0 ∧ locOf 0 0x2000000 = 0x2000000 ∧ placed a ∧ ¬placed (preSt 0x2001000 0 mst) ∧
    here a (fun th => !th.ordered && !th.run.ordered) = true ∧ (a.thr 0).run.active = true ∧ (a.thr 0).wait.inArray = false ∧
    here f (fun th => !th.ordered && !th.run.active) = true ∧ (aft (.preemptSave 0 0) f).net.map (fun p => (p.kind, p.addr, p.dest)) = [(18, 5, 1029)] ∧
    ¬badPrectl 0 ∧ badPrectl 8 ∧ badPrectl 0x10000 ∧ badPrectl 0x2000 ∧
    (let t := aft (.preemptSave 0 0) a
     (t.cluster 0).saving = some (0, false, 0x2000000) ∧ (t.thr 0).run.active = false ∧ (t.thr 0).pc = 0x2000) ∧
    ((aft (.preemptSave 0 8) a).cluster 0).preCode = 1 ∧ ((aft (.preemptSave 0 8) a).thr (cccBase + 2)).wait = .wfi 99 ∧ ((aft (.preemptSave 0 8) a).cluster 0).preBusy = false ∧
    ((aft (.preemptSave 0 0) (preSt 0x2001000 0 mst)).cluster 0).preCode = 1 ∧
    ((aft (.preemptSave 0 0) (preSt 0x2000000 0 { mst with cores := [] })).cluster 0).preCode = 3 := by
  unfold badPrectl; decide +kernel

theorem witness_SaveImage :
    let sv (s : State) : State := withCl (fun k => { k with preBusy := true, saving := some (0, false, 0x2000000) }) s
    let none_ := sv (preSt 0x2000000 0 { mst with cores := [] })
    ((sv mst).core 0).resident = some 0 ∧ (sv mst).drained 0 = true ∧ ((sv mst).threadsOf 0).map (fun e => threadSlot e.1) = [0] ∧
    (none_.core 0).resident = none ∧ (sv (withTh (fun t => { t with wait := .response 3 .none }) mst)).drained 0 = false ∧ (mst.cluster 0).saving = none ∧
    ((aft (.saveImageWrite 0) none_).cluster 0).preBusy = false ∧ inWfi (none_.thr (cccBase + 2)) = true ∧
    ((aft (.saveImageWrite 0) none_).thr (cccBase + 2)).pc = 0x4004 := by decide +kernel

/-- What an image records of thread 0: the header's magic and thread mask, and s2 and PC in the thread's block. -/
theorem test_save_image :
    imageHeader 1 0 0 0 (mst.threadsOf 0) % 2 ^ 64 = 0x445A494D ∧ imageHeader 1 0 0 0 (mst.threadsOf 0) / 2 ^ 192 % 2 ^ 16 = 1 ∧
    (mst.threadBlock 0 (mst.thr 0)).length = 128 ∧ (mst.threadBlock 0 (mst.thr 0)).getD 2 0 = 9 ∧ (mst.threadBlock 0 (mst.thr 0)).getD 64 0 = 0x1000 := by
  decide +kernel

theorem witness_RestoreImage :
    let s := imgSt (.waitw 4 none) 0
    (s.cluster 0).preBusy = false ∧ (s.cluster 0).restoring = none ∧ (s.heldAt 0).map (·.1) = some 1 ∧ s.num (locOf 0 0x2000000) 8 = 0x445A494D ∧
    (s.core 0).resident = none ∧ SMap.has (s.module 0).regions 0 = true ∧ SMap.has (s.module 0).regions 9 = false ∧ ¬badPrectl 0x8000 ∧
    badPrectl 0x8008 ∧ (preSt 0x2000000 0x8000 mst).heldAt 0 = none ∧ (s.cluster 0).streamRoom {} = true ∧
    s.restoreRoom 0 1 { threads := [{ slot := 3, dslot := 7, regs := 64 }] } = true ∧
    s.restoreRoom 0 1 { threads := [{ slot := 3, dslot := 7, regs := 4097 }] } = false ∧
    ((aft (.preemptRestore 0 0x8008) s).cluster 0).preCode = 1 ∧
    ((aft (.preemptRestore 0 0x8000) (s.setCore 0 { resident := some 0 })).cluster 0).preCode = 2 ∧
    ((aft (.preemptRestore 0 0x8000) (imgSt .ready 9)).cluster 0).preCode = 4 ∧
    (let t := aft (.preemptRestore 0 0x8000) s
     (t.thr 3).live = true ∧ (t.thr 3).wait = .ready ∧ (t.thr 3).pc = 0x1004 ∧ (t.thr 3).s 4 = 1 ∧ (t.thr 3).s 1 = 5 ∧ (t.core 0).resident = some 0 ∧
     (t.task 0 7).state = .dispatched ∧ t.images = [] ∧ (SMap.getD (t.core 0).store (winStart 3 (t.thr 3)) 0).toNat = 0xAB) := by
  unfold badPrectl; decide +kernel

/-- An image with a CSM section, restored without it; and a restore that waits keeps the bit. -/
theorem witness_RestoreImage_csm :
    let s := { imgSt (.waitw 4 none) 0 with images := [(1, { core := 0, region := 0, csm := 65536, threads := [{ slot := 3, dslot := 7, regs := 64 }] })] }
    let w := { imgSt (.waitw 4 none) 0 with images := [(1, { core := 0, region := 0, csm := 65536, threads := [{ slot := 3, dslot := 7, regs := 4097 }] })] }
    (0x8000 / 2 ^ 14 % 2 : Nat) = 0 ∧ (0xC000 / 2 ^ 14 % 2 : Nat) = 1 ∧ ¬badPrectl 0xC000 ∧ (s.heldAt 0).map (·.1) = some 1 ∧
    s.restoreRoom 0 1 { core := 0, region := 0, csm := 65536, threads := [{ slot := 3, dslot := 7, regs := 64 }] } = true ∧
    (aft (.preemptRestore 0 0x8000) s).images = [] ∧ ((aft (.preemptRestore 0 0xC000) w).cluster 0).restoring = some (0, true, 0x2000000) := by
  unfold badPrectl; decide +kernel

theorem witness_DiscardImage :
    let s := (imgSt .ready 0).setTask 0 7 { state := .saved }
    (s.cluster 0).preBusy = false ∧ ¬badPrectl 0xA000 ∧ SMap.has (s.cluster 0).tasks 7 = true ∧ (s.heldAt 0).map (·.1) = some 1 ∧
    (let t := aft (.imageDiscard 0 0xA000) s
     t.images = [] ∧ SMap.has (t.cluster 0).tasks 7 = false ∧ (t.cluster 0).preCode = 0) ∧
    ((aft (.imageDiscard 0 0xA000) (imgSt .ready 9)).cluster 0).preCode = 4 ∧ ((aft (.imageDiscard 0 0xA000) mst).cluster 0).preCode = 1 := by
  unfold badPrectl; decide +kernel

/-- A stream of the image that names a counter. -/
theorem witness_DiscardImage_stream :
    let o : Stream := { cntv := true, cnt := 3 }
    let s : State := withCnt { value := 1 } { imgSt .ready 0 with images := [(1, { core := 0, region := 0, threads := [{ slot := 3, dslot := 7, regs := 64 }], streams := [(0, o)] })] }
    o.cntv = true ∧ o.ended = false ∧ (s.counter o.sel o.cnt).bound = none ∧ (s.heldAt 0).map (·.1) = some 1 ∧
    (aft (.imageDiscard 0 0xA000) s).images = [] ∧ ((aft (.imageDiscard 0 0xA000) s).counter 0 3).status = causeILLEGAL := by decide +kernel

/-! ### Debug and trace (chapter 27) -/

/-- A module that has booted. -/
def rst : State := withMod (fun m => { m with ready := true }) st

/-- The debug block of core 0, changed. -/
def dbgS (f : Debug → Debug) (s : State := rst) : State := withCore (fun c => { c with dbg := f c.dbg }) s

theorem witness_DebugControl :
    let a := dbgS fun b => { b with stopped := true, cause := 3 }
    let b := dbgS fun b => { b with stopped := true, cause := 1 }
    let p := dbgS fun b => { b with pending := some (6, 0, 0) }
    (rst.core 0).dbg.stopped = false ∧ (rst.core 0).dbg.pending = none ∧ (p.core 0).dbg.pending = some (6, 0, 0) ∧
    (a.core 0).dbg.stopped = true ∧ (b.core 0).dbg.stopped = true ∧ (aft (.debugHalt 0) p).cores = p.cores ∧
    ((aft (.debugHalt 0) rst).core 0).dbg.pending = some (1, 0, 0) ∧ ((aft (.debugStep 0 18) a).core 0).dbg.step = some 2 ∧
    ((aft (.debugStep 0 2) a).core 0).dbg.sslot = 2 ∧ ((aft (.debugStep 0 2) rst).core 0).dbg.sslot = 2 ∧ ((aft (.debugStep 0 2) rst).core 0).dbg.step = none ∧
    ((aft (.debugResume 0) a).core 0).dbg.stopped = false ∧ ((aft (.debugResume 0) b).core 0).dbg.step = none ∧
    (st.module 0).ready = false ∧ (aft (.debugHalt 0) st).cores = st.cores := by decide +kernel

theorem witness_CoreStops :
    let p (k : Nat) := dbgS fun b => { b with pending := some (k, 0, 2) }
    let w := withTh (fun t => { t with wait := .response 3 .none }) (p 4)
    ((p 5).core 0).dbg.stopped = false ∧ ((p 4).thr (slotThread 0 0)).wait.accessing = false ∧ (w.thr (slotThread 0 0)).wait.accessing = true ∧
    ((aft (.coreStop 0) (p 5)).core 0).dbg.cause = 5 ∧ ((aft (.coreStop 0) (p 4)).core 0).dbg.index = 2 ∧
    ((aft (.coreStop 0) w).core 0).dbg.stopped = false ∧ (aft (.coreStop 0) (p 5)).issueSlot 0 = none := by decide +kernel

/-- Breakpoint n at 0x1000 for slot 0, with an action. -/
def bpSt (n a : Nat) (s : State := rst) : State :=
  dbgS (fun b => { b with en := true, tctl := BitVec.ofNat 64 (2 ^ 64 - 2 ^ 32 + 1), ibpa := [(n, 0x1000)], ibpc := [(n, BitVec.ofNat 64 (1 + 4 * a + 16))] }) s

theorem witness_Breakpoints :
    breaksAt (bpSt 3 0) 0 3 = true ∧ (List.range 3).all (fun k => !breaksAt (bpSt 3 0) 0 k) = true ∧ breaksAt (bpSt 0 2) 0 0 = true ∧
    breaksAt st 0 0 = false ∧ breaksAt (bpSt 0 3) 0 0 = false ∧
    ((aft (.breakpointMatch 0) (bpSt 3 0)).core 0).dbg.index = 3 ∧ ((aft (.breakpointMatch 0) (bpSt 3 0)).core 0).dbg.stopped = true ∧
    ((aft (.breakpointMatch 0) (bpSt 0 1)).core 0).dbg.formed.length = 1 ∧
    ((aft (.breakpointMatch 0) (bpSt 0 2)).thr 0).wait = .trapped ∧ (aft (.breakpointMatch 0) (bpSt 0 3)).thr 0 = th := by decide +kernel

/-- A stopped core of a booted module, with DSEL at an index of a class. -/
def selSt (c k : Nat) : State := withMod (fun m => { m with ready := true }) (dbgS (fun b => { b with stopped := true, dsel := BitVec.ofNat 64 (c * 2 ^ 20 + k) }) vst)

theorem witness_DebugData :
    let rd (c k : Nat) : Option Word := ((aft (.ddata 0 false 0) (selSt c k)).module 0).hostRead
    let err (c k : Nat) : Bool := ((aft (.ddata 0 false 0) (selSt c k)).core 0).dbg.err
    rd 0 1 = some 5 ∧ rd 1 0 = some 0xFFFFFFFF ∧ (rd 2 3).isSome = true ∧ (rd 3 (32 * 63 + 31)).isSome = true ∧ (rd 4 511).isSome = true ∧
    rd 6 0 = some 0x1000 ∧ err 0 63 = false ∧ err 0 64 = true ∧ err 1 7 = false ∧ err 1 8 = true ∧ err 2 3 = false ∧ err 2 4 = true ∧
    err 3 2047 = false ∧ err 3 2048 = true ∧ err 4 511 = false ∧ err 4 512 = true ∧ err 5 1 = false ∧ err 5 0x7FF = true ∧ err 6 1 = true ∧ err 7 0 = true ∧
    rd 7 0 = some 0 ∧ ((aft (.ddata 0 true 9) (selSt 0 1)).thr 0).s 1 = 9 ∧ ((aft (.ddata 0 true 9) (selSt 0 0)).thr 0).s 0 = 0 ∧
    ((aft (.ddata 0 true 9) (selSt 1 0)).thr 0).p 0 = 0xFFFFFFFF ∧ ((aft (.ddata 0 true 9) (selSt 6 0)).thr 0).pc = 9 ∧
    ((aft (.ddata 0 true 33) (selSt 5 1)).thr 0).fflags = 1 := by decide +kernel

/-- n records formed, and a buffer of 4,096 bytes at 0x3000000 that holds `filled` bytes. -/
def trcSt (n filled wrap base : Nat) : State :=
  dbgS fun b => { b with
    formed := (List.range n).map fun i => BitVec.ofNat 256 (7 + i), tbase := BitVec.ofNat 64 base
    tctl := BitVec.ofNat 64 (2 ^ 64 - 2 ^ 32 + 1 + 4 * wrap), filled := filled, twr := filled % 4096 }

theorem witness_TraceFlush :
    let a := trcSt 2 4064 1 0x3000000
    inHbm (0x3000000 + 4096 - 1) = true ∧ inHbm 0x3FFFFFFFFFFFF = false ∧ (a.core 0).dbg.formed.length = 2 ∧ (a.core 0).dbg.tctl.getLsbD 2 = true ∧
    (aft (.traceFlush 0) a).num 0x3000FE0 32 = 7 ∧ (aft (.traceFlush 0) a).num 0x3000000 32 = 8 ∧ ((aft (.traceFlush 0) a).core 0).dbg.twr = 32 ∧
    ((aft (.traceFlush 0) (trcSt 1 4096 0 0x3000000)).core 0).dbg.full = true ∧ ((aft (.traceFlush 0) (trcSt 1 4064 0 0x3000000)).core 0).dbg.full = false ∧
    ((aft (.traceFlush 0) (trcSt 1 0 0 0x3FFFFFFFFF000)).core 0).dbg.lost = 1 := by decide +kernel

/-- Nothing holds the buffer's lines, and a record written after two were lost has a LOSS record before it. -/
theorem witness_TraceFlush_loss :
    let a := trcSt 1 0 1 0x3000000
    let s := withCore (fun c => { c with dbg := { c.dbg with gap := 2 } }) a
    a.dirQueue = [] ∧ a.xlines = [] ∧ (a.core 0).dbg.gap = 0 ∧ (s.core 0).dbg.gap ≠ 0 ∧ (s.core 0).dbg.tctl.getLsbD 0 = true ∧
    (s.core 0).dbg.tctl.getLsbD 40 = true ∧ (s.core 0).dbg.twr = 0 ∧ (aft (.traceFlush 0) s).num 0x3000000 1 = 8 ∧
    (aft (.traceFlush 0) s).num 0x3000010 8 = 2 ∧ (aft (.traceFlush 0) s).num 0x3000020 32 = 7 ∧ ((aft (.traceFlush 0) s).core 0).dbg.gap = 0 := by
  decide +kernel

theorem witness_TraceFlush_runs : ∀ m, (trcSt 1 0 1 0x3000000).holders m = [] :=
  no_holders (by decide +kernel) (by decide +kernel) (by decide +kernel)

theorem witness_TraceSampleAndDelay :
    let sm (p : Nat) (i : Option (Nat × Nat × Word × Nat)) : State :=
      { dbgS (fun b => { b with tsamp := BitVec.ofNat 64 p, tctl := BitVec.ofNat 64 (2 ^ 64 - 2 ^ 32 + 1), issued := i, dsum := [(0, 5)] }) with time := 100 * cycleUnits 0 }
    (sm 1 none).dieCycle 0 = 100 ∧
    ((aft (.traceSample 0) (sm 0 none)).core 0).dbg.formed = [] ∧ ((aft (.traceSample 0) (sm 101 none)).core 0).dbg.formed = [] ∧
    ((aft (.traceSample 0) (sm 100 none)).core 0).dbg.formed.length = 1 ∧ ((aft (.traceSample 0) (sm 1 (some (0, 100, 0x1000, 512)))).core 0).dbg.formed.length = 1 ∧
    ((aft (.traceSample 0) (sm 1 (some (0, 99, 0x1000, 512)))).core 0).dbg.sampled = 100 ∧
    ((aft (.dlyclr 0 1) (sm 0 none)).core 0).dbg.dsum = [] ∧ ((aft (.dlyclr 0 2) (sm 0 none)).core 0).dbg.dsum = [(0, 5)] := by decide +kernel

theorem witness_TraceSampleAndDelay_issue :
    (st.thr 0).parked = false ∧ threadCore 0 = 0 ∧ ((st.markIssue 0).core 0).dbg.issued = some (0, 0, 0x1000, 0) := by decide +kernel

/-- A session on core 0: HALT, its stop, a write of s1, STEP and RESUME, and a breakpoint that traces. -/
theorem witness_DebugSession :
    let h := aft (.debugHalt 0) rst
    let s := selSt 0 1
    let b := bpSt 0 1 (dbgS (fun b => { b with seq := 5 }))
    (rst.module (clusterModule (coreCluster 0))).ready = true ∧ (rst.core 0).dbg.stopped = false ∧ (rst.core 0).dbg.pending = none ∧ (h.core 0).dbg.pending = some (1, 0, 0) ∧ (h.core 0).dbg.stopped = false ∧
    ((aft (.coreStop 0) h).core 0).dbg.dstat % 2 ^ 12 = 1 ∧ (s.core 0).dbg.stopped = true ∧ (s.module (clusterModule (coreCluster 0))).ready = true ∧
    (s.core 0).dbg.dsel.toNat / 2 ^ 24 % 16 = 0 ∧ (s.thr (slotThread 0 0)).live = true ∧ (s.core 0).dbg.dsel.toNat / 2 ^ 20 % 16 = 0 ∧
    (s.core 0).dbg.dsel.toNat % 2 ^ 20 = 1 ∧ threadCore 0 = 0 ∧ (b.thr 0).live = true ∧ (b.thr 0).parked = false ∧ breaksAt b 0 0 = true ∧
    (SMap.getD (b.core 0).dbg.ibpc 0 0).toNat / 4 % 4 = 1 ∧ (b.core 0).dbg.tctl.getLsbD 0 = true ∧ (b.core 0).dbg.tctl.getLsbD 34 = true ∧
    ((aft (.breakpointMatch 0) b).core 0).dbg.formed.length = 1 ∧ ((aft (.debugStep 0 3) s).core 0).dbg.step = some 3 := by decide +kernel

/-! ### The platform -/

/-- A module as the platform's steps see it, after the first interval; the dies are at vf3 but die 2, at vf0. -/
def pwSt (f : Module → Module) : State :=
  { withMod (fun m => f { m with ready := true, plim := 5000, vfcap := 0x44444444 }) st with
    time := 10000 * tickUnits, dies := (List.range 8).map fun i => (i, { vf := if i = 2 then 0 else 3 }) }

/-- A boot starts, and stops at step 4 on an old version, at step 6 on its failure, or ends READY; the second of a version above the minimum raises it. -/
theorem witness_Boot :
    let b (f : Module → Module) : State := withMod (fun m => f { m with booting := some (5, 6, 2), fused := 1, version := 2, higherBoots := 1 }) State.reset
    let ok (n : Nat) : State := b fun m => { m with booting := some (0, 0, 2), stage := n }
    (State.reset.module 0).stage = 0 ∧ (State.reset.module 0).ready = false ∧ ((pwSt id).module 0).ready = true ∧
    ((aft (.boot 0 (0, 0) 7) State.reset).module 0).stage = 1 ∧ ((aft (.boot 0 (5, 6) 7) State.reset).module 0).booting = some (5, 6, 7) ∧
    (aft (.boot 0 (3, 4) 7) State.reset) = State.reset ∧
    ((b fun m => { m with stage := 4, fused := 3 }).bootStep 0 |>.module 0).err = 3 ∧ ((b fun m => { m with stage := 4 }).bootStep 0 |>.module 0).stage = 5 ∧
    ((b fun m => { m with stage := 6 }).bootStep 0 |>.module 0).err = 5 ∧ (((ok 6).bootStep 0).thr (cccBase + 4 * 127)).super = true ∧
    (((ok 7).bootStep 0).module 0).ready = true ∧ (((ok 7).bootStep 0).module 0).fused = 2 ∧
    (((b fun m => { m with booting := some (0, 0, 1), stage := 7 }).bootStep 0).module 0).fused = 1 := by decide +kernel

theorem witness_Attestation :
    let a := pwSt fun m => { m with signIndex := 2 ^ 20 - 1 }
    let b := pwSt fun m => { m with signIndex := 2 ^ 20 }
    (st.module 0).ready = false ∧ (a.module 0).ready = true ∧ (a.module 0).signIndex < 2 ^ 20 ∧ 2 ^ 20 ≤ (b.module 0).signIndex ∧
    ((aft (.measurementReport 0 9) a).module 0).signIndex = 2 ^ 20 ∧ ((aft (.measurementReport 0 9) b).module 0).service = [[]] := by decide +kernel

/-- Slot 63 takes another key; a line written under the one reads back under it alone. -/
theorem witness_KeyLoad :
    let a := { withMod (fun m => { m with keys := [(63, 5)] }) st with lineKey := [(0x1000 / 128, 6)] }
    let b := aft (.keyLoad 0 63 6) a
    (b.module 0).keys = [(63, 6)] ∧ ((aft (.keyLoad 0 0 6) a).module 0).keys = [(63, 5)] ∧
    ((aft (.keyLoad 0 64 6) a).module 0).keys = [(63, 5)] ∧ SMap.get? ((aft (.keyLoad 0 1 6) a).module 0).keys 1 = some 6 ∧
    inHbm (locPa 0x1000) = true ∧ locModule 0x1000 = 0 ∧ lineOf 0x1000 = 32 ∧
    ((aft (.keyLoad 0 63 5) b).byte 63 0x1000) = Memory.get a.mem 0x1000 := by decide +kernel

/-- Each case of the power check: no end of an interval, above by 201 and by 200, at the limit, below by 200 and by 201, and the tenth low one. -/
theorem witness_PowerCheck :
    let p (w d : Nat) (f : Module → Module) : State := aft (.powerLimitCheck 0 w d) (pwSt f)
    let vf (s : State) : List Nat := (List.range 8).map fun i => (s.die i).vf
    let at_ := [3, 3, 0, 3, 3, 3, 3, 3]
    vf (p 9999 0 fun m => { m with powerTick := 1 }) = at_ ∧ vf (p 5201 0 id) = [2, 2, 0, 2, 2, 2, 2, 2] ∧ vf (p 5200 0 id) = [2, 3, 0, 3, 3, 3, 3, 3] ∧
    vf (p 5001 2 id) = at_ ∧ vf (p 5000 0 id) = at_ ∧ ((p 4800 0 fun m => { m with low := 9 }).module 0).low = 0 ∧
    ((p 4799 0 id).module 0).low = 1 ∧ vf (p 4799 0 fun m => { m with low := 9 }) = [3, 3, 1, 3, 3, 3, 3, 3] ∧
    vf (p 4799 0 fun m => { m with low := 9, vfcap := 0 }) = at_ ∧ ((p 4799 0 fun m => { m with low := 9 }).die 2).halted = true := by decide +kernel

/-- A sensor at, below and 5 degrees below its limit; and a step that is not due. -/
theorem witness_ThrottlingAndTransitions :
    let h := (pwSt id).setDie 7 { vf := 3, halted := true }
    let w := (pwSt id).setDie 7 { vf := 3, heatTick := some 1 }
    let hot := withMod (fun m => { m with hot := [127] }) (pwSt id)
    (h.die 7).halted = true ∧ ((aft (.vfTransitionEnd 0 7) h).die 7).halted = false ∧ ((pwSt id).die 7).halted = false ∧
    ((aft (.thermalThrottle 0 (127, 1680)) (pwSt id)).die 7).vf = 2 ∧ ((aft (.thermalThrottle 0 (163, 1520)) (pwSt id)).die 7).vf = 2 ∧
    ((aft (.thermalThrottle 0 (127, 1680)) w).die 7).vf = 3 ∧ ((aft (.thermalThrottle 0 (127, 1679)) (pwSt id)).die 7).vf = 3 ∧
    ((aft (.thermalThrottle 0 (127, 1601)) hot).module 0).hot = [127] ∧ ((aft (.thermalThrottle 0 (127, 1600)) hot).module 0).hot = [] ∧
    ((aft (.thermalThrottle 0 (32, 1680)) (pwSt id)).die 2).vf = 0 ∧ ((hot.heatStep 7).map fun s => (s.die 7).vf) = some 2 ∧
    (aft (.thermalThrottle 0 (128, 9999)) (pwSt id)).dies = (pwSt id).dies ∧ (aft (.thermalThrottle 0 (164, 9999)) (pwSt id)).dies = (pwSt id).dies := by
  decide +kernel

theorem witness_Upkeep :
    let s := pwSt id
    let h := s.setDie 7 { vf := 3, halted := true }
    (s.module 0).ready = true ∧ (s.module 0).powerTick < s.time / tickUnits / 10000 ∧ (s.module 0).plim + 200 < 5201 ∧ (s.die 7).vf ≠ 0 ∧
    (s.die 7).heatTick = none ∧ (h.die 7).halted = true ∧ ((aft (.powerLimitCheck 0 5201 7) s).die 7).vf = 2 ∧
    ((aft (.thermalThrottle 0 (112, 1680)) s).die 7).halted = true ∧ SMap.getD ((aft (.ageingSample 0 7 5 [3]) s).module 0).margin 7 0 = 5 ∧
    (SMap.getD ((aft (.softError 0 7 0 none) s).module 0).secnt 7 0).toNat % 65536 = 1 := by decide +kernel

theorem witness_ThermalTrip :
    let t := aft (.thermalTrip 0) { pwSt id with present := [0, 1] }
    (t.module 0).err = 6 ∧ (t.module 0).ready = false ∧ t.present = [1] ∧ t.issueSlot 0 = none := by decide +kernel

theorem witness_AgeingAndSoftErrors :
    let s := withMod (fun m => { m with secnt := [(0, 0xFFFF0000)], vfcap := 0x44444444 }) st
    ((aft (.ageingSample 0 7 0x2222222222212222 [9]) s).module 0).vfcap = 0x34444444 ∧
    ((aft (.ageingSample 0 7 0x2222222222222222 [9]) s).module 0).vfcap = 0x44444444 ∧ ((aft (.ageingSample 0 7 0 [9]) s).die 7).volts = [9] ∧
    SMap.getD ((aft (.softError 0 0 1 (some 5)) s).module 0).secnt 0 0 = 0xFFFF0000 ∧ (aft (.softError 0 0 1 (some 5)) s).badMem = [5] ∧
    SMap.getD ((aft (.softError 0 0 0 (some 5)) s).module 0).secnt 0 0 = 0xFFFF0001 ∧ (aft (.softError 0 0 0 (some 5)) s).badMem = [] ∧
    (aft (.softError 0 0 1 (some (2 ^ 70 + 31))) s).badRegs = [(0, 0x80000000)] ∧
    (SMap.getD (aft (.softError 0 0 1 (some (2 ^ 71 + 255))) s).badAccs 0 0).getLsbD 255 = true := by decide +kernel

theorem witness_RegisterWrites :
    let w (o v : Nat) : Module := (aft (.registerWrite 0 (ctlBase + o) (BitVec.ofNat 64 v)) (pwSt id)).module 0
    inCtl (ctlBase + 0x20000008) = true ∧ inCtl 0 = false ∧ (ctlBase + 4) % 8 ≠ 0 ∧ (st.module 0).ready = false ∧
    (w 0x20000008 2999).plim = 3000 ∧ (w 0x20000008 6401).plim = 6400 ∧ (w 0x20000008 6400).plim = 6400 ∧ (w 0x20000018 7).vfcap = 7 ∧
    (w 0x20000020 7).fqmax = 7 ∧ (w 0x20000A38 7).secnt = [(7, 7)] ∧ (w 0x20000010 7).pwr = 0 ∧ (w 0x200 0xFFFFFFFFFFFFFFFF).ctxtab = 0xFFFFFFFF00000 ∧
    (w 0x208 0x100000).peertab = 0x100000 ∧ (w 0x100 7).launch = some 7 ∧ (w 0x108 0).rgnLost = false := by decide +kernel

theorem witness_HostAccess :
    let s := pwSt id
    let rd (a n : Nat) (s : State) : Option Word := ((aft (.hostAccess 0 (a, n) false 0) s).module 0).hostRead
    inCtl 0x1000 = false ∧ assigned 0x1000 = true ∧ s.xlines = [] ∧ s.lineKey = [] ∧ (s.me.run.active = false) ∧ (s.module 0).tripped = false ∧
    s.dirQueue = [] ∧ rd 0x1000 8 (aft (.hostAccess 0 (0x1000, 8) true 0x0102030405060708) s) = some 0x0102030405060708 ∧
    rd 0x1001 2 (aft (.hostAccess 0 (0x1000, 8) true 0x0102030405060708) s) = some 0x0607 ∧ rd 0x1000 9 s = none ∧ rd 0x1000 0 s = none ∧
    rd (ctlBase + 4) 4 s = none ∧ rd 0x1000 8 { s with xlines := [32] } = none ∧
    rd (ctlBase + 0x20000000) 8 s = some (2 ^ 63) ∧ rd (ctlBase + 0x108) 8 (withMod (fun m => { m with launch := some 7, rgnNum := 3, rgnCode := 2 }) s) = some (2 ^ 63 + 50) ∧
    ((aft (.hostAccess 0 (ctlBase + 0x100, 8) true 7) s).module 0).launch = some 7 ∧
    ((aft (.hostAccess 0 (ctlBase + 0x100, 8) true 7) st).module 0).launch = none := by decide +kernel

theorem witness_PodAndQuota :
    let t := aft (.podConfiguration 12 [0, 935, 936, 864]) st
    t.present = [864, 935, 0] ∧ (t.switch (12 * 16 + 15)).routes.length = 52 ∧ (aft (.podConfiguration 13 [935]) st).present = [0] ∧
    (aft (.tenantQuota 3 65537 9) st).switch 3 = { (st.switch 3) with quota := [(1, 9)] } := by decide +kernel

end Sys2Proof.Tests
end

section
/-! SUPPORT. O44: what user mode and a CCC may not execute (R68 steps 5 and 6, R70). -/

namespace Sys2Proof.Machine

open Claim

/-! ### Instructions that raise a trap -/

/-- An instruction whose meaning is a precise trap is performed: the next state is the trapped one, and outside a run the thread is
trapped and nothing else changes. -/
theorem does_trap {i : Instr} {s : State} {cause : Nat} {v : Word} (h : exec i s = .next (s.trap cause v)) :
    Does i s fun t => t = s.trap cause v ∧ (NoRun s → Trapped s.cur cause v s.me.pc s t) := by
  refine ⟨_, h, rfl, ?_⟩
  rintro ⟨hactive, hordered⟩
  exact trapped_trap s cause v hordered hactive

/-- Compute-core threads always run in user mode (R70). -/
theorem supervisor_of_core {s : State} {t : Nat} (h : isCcc t = false) : s.supervisor t = false := by
  simp [State.supervisor, h]

/-! ### Supervisor instructions in user mode -/

theorem exec_tret_user {s : State} (hu : s.supervisor s.cur = false) :
    exec .tret s = .next (s.trap causePRIV ((encode .tret).setWidth 64)) := privileged_user hu

theorem exec_wfi_user {s : State} (hu : s.supervisor s.cur = false) :
    exec .wfi s = .next (s.trap causePRIV ((encode .wfi).setWidth 64)) := privileged_user hu

theorem exec_tlbinv_user {s : State} (a b : BitVec 6) (hu : s.supervisor s.cur = false) :
    exec (.tlbinv a b) s = .next (s.trap causePRIV ((encode (.tlbinv a b)).setWidth 64)) := privileged_user hu

theorem exec_tq_user {s : State} (d : BitVec 6) (hu : s.supervisor s.cur = false) :
    exec (.tq d) s = .next (s.trap causePRIV ((encode (.csrr d 0x800)).setWidth 64)) := privileged_user hu

/-- A supervisor CSR number is none of those below 0x800, which user mode may access. -/
theorem not_lt_of_supervisorCsr {n : BitVec 12} (h : 0x800#12 ≤ n) : ¬ n.toNat < 0x800 :=
  Nat.not_lt.mpr (BitVec.le_def.mp h)

theorem exec_csrr_user {s : State} {n : BitVec 12} (d : BitVec 6) (hu : s.supervisor s.cur = false) (hn : 0x800#12 ≤ n) :
    exec (.csrr d n) s = .next (s.trap causePRIV ((encode (.csrr d n)).setWidth 64)) :=
  (if_neg (not_lt_of_supervisorCsr hn)).trans (privileged_user hu)

theorem exec_csrw_user {s : State} {n : BitVec 12} (a : BitVec 6) (hu : s.supervisor s.cur = false) (hn : 0x800#12 ≤ n) :
    exec (.csrw a n) s = .next (s.trap causePRIV ((encode (.csrw a n)).setWidth 64)) := by
  have hlt := not_lt_of_supervisorCsr hn
  have hres : n.toNat ≠ csrTRES := by
    simp only [csrTRES]; omega
  exact ((if_neg hres).trans (if_neg hlt)).trans (privileged_user hu)

theorem exec_txdata_user {s : State} (wr : Bool) (a : BitVec 6) (hu : s.supervisor s.cur = false) :
    exec (.txdata wr a) s =
      .next (s.trap causePRIV ((encode (if wr then .csrw a 0x807 else .csrr a 0x807)).setWidth 64)) := by
  cases wr with
  | false => exact privileged_user hu
  | true => exact privileged_user hu

/-- `Claim.PrivilegeTraps`: each supervisor instruction begins with step 6 of R68. -/
theorem privilegeTraps : PrivilegeTraps := by
  intro d a b n wr s hu
  refine ⟨?_, fun hn => ?_, does_trap (exec_tq_user d hu), does_trap (exec_txdata_user wr a hu)⟩
  · simp only [List.forall_mem_cons, List.not_mem_nil, false_implies, implies_true, and_true]
    exact ⟨does_trap (exec_tret_user hu), does_trap (exec_wfi_user hu), does_trap (exec_tlbinv_user a b hu)⟩
  · simp only [List.forall_mem_cons, List.not_mem_nil, false_implies, implies_true, and_true]
    exact ⟨does_trap (exec_csrr_user d hu hn), does_trap (exec_csrw_user a hu hn)⟩

/-! ### Instructions of compute cores alone -/

/-- The instructions that a CCC has no unit for (R70), with every value of their fields. -/
def coreOnly (d a b : BitVec 6) (e : BitVec 5) (f g : BitVec 2) (z u : BitVec 1) (l : BitVec 8) (i : BitVec 13) : List Instr :=
  [.tend, .yield, .dqpush a, .dqpop d, .dqsplit d a, .dqsteal d, .dqcount d, .sclose, .sdrop a, .sdepth d, .sopen i,
    .mma e a b f z u, .acczero e, .accld e a, .accst e a, .acccvt e a f, .fmtw d a, .fmtr d a, .nbmv d l a f g, .termrd d a, .termclr a,
    .mrecv d a, .mpoll d]

/-- Steps 4 and 5 of R68 refuse an instruction alike, so that on a CCC the number of accumulators does not matter. -/
theorem withTile_illegal {i : Instr} {e : BitVec 5} {s : State} {k : Out} (h : k = .next (s.illegal i)) :
    withTile i e s k = .next (s.illegal i) := by
  unfold withTile
  split
  · exact h
  · rfl

theorem moveChecks_ccc {i : Instr} {e : BitVec 5} {x n : Nat} {s : State} {k : Out} (h : isCcc s.cur = true) :
    moveChecks i e x n s k = .next (s.illegal i) := withTile_illegal (onCore_ccc h)

/-- On a CCC each of them is ILLEGAL: all check the unit first, but for the name of an accumulator. -/
theorem exec_coreOnly_ccc (d a b : BitVec 6) (e : BitVec 5) (f g : BitVec 2) (z u : BitVec 1) (l : BitVec 8) (i : BitVec 13)
    {s : State} (h : isCcc s.cur = true) :
    ∀ x ∈ coreOnly d a b e f g z u l i, exec x s = .next (s.illegal x) := by
  simp only [coreOnly, List.forall_mem_cons, List.not_mem_nil, false_implies, implies_true, and_true]
  refine ⟨?tend, ?yield, ?dqpush, ?dqpop, ?dqsplit, ?dqsteal, ?dqcount, ?sclose, ?sdrop, ?sdepth, ?sopen, ?mma, ?acczero, ?accld,
    ?accst, ?acccvt, ?fmtw, ?fmtr, ?nbmv, ?termrd, ?termclr, ?mrecv, ?mpoll⟩
  case mma | acccvt => exact withTile_illegal (onCore_ccc h)
  case acczero | accld | accst => exact moveChecks_ccc h
  all_goals exact onCore_ccc h

/-! ### The major opcode of a word (R54) -/

theorem encode_major (i : Instr) : (encode i).toNat % 128 = i.encodeNat % 128 := by
  simp only [encode, BitVec.toNat_ofNat]
  omega

/-- No field of these formats overlaps the major opcode in bits 6:0. -/
theorem pack6at7_major (k : Nat) (p : BitVec 6) : pack6at7 k p % 128 = k % 128 := by unfold pack6at7; omega

theorem pack6at13_major (k : Nat) (p : BitVec 6) : pack6at13 k p % 128 = k % 128 := by unfold pack6at13; omega

theorem pack6at7_6at13_major (k : Nat) (p q : BitVec 6) : pack6at7_6at13 k p q % 128 = k % 128 := by unfold pack6at7_6at13; omega

theorem pack13at19_major (k : Nat) (p : BitVec 13) : pack13at19 k p % 128 = k % 128 := by unfold pack13at19; omega

theorem pack5at7_major (k : Nat) (p : BitVec 5) : pack5at7 k p % 128 = k % 128 := by unfold pack5at7; omega

theorem pack5at7_6at12_major (k : Nat) (p : BitVec 5) (q : BitVec 6) : pack5at7_6at12 k p q % 128 = k % 128 := by
  unfold pack5at7_6at12; omega

theorem pack5at7_6at12_2at24_major (k : Nat) (p : BitVec 5) (q : BitVec 6) (r : BitVec 2) :
    pack5at7_6at12_2at24 k p q r % 128 = k % 128 := by unfold pack5at7_6at12_2at24; omega

theorem pack5at7_6at12_6at18_2at24_1at26_1at27_major (k : Nat) (p : BitVec 5) (q r : BitVec 6) (s : BitVec 2) (t u : BitVec 1) :
    pack5at7_6at12_6at18_2at24_1at26_1at27 k p q r s t u % 128 = k % 128 := by
  unfold pack5at7_6at12_6at18_2at24_1at26_1at27; omega

theorem pack6at7_8at13_6at21_2at27_2at29_major (k : Nat) (p : BitVec 6) (q : BitVec 8) (r : BitVec 6) (s t : BitVec 2) :
    pack6at7_8at13_6at21_2at27_2at29 k p q r s t % 128 = k % 128 := by unfold pack6at7_8at13_6at21_2at27_2at29; omega

/-- The major opcodes that a CCC has no unit for (R70). -/
def coreMajors : List Nat := [0x15, 0x19, 0x1A, 0x1B, 0x50, 0x51, 0x52, 0x53, 0x54, 0x69]

theorem encode_major_mem {x : Instr} {k : Nat} (h : x.encodeNat % 128 = k % 128) (hk : k % 128 ∈ coreMajors) :
    (encode x).toNat % 128 ∈ coreMajors := by
  rwa [encode_major, h]

/-- The words of `coreOnly` have the major opcodes that R70 names: the cases are the formats of the words. -/
theorem coreOnly_major (d a b : BitVec 6) (e : BitVec 5) (f g : BitVec 2) (z u : BitVec 1) (l : BitVec 8) (i : BitVec 13) :
    ∀ x ∈ coreOnly d a b e f g z u l i, (encode x).toNat % 128 ∈ coreMajors := by
  simp only [coreOnly, List.forall_mem_cons, List.not_mem_nil, false_implies, implies_true, and_true]
  refine ⟨?tend, ?yield, ?dqpush, ?dqpop, ?dqsplit, ?dqsteal, ?dqcount, ?sclose, ?sdrop, ?sdepth, ?sopen, ?mma, ?acczero, ?accld,
    ?accst, ?acccvt, ?fmtw, ?fmtr, ?nbmv, ?termrd, ?termclr, ?mrecv, ?mpoll⟩
  case tend | yield | sclose => exact encode_major_mem rfl (by decide)
  case dqpush | sdrop | termclr => exact encode_major_mem (pack6at13_major _ _) (by decide)
  case dqpop | dqsteal | dqcount | sdepth | mpoll => exact encode_major_mem (pack6at7_major _ _) (by decide)
  case dqsplit | fmtw | fmtr | termrd | mrecv => exact encode_major_mem (pack6at7_6at13_major _ _ _) (by decide)
  case sopen => exact encode_major_mem (pack13at19_major _ _) (by decide)
  case mma => exact encode_major_mem (pack5at7_6at12_6at18_2at24_1at26_1at27_major _ _ _ _ _ _ _) (by decide)
  case acczero => exact encode_major_mem (pack5at7_major _ _) (by decide)
  case accld | accst => exact encode_major_mem (pack5at7_6at12_major _ _ _) (by decide)
  case acccvt => exact encode_major_mem (pack5at7_6at12_2at24_major _ _ _ _) (by decide)
  case nbmv => exact encode_major_mem (pack6at7_8at13_6at21_2at27_2at29_major _ _ _ _ _ _) (by decide)

/-- `Claim.ComputeCoreOnly`: step 5 of R68 on a CCC, and user mode on a compute core. -/
theorem computeCoreOnly : ComputeCoreOnly := by
  intro d a b e f g z u l i s
  refine ⟨supervisor_of_core, fun hccc x hx => ⟨?major, ?illegal⟩⟩
  case major => exact coreOnly_major d a b e f g z u l i x hx
  case illegal => exact does_trap (exec_coreOnly_ccc d a b e f g z u l i hccc x hx)

/-- Settles O44: supervisor instructions in user mode stop at step 6 of R68, and instructions of compute cores on a CCC at step 5. -/
theorem modesAndUnits : Obligations.ModesAndUnits := ⟨privilegeTraps, computeCoreOnly⟩

end Sys2Proof.Machine
end

section
/-! SUPPORT. Chapter 07: what its instructions share: scalar results, sign-extended immediates, and the formats of their words. -/

namespace Sys2Proof.Machine

/-! ### Scalar results -/

/-- An instruction whose meaning is a scalar result writes that value, and nothing else. -/
theorem does_scalar {i : Instr} {d : BitVec 6} {v w : Word} {s : State} (h : exec i s = writeScalar d w s) (hw : w = v) :
    Does i s (Wrote (one d v) 0 s) := by
  obtain ⟨t, ht, hwrote⟩ := writeScalar_spec d w s
  exact ⟨t, h.trans ht, hw ▸ hwrote⟩

/-- The result of a comparison is 1 where it holds, and 0 otherwise. -/
theorem ofBool_decide (p : Prop) [Decidable p] : ofBool (decide p) = if p then 1 else 0 := by
  by_cases h : p <;> simp [ofBool, h]

/-! ### Immediates -/

/-- A sign-extended immediate is its signed value modulo 2^64. -/
theorem sext_eq_ofInt {n : Nat} (i : BitVec n) : sext i = BitVec.ofInt 64 i.toInt := rfl

/-! ### Words (R54) -/

/-- The word of an instruction whose fields fit in 32 bits is its sum of fields. -/
theorem encode_toNat {i : Instr} {n : Nat} (h : i.encodeNat = n) (hn : n < 2 ^ 32) : (encode i).toNat = n := by
  rw [encode, BitVec.toNat_ofNat, h, Nat.mod_eq_of_lt hn]

/-- The word of format R: f7 [31:25], b [24:19], a [18:13], d [12:7] and op [6:0] (R54). -/
theorem encode_formatR {i : Instr} {d a b : BitVec 6} (f7 op : Nat) (h : i.encodeNat = pack6at7_6at13_6at19 (f7 * 2 ^ 25 + op) d a b)
    (hf : f7 < 128) (hop : op < 128) :
    (encode i).toNat = f7 * 2 ^ 25 + b.toNat * 2 ^ 19 + a.toNat * 2 ^ 13 + d.toNat * 2 ^ 7 + op := by
  unfold pack6at7_6at13_6at19 at h
  refine encode_toNat (h.trans ?_) ?_ <;> omega

/-- The word of format R whose b field is zero. -/
theorem encode_formatR_unary {i : Instr} {d a : BitVec 6} (f7 op : Nat) (h : i.encodeNat = pack6at7_6at13 (f7 * 2 ^ 25 + op) d a)
    (hf : f7 < 128) (hop : op < 128) :
    (encode i).toNat = f7 * 2 ^ 25 + (0 : BitVec 6).toNat * 2 ^ 19 + a.toNat * 2 ^ 13 + d.toNat * 2 ^ 7 + op := by
  refine encode_formatR f7 op (h.trans ?_) hf hop
  simp [pack6at7_6at13, pack6at7_6at13_6at19]

/-- The word of format Q: f1 [31], c [30:25], and the fields of format R below (R54). -/
theorem encode_formatQ {i : Instr} {d a b c : BitVec 6} (f1 op : Nat)
    (h : i.encodeNat = pack6at7_6at13_6at19_6at25 (f1 * 2 ^ 31 + op) d a b c) (hf : f1 < 2) (hop : op < 128) :
    (encode i).toNat =
      f1 * 2 ^ 31 + (c.toNat * 2 ^ 25 + b.toNat * 2 ^ 19 + a.toNat * 2 ^ 13 + d.toNat * 2 ^ 7 + op) := by
  unfold pack6at7_6at13_6at19_6at25 at h
  refine encode_toNat (h.trans ?_) ?_ <;> omega

/-- The word of formats J and U: imm19 [31:13], d [12:7] and op [6:0] (R54). -/
theorem encode_formatJ {i : Instr} {d : BitVec 6} {j : BitVec 19} (op : Nat) (h : i.encodeNat = pack6at7_19at13 op d j)
    (hop : op < 128) : (encode i).toNat = j.toNat * 2 ^ 13 + d.toNat * 2 ^ 7 + op := by
  unfold pack6at7_19at13 at h
  refine encode_toNat (h.trans ?_) ?_ <;> omega

/-- The word of format I: imm13 [31:19], a [18:13], d [12:7] and op [6:0] (R54). -/
theorem encode_formatI {i : Instr} {d a : BitVec 6} {j : BitVec 13} (op : Nat) (h : i.encodeNat = pack6at7_6at13_13at19 op d a j)
    (hop : op < 128) : (encode i).toNat = j.toNat * 2 ^ 19 + a.toNat * 2 ^ 13 + d.toNat * 2 ^ 7 + op := by
  unfold pack6at7_6at13_13at19 at h
  refine encode_toNat (h.trans ?_) ?_ <;> omega

end Sys2Proof.Machine
end

section
/-! SUPPORT. O7: the scalar integer instructions (R94 to R98). -/

namespace Sys2Proof.Machine

open Claim

/-! ### Values of opcode 0x01 (R94) -/

theorem add_eq_ofNat (x y : Word) : x + y = BitVec.ofNat 64 (x.toNat + y.toNat) := by
  rw [BitVec.ofNat_add]; simp

theorem sub_eq_ofInt (x y : Word) : x - y = BitVec.ofInt 64 (x.toNat - y.toNat : Int) := by
  rw [Int.sub_eq_add_neg, BitVec.ofInt_add, BitVec.ofInt_neg, ← BitVec.sub_eq_add_neg]
  simp

theorem and_eq_ofNat (x y : Word) : x &&& y = BitVec.ofNat 64 (x.toNat &&& y.toNat) := by simp

theorem or_eq_ofNat (x y : Word) : x ||| y = BitVec.ofNat 64 (x.toNat ||| y.toNat) := by simp

theorem xor_eq_ofNat (x y : Word) : x ^^^ y = BitVec.ofNat 64 (x.toNat ^^^ y.toNat) := by simp

theorem shiftLeft_eq_ofNat (x : Word) (n : Nat) : x <<< n = BitVec.ofNat 64 (x.toNat * 2 ^ n) :=
  BitVec.eq_of_toNat_eq (by rw [BitVec.toNat_shiftLeft, BitVec.toNat_ofNat, Nat.shiftLeft_eq])

theorem shiftRight_eq_ofNat (x : Word) (n : Nat) : x >>> n = BitVec.ofNat 64 (x.toNat / 2 ^ n) := by
  apply BitVec.eq_of_toNat_eq
  rw [BitVec.toNat_ushiftRight, BitVec.toNat_ofNat, Nat.shiftRight_eq_div_pow,
    Nat.mod_eq_of_lt ((Nat.div_le_self _ _).trans_lt x.isLt)]

theorem sshiftRight_eq_ofInt (x : Word) (n : Nat) : x.sshiftRight n = BitVec.ofInt 64 (x.toInt / 2 ^ n) := by
  have h : (x.sshiftRight n).toInt = x.toInt / 2 ^ n := by
    rw [BitVec.toInt_sshiftRight, Int.shiftRight_eq_div_pow, Nat.cast_pow, Nat.cast_ofNat]
  rw [← h, BitVec.ofInt_toInt]

theorem minSigned_eq (x y : Word) : (if y.slt x then y else x) = BitVec.ofInt 64 (min x.toInt y.toInt) := by
  rw [min_comm, min_def_lt, apply_ite (BitVec.ofInt 64), BitVec.ofInt_toInt, BitVec.ofInt_toInt, BitVec.slt]
  simp

theorem maxSigned_eq (x y : Word) : (if x.slt y then y else x) = BitVec.ofInt 64 (max x.toInt y.toInt) := by
  rw [max_def_lt, apply_ite (BitVec.ofInt 64), BitVec.ofInt_toInt, BitVec.ofInt_toInt, BitVec.slt]
  simp

theorem minUnsigned_eq (x y : Word) : (if y.ult x then y else x) = BitVec.ofNat 64 (min x.toNat y.toNat) := by
  rw [min_comm, min_def_lt, apply_ite (BitVec.ofNat 64), BitVec.ult]
  simp

theorem maxUnsigned_eq (x y : Word) : (if x.ult y then y else x) = BitVec.ofNat 64 (max x.toNat y.toNat) := by
  rw [max_def_lt, apply_ite (BitVec.ofNat 64), BitVec.ult]
  simp

/-- `Claim.ScalarArithmetic`: one value for each function of opcode 0x01. -/
theorem scalarArithmetic : ScalarArithmetic := by
  intro d a b s x y X Y
  refine ⟨?add, ?sub, ?and, ?or, ?xor, ?sll, ?srl, ?sra, ?slt, ?sltu, ?seq, ?min, ?max, ?minu, ?maxu⟩
  case add => exact does_scalar rfl (add_eq_ofNat _ _)
  case sub => exact does_scalar rfl (sub_eq_ofInt _ _)
  case and => exact does_scalar rfl (and_eq_ofNat _ _)
  case or => exact does_scalar rfl (or_eq_ofNat _ _)
  case xor => exact does_scalar rfl (xor_eq_ofNat _ _)
  case sll => exact does_scalar rfl (shiftLeft_eq_ofNat _ _)
  case srl => exact does_scalar rfl (shiftRight_eq_ofNat _ _)
  case sra => exact does_scalar rfl (sshiftRight_eq_ofInt _ _)
  case slt => exact does_scalar rfl (ofBool_decide _)
  case sltu => exact does_scalar rfl (ofBool_decide _)
  case seq =>
    refine does_scalar rfl ((ofBool_decide _).trans ?_)
    simp only [BitVec.toNat_inj, x, y]
  case min => exact does_scalar rfl (minSigned_eq _ _)
  case max => exact does_scalar rfl (maxSigned_eq _ _)
  case minu => exact does_scalar rfl (minUnsigned_eq _ _)
  case maxu => exact does_scalar rfl (maxUnsigned_eq _ _)

/-! ### Counts and extensions (R96) -/

theorem bit_eq_testBit (x n : Nat) : bit x n = x.testBit n := (Nat.testBit_eq_decide_div_mod_eq).symm

/-- A number below 2^n has at most n significant bits. -/
theorem bitLen_le {x n : Nat} (h : x < 2 ^ n) : bitLen x ≤ n := by
  unfold bitLen
  split
  · exact Nat.zero_le _
  · next hx => exact (Nat.log2_lt hx).mpr h

theorem lt_two_pow_bitLen (x : Nat) : x < 2 ^ bitLen x := by
  unfold bitLen
  split
  · next hx => simp [hx]
  · exact Nat.lt_log2_self

theorem bitLen_pos {x : Nat} (hx : x ≠ 0) : 0 < bitLen x := by
  rw [bitLen, if_neg hx]
  exact Nat.succ_pos _

theorem two_pow_bitLen_le {x : Nat} (hx : x ≠ 0) : 2 ^ (bitLen x - 1) ≤ x := by
  rw [bitLen, if_neg hx]
  exact Nat.log2_self_le hx

/-- CLZ: the number of bits above the highest one bit. -/
theorem clz_counts (x : Word) :
    64 - bitLen x.toNat ≤ 64 ∧ x.toNat < 2 ^ (64 - (64 - bitLen x.toNat)) ∧
      (64 - bitLen x.toNat < 64 → 2 ^ (63 - (64 - bitLen x.toNat)) ≤ x.toNat) := by
  have hle : bitLen x.toNat ≤ 64 := bitLen_le x.isLt
  refine ⟨Nat.sub_le _ _, ?_, fun hlt => ?_⟩
  · rw [Nat.sub_sub_self hle]
    exact lt_two_pow_bitLen _
  · have hx : x.toNat ≠ 0 := by
      intro hx
      rw [hx] at hlt
      exact absurd hlt (by decide)
    have he : 63 - (64 - bitLen x.toNat) = bitLen x.toNat - 1 := by omega
    rw [he]
    exact two_pow_bitLen_le hx

/-- Counting from bit i over n bits stops at the first one bit, or after the last. -/
theorem trailingZeros_counts (x : Nat) : ∀ n i, i ≤ trailingZeros x n i ∧ trailingZeros x n i ≤ i + n ∧
    (∀ j, i ≤ j → j < trailingZeros x n i → x.testBit j = false) ∧
    (trailingZeros x n i < i + n → x.testBit (trailingZeros x n i) = true)
  | 0, i => ⟨le_rfl, le_rfl, fun _ hij hji => absurd hji (Nat.not_lt.mpr hij), fun h => absurd h (lt_irrefl _)⟩
  | n + 1, i => by
    rw [trailingZeros, bit_eq_testBit]
    cases hbit : x.testBit i with
    | true => exact ⟨le_rfl, Nat.le_add_right _ _, fun _ hij hji => absurd hji (Nat.not_lt.mpr hij), fun _ => hbit⟩
    | false =>
      obtain ⟨hlo, hhi, hzeros, hone⟩ := trailingZeros_counts x n (i + 1)
      refine ⟨Nat.le_of_succ_le hlo, by simpa [Nat.add_assoc, Nat.add_comm 1] using hhi, fun j hij hj => ?_, fun h => hone ?_⟩
      · obtain rfl | hij := hij.eq_or_lt
        · exact hbit
        · exact hzeros j hij hj
      · simpa [Nat.add_assoc, Nat.add_comm 1] using h

theorem popCount_eq_card (x n : Nat) : popCount x n = ((Finset.range n).filter fun i => x.testBit i).card := by
  induction n with
  | zero => rfl
  | succ n ih =>
    rw [popCount, ih, bit_eq_testBit, Finset.range_add_one, Finset.filter_insert]
    split
    · rw [Finset.card_insert_of_notMem (by simp)]
    · rfl

/-- A sign extension of the low bits is their signed value. -/
theorem signExtend_setWidth_eq_ofInt (n : Nat) (x : Word) :
    (x.setWidth n).signExtend 64 = BitVec.ofInt 64 (BitVec.ofNat n x.toNat).toInt := by
  rw [BitVec.ofNat_toNat]
  rfl

theorem setWidth_setWidth_eq_ofNat (n : Nat) (x : Word) :
    (x.setWidth n).setWidth 64 = BitVec.ofNat 64 (x.toNat % 2 ^ n) := by
  apply BitVec.eq_of_toNat_eq
  rw [BitVec.toNat_setWidth, BitVec.toNat_setWidth, BitVec.toNat_ofNat]

theorem mul_eq_ofInt (x y : Word) : x * y = BitVec.ofInt 64 (x.toInt * y.toInt) := by
  rw [BitVec.ofInt_mul, BitVec.ofInt_toInt, BitVec.ofInt_toInt]

/-- `Claim.ScalarProductsAndCounts`: the products of opcode 0x02 and the functions of opcode 0x03. -/
theorem scalarProductsAndCounts : ScalarProductsAndCounts := by
  intro d a b s x y X Y
  refine ⟨?mul, ?mulh, ?mulhu, ?clz, ?ctz, ?popc, ?sextb, ?sexth, ?sextw, ?zextw⟩
  case mul => exact does_scalar rfl (mul_eq_ofInt _ _)
  case mulh => exact does_scalar rfl rfl
  case mulhu => exact does_scalar rfl rfl
  case clz =>
    obtain ⟨hle, hlt, hone⟩ := clz_counts (s.sr a)
    exact ⟨_, hle, hlt, hone, does_scalar rfl rfl⟩
  case ctz =>
    obtain ⟨-, hle, hzeros, hone⟩ := trailingZeros_counts x 64 0
    exact ⟨_, by simpa using hle, fun j => hzeros j (Nat.zero_le _), by simpa using hone, does_scalar rfl rfl⟩
  case popc => exact does_scalar rfl (congrArg _ (popCount_eq_card _ _))
  case sextb => exact does_scalar rfl (signExtend_setWidth_eq_ofInt 8 _)
  case sexth => exact does_scalar rfl (signExtend_setWidth_eq_ofInt 16 _)
  case sextw => exact does_scalar rfl (signExtend_setWidth_eq_ofInt 32 _)
  case zextw => exact does_scalar rfl (setWidth_setWidth_eq_ofNat 32 _)

/-! ### Immediate forms (R97, R98) -/

/-- A word plus a sign-extended immediate, by their signed values. -/
theorem add_sext_eq_ofInt (x : Word) {n : Nat} (i : BitVec n) : x + sext i = BitVec.ofInt 64 (x.toInt + i.toInt) := by
  rw [BitVec.ofInt_add, BitVec.ofInt_toInt, sext_eq_ofInt]

theorem sext_shiftLeft_eq_ofInt {n : Nat} (i : BitVec n) (k : Nat) : sext i <<< k = BitVec.ofInt 64 (i.toInt * 2 ^ k) := by
  have h : BitVec.twoPow 64 k = BitVec.ofInt 64 (2 ^ k) := by
    have hcast : (2 : Int) ^ k = (2 ^ k : Nat) := by rw [Nat.cast_pow, Nat.cast_ofNat]
    apply BitVec.eq_of_toNat_eq
    rw [BitVec.toNat_twoPow, hcast, BitVec.ofInt_natCast, BitVec.toNat_ofNat]
  rw [BitVec.shiftLeft_eq_mul_twoPow, BitVec.ofInt_mul, ← sext_eq_ofInt, h]

/-- Sign extension keeps the signed value of an immediate. -/
theorem toInt_sext {n : Nat} (h : n ≤ 64) (i : BitVec n) : (sext i).toInt = i.toInt := BitVec.toInt_signExtend_of_le h

/-- `Claim.ScalarImmediates`: the immediate forms, the selections, LUI and AUIPC. -/
theorem scalarImmediates : ScalarImmediates := by
  intro d a b c n i j s x X
  refine ⟨?addi, ?andi, ?ori, ?xori, ?slli, ?srli, ?srai, ?slti, ?csel, ?cselz, ?lui, ?auipc⟩
  case addi => exact does_scalar rfl (add_sext_eq_ofInt _ i)
  case andi => exact does_scalar rfl rfl
  case ori => exact does_scalar rfl rfl
  case xori => exact does_scalar rfl rfl
  case slli => exact does_scalar rfl (shiftLeft_eq_ofNat _ _)
  case srli => exact does_scalar rfl (shiftRight_eq_ofNat _ _)
  case srai => exact does_scalar rfl (sshiftRight_eq_ofInt _ _)
  case slti =>
    refine does_scalar rfl ((ofBool_decide _).trans ?_)
    rw [toInt_sext (by decide)]
  case csel => exact does_scalar rfl (ite_not _ _ _)
  case cselz => exact does_scalar rfl rfl
  case lui => exact does_scalar rfl (sext_shiftLeft_eq_ofInt j 13)
  case auipc =>
    refine does_scalar rfl ?_
    rw [BitVec.ofInt_add, BitVec.ofInt_toInt, sext_shiftLeft_eq_ofInt]

/-! ### Words (R94, R96, R98) -/

/-- `Claim.ScalarWords`: the opcode and the function value of each word. -/
theorem scalarWords : ScalarWords := by
  intro d a b c j r word
  refine ⟨?add, ?sub, ?and, ?or, ?xor, ?sll, ?srl, ?sra, ?slt, ?sltu, ?seq, ?min, ?max, ?minu, ?maxu, ?clz, ?ctz, ?popc, ?sextb, ?sexth,
    ?sextw, ?zextw, ?csel, ?cselz, ?lui, ?auipc⟩
  case csel =>
    exact (encode_formatQ 0 0x0A rfl (by decide) (by decide)).trans (by rw [Nat.zero_mul, Nat.zero_add])
  case cselz => exact encode_formatQ 1 0x0A rfl (by decide) (by decide)
  case lui => exact encode_formatJ 0x0B rfl (by decide)
  case auipc => exact encode_formatJ 0x13 rfl (by decide)
  case clz | ctz | popc | sextb | sexth | sextw | zextw => exact encode_formatR_unary _ 3 rfl (by decide) (by decide)
  all_goals exact encode_formatR _ 1 rfl (by decide) (by decide)

/-- Settles O7: the value of each scalar integer instruction, which `does_scalar` writes with nothing else, and its word. -/
theorem scalarResults : Obligations.ScalarResults := ⟨scalarArithmetic, scalarProductsAndCounts, scalarImmediates, scalarWords⟩

end Sys2Proof.Machine
end

section
/-! SUPPORT. O9: comparisons and conversions of FP32 numbers (R101). -/

namespace Sys2Proof.Machine

open Claim

/-! ### Results with flags -/

/-- Flags ORed into FFLAGS are the one thing more that changes where they are joined to a scalar result. -/
theorem wrote_setSr_orFlags_retire (s : State) (d : BitVec 6) (v : Word) (f : BitVec 5) :
    Wrote (one d v) f s (((s.setSr d v).orFlags f).retire) := by
  obtain ⟨-, hplain⟩ := wrote_setSr_retire s d v
  refine ⟨onlyThread_trans (onlyThread_trans (onlyThread_setMe s _) (onlyThread_setThr _ _ _)) (onlyThread_setThr _ _ _), ?_⟩
  have hthr : (((s.setSr d v).orFlags f).retire).thr s.cur = { ((s.setSr d v).retire).thr s.cur with fflags := s.me.fflags ||| f } := by
    rw [setSr_retire_thr]
    simp [State.retire, State.retireAt, State.orFlags, State.setSr, State.setMe, State.me]
  rw [hthr]
  exact ⟨hplain.scalars, hplain.zero, rfl, hplain.pc, hplain.counted, hplain.awake, hplain.rest⟩

/-- An instruction whose meaning is a scalar result with flags writes both, and nothing else. -/
theorem does_flagged {i : Instr} {d : BitVec 6} {v w : Word} {f g : BitVec 5} {s : State}
    (h : exec i s = .next (((s.setSr d w).orFlags g).retire)) (hw : w = v) (hg : g = f) : Does i s (Wrote (one d v) f s) := by
  subst hw hg
  exact ⟨_, h, wrote_setSr_orFlags_retire s d w g⟩

theorem does_feq {d a b : BitVec 6} {s : State} {v : Word} {c : Bool} {f : BitVec 5} (h : feq32 (s.fp a) (s.fp b) = (c, f))
    (hv : ofBool c = v) : Does (.feq d a b) s (Wrote (one d v) f s) :=
  does_flagged rfl (by rw [h, hv]) (by rw [h])

theorem does_flt {d a b : BitVec 6} {s : State} {v : Word} {c : Bool} {f : BitVec 5} (h : flt32 (s.fp a) (s.fp b) = (c, f))
    (hv : ofBool c = v) : Does (.flt d a b) s (Wrote (one d v) f s) :=
  does_flagged rfl (by rw [h, hv]) (by rw [h])

theorem does_ftoi {d a : BitVec 6} {s : State} {v : Word} {f : BitVec 5} (h : ftoi32 (s.fp a) = (v, f)) :
    Does (.ftoi d a) s (Wrote (one d v) f s) :=
  does_flagged rfl (by rw [h]) (by rw [h])

/-! ### Rational values -/

/-- The numbers that have a rational value are the finite ones. -/
theorem eq_fin_of_rational {x : Num} {p : ℚ} (h : rational x = some p) :
    ∃ neg m e, x = .fin neg m e ∧ (if neg then -1 else 1) * (m : ℚ) * 2 ^ e = p := by
  cases x with
  | nan => cases h
  | inf neg => cases h
  | fin neg m e => exact ⟨neg, m, e, rfl, Option.some.inj h⟩

/-- 2^e over a smaller power of two is a natural number. -/
theorem two_zpow_eq {e q : Int} (h : q ≤ e) : (2 : ℚ) ^ e = 2 ^ (e - q).toNat * 2 ^ q := by
  rw [← zpow_natCast, Int.toNat_of_nonneg (Int.sub_nonneg.mpr h), ← zpow_add₀ two_ne_zero, Int.sub_add_cancel]

/-- The integer at a common exponent keeps the value. -/
theorem atExp_mul_two_zpow (neg : Bool) (m : Nat) {e q : Int} (h : q ≤ e) :
    (atExp neg m e q : ℚ) * 2 ^ q = (if neg then -1 else 1) * (m : ℚ) * 2 ^ e := by
  rw [two_zpow_eq h, atExp]
  cases neg <;> simp <;> ring

/-- Finite numbers compare as their values. -/
theorem lt_of_rational {x y : Num} {p q : ℚ} (hx : rational x = some p) (hy : rational y = some q) : x.lt y = decide (p < q) := by
  obtain ⟨s, m, e, rfl, rfl⟩ := eq_fin_of_rational hx
  obtain ⟨t, n, f, rfl, rfl⟩ := eq_fin_of_rational hy
  have hpos : (0 : ℚ) < 2 ^ min e f := by positivity
  rw [← atExp_mul_two_zpow s m (min_le_left e f), ← atExp_mul_two_zpow t n (min_le_right e f), Num.lt]
  simp only [mul_lt_mul_iff_left₀ hpos, Int.cast_lt]

theorem eq_of_rational {x y : Num} {p q : ℚ} (hx : rational x = some p) (hy : rational y = some q) : x.eq y = decide (p = q) := by
  have hdef : x.eq y = (!x.lt y && !y.lt x) := by
    obtain ⟨s, m, e, rfl, -⟩ := eq_fin_of_rational hx
    obtain ⟨t, n, f, rfl, -⟩ := eq_fin_of_rational hy
    rfl
  rw [hdef, lt_of_rational hx hy, lt_of_rational hy hx, ← decide_not, ← decide_not, ← Bool.decide_and]
  exact decide_eq_decide.mpr (by rw [not_lt, not_lt, le_antisymm_iff, and_comm])

/-! ### FEQ and FLT -/

theorem isNan_eq_false {x : W32} (h : num32 x ≠ .nan) : isNan x = false := decide_eq_false h

theorem isNan_eq_false_of_rational {x : W32} {p : ℚ} (h : rational (num32 x) = some p) : isNan x = false :=
  isNan_eq_false fun hn => by rw [hn] at h; cases h

theorem snanFlags_pair (x y : W32) : snanFlags [x, y] = if isSnan x || isSnan y then flagNV else 0 := by
  simp [snanFlags]

/-- A number that is no NaN sets no flag in a comparison. -/
theorem snanFlags_eq_zero {x y : W32} (hx : isNan x = false) (hy : isNan y = false) : snanFlags [x, y] = 0 := by
  simp [snanFlags_pair, isSnan, hx, hy]

theorem feq32_of_not_nan {x y : W32} (hx : isNan x = false) (hy : isNan y = false) : feq32 x y = ((num32 x).eq (num32 y), 0) := by
  rw [feq32, snanFlags_eq_zero hx hy]

theorem flt32_of_not_nan {x y : W32} (hx : isNan x = false) (hy : isNan y = false) : flt32 x y = ((num32 x).lt (num32 y), 0) := by
  rw [flt32, hx, hy]
  rfl

/-- A NaN compares with nothing. -/
theorem lt_eq_false_of_nan {x y : Num} (h : x = .nan ∨ y = .nan) : x.lt y = false := by
  obtain rfl | rfl := h
  · rfl
  · cases x <;> rfl

theorem eq_eq_false_of_nan {x y : Num} (h : x = .nan ∨ y = .nan) : x.eq y = false := by
  obtain rfl | rfl := h
  · rfl
  · cases x <;> rfl

theorem feq32_nan {x y : W32} (h : isNan x = true ∨ isNan y = true) :
    feq32 x y = (false, if isSnan x || isSnan y then flagNV else 0) := by
  rw [feq32, snanFlags_pair, eq_eq_false_of_nan (h.imp of_decide_eq_true of_decide_eq_true)]

theorem flt32_nan {x y : W32} (h : isNan x = true ∨ isNan y = true) : flt32 x y = (false, flagNV) := by
  rw [flt32, lt_eq_false_of_nan (h.imp of_decide_eq_true of_decide_eq_true), if_pos (by simpa using h)]

/-- An infinity equals itself alone. -/
theorem inf_eq {n : Bool} {y : Num} (hy : y ≠ .nan) : (Num.inf n).eq y = decide (y = .inf n) := by
  cases y with
  | nan => exact absurd rfl hy
  | inf t => cases n <;> cases t <;> rfl
  | fin t m e => cases n <;> rfl

/-- The negative infinity is below every other number, and the positive one below none. -/
theorem inf_lt {n : Bool} {y : Num} (hy : y ≠ .nan) : (Num.inf n).lt y = decide (n = true ∧ y ≠ .inf true) := by
  cases y with
  | nan => exact absurd rfl hy
  | inf t => cases n <;> cases t <;> rfl
  | fin t m e => cases n <;> rfl

theorem eq_inf_of_rational {x : Num} {p : ℚ} (n : Bool) (h : rational x = some p) : x.eq (.inf n) = false := by
  obtain ⟨t, m, e, rfl, -⟩ := eq_fin_of_rational h
  cases n <;> rfl

theorem lt_inf_of_rational {x : Num} {p : ℚ} (n : Bool) (h : rational x = some p) : x.lt (.inf n) = !n := by
  obtain ⟨t, m, e, rfl, -⟩ := eq_fin_of_rational h
  rfl

/-! ### FTOI -/

theorem towardZero_of_nonneg {v : ℚ} (h : 0 ≤ v) : towardZero v = ⌊v⌋ := if_pos h

theorem towardZero_neg {v : ℚ} (h : 0 ≤ v) : towardZero (-v) = -⌊v⌋ := by
  unfold towardZero
  split
  · next hneg =>
    obtain rfl : v = 0 := le_antisymm (neg_nonneg.mp hneg) h
    simp
  · exact Int.ceil_neg

/-- A signed magnitude truncates to its signed floor. -/
theorem towardZero_sign_mul (neg : Bool) {v : ℚ} (h : 0 ≤ v) :
    towardZero ((if neg then -1 else 1) * v) = if neg then -⌊v⌋ else ⌊v⌋ := by
  cases neg with
  | false => simpa using towardZero_of_nonneg h
  | true => simpa using towardZero_neg h

/-- Truncation takes the floor of the magnitude, and is exact where the magnitude is an integer. -/
theorem truncInt_eq_floor (neg : Bool) (m : Nat) (e : Int) :
    truncInt neg m e = (if neg then -⌊(m : ℚ) * 2 ^ e⌋ else ⌊(m : ℚ) * 2 ^ e⌋, decide ((⌊(m : ℚ) * 2 ^ e⌋ : ℚ) = m * 2 ^ e)) := by
  unfold truncInt
  split
  · next he =>
    have hv : (m : ℚ) * 2 ^ e = (m * 2 ^ e.toNat : Nat) := by
      rw [two_zpow_eq he]
      simp
    rw [hv, Int.floor_natCast]
    simp
  · next he =>
    have hv : (m : ℚ) * 2 ^ e = m / (2 ^ (-e).toNat : Nat) := by
      rw [div_eq_mul_inv, Nat.cast_pow, Nat.cast_ofNat, ← zpow_natCast, Int.toNat_of_nonneg (by omega), zpow_neg, inv_inv]
    have hpos : (0 : ℚ) < (2 ^ (-e).toNat : Nat) := by positivity
    have hexact : ((m / 2 ^ (-e).toNat : Nat) : ℚ) = m / (2 ^ (-e).toNat : Nat) ↔ m % 2 ^ (-e).toNat = 0 := by
      rw [eq_div_iff hpos.ne', ← Nat.dvd_iff_mod_eq_zero, ← Nat.cast_mul, Nat.cast_inj]
      exact ⟨Dvd.intro_left _, Nat.div_mul_cancel⟩
    rw [hv, Rat.floor_natCast_div_natCast]
    simp only [← hexact]
    rfl

theorem truncInt_of_rational {neg : Bool} {m : Nat} {e : Int} {p : ℚ} (h : rational (.fin neg m e) = some p) :
    truncInt neg m e = (towardZero p, decide ((towardZero p : ℚ) = p)) := by
  have hv : (0 : ℚ) ≤ m * 2 ^ e := by positivity
  obtain rfl : (if neg then -1 else 1) * (m : ℚ) * 2 ^ e = p := Option.some.inj h
  rw [truncInt_eq_floor, mul_assoc, towardZero_sign_mul neg hv]
  cases neg <;> simp

/-- The mantissa of an FP32 number has at most 24 bits. -/
theorem num32_mantissa_lt {x : W32} {neg : Bool} {m : Nat} {e : Int} (h : num32 x = .fin neg m e) : m < 2 ^ 24 := by
  unfold num32 FloatFmt.value at h
  simp only [floatFmt] at h
  split at h
  · split at h <;> cases h
  · split at h
    · cases h
    · split at h <;> injection h <;> omega

/-- An FP32 number of magnitude 2^24 or more is an integer. -/
theorem towardZero_eq_self {x : W32} {p : ℚ} (h : rational (num32 x) = some p) (hp : 2 ^ 24 ≤ |p|) : (towardZero p : ℚ) = p := by
  obtain ⟨neg, m, e, hx, hval⟩ := eq_fin_of_rational h
  have hm : (m : ℚ) < 2 ^ 24 := by exact_mod_cast num32_mantissa_lt hx
  have he : 0 ≤ e := by
    by_contra hneg
    have hpow : (2 : ℚ) ^ e ≤ 1 := zpow_le_one_of_nonpos₀ one_le_two (by omega)
    have habs : |p| = m * 2 ^ e := by
      rw [← hval, mul_assoc, abs_mul, abs_of_nonneg (show (0 : ℚ) ≤ m * 2 ^ e by positivity)]
      cases neg <;> simp
    have hle : |p| ≤ m := habs ▸ mul_le_of_le_one_right (Nat.cast_nonneg m) hpow
    exact absurd (hp.trans hle) (not_le.mpr hm)
  rw [hx] at h
  have hexact := congrArg Prod.snd (truncInt_of_rational h)
  rw [truncInt, if_pos he] at hexact
  exact of_decide_eq_true hexact.symm

theorem le_towardZero_iff {n : Int} (hn : 0 < n) (p : ℚ) : n ≤ towardZero p ↔ (n : ℚ) ≤ p := by
  unfold towardZero
  split
  · exact Int.le_floor
  · next hp =>
    have hceil : ⌈p⌉ ≤ 0 := Int.ceil_le.mpr (by simpa using (not_le.mp hp).le)
    have hn' : (0 : ℚ) < n := by exact_mod_cast hn
    exact ⟨fun h => absurd (h.trans hceil) (not_le.mpr hn), fun h => absurd (hn'.le.trans h) hp⟩

theorem lt_of_towardZero_lt {n : Int} (hn : n ≤ 0) {p : ℚ} (h : towardZero p < n) : p < n := by
  unfold towardZero at h
  split at h
  · next hp => exact absurd (h.trans_le hn) (not_lt.mpr (Int.floor_nonneg.mpr hp))
  · exact (Int.le_ceil p).trans_lt (by exact_mod_cast h)

/-- FTOI of a finite number saturates by the number itself: what truncation drops does not matter at 2^63, where every number is an
integer. -/
theorem ftoi32_of_rational {x : W32} {p : ℚ} (h : rational (num32 x) = some p) :
    ftoi32 x =
      if 2 ^ 63 ≤ p then (BitVec.ofInt 64 (2 ^ 63 - 1), flagNV)
      else if p < -2 ^ 63 then (BitVec.ofInt 64 (-2 ^ 63), flagNV)
      else (BitVec.ofInt 64 (towardZero p), if (towardZero p : ℚ) = p then 0 else flagNX) := by
  obtain ⟨neg, m, e, hx, -⟩ := eq_fin_of_rational h
  have htop : (2 : Int) ^ 63 ≤ towardZero p ↔ (2 : ℚ) ^ 63 ≤ p := by
    rw [le_towardZero_iff (by decide)]
    norm_num
  have hbottom : towardZero p < -2 ^ 63 ↔ p < -2 ^ 63 := by
    have hcast : towardZero p < -2 ^ 63 ↔ (towardZero p : ℚ) < -2 ^ 63 := by exact_mod_cast Iff.rfl
    refine ⟨fun hlt => ?_, fun hlt => ?_⟩
    · exact_mod_cast lt_of_towardZero_lt (n := -2 ^ 63) (by decide) hlt
    · have habs : (2 : ℚ) ^ 24 ≤ |p| := by
        rw [abs_of_neg (hlt.trans (by norm_num))]
        linarith [show (2 : ℚ) ^ 24 ≤ 2 ^ 63 by norm_num]
      rwa [hcast, towardZero_eq_self h habs]
  rw [ftoi32, hx]
  simp only [truncInt_of_rational (hx ▸ h), htop, hbottom, decide_eq_true_eq]
  rfl

theorem ftoi32_nan {x : W32} (h : isNan x = true) : ftoi32 x = (0, flagNV) := by
  rw [ftoi32, of_decide_eq_true h]

theorem ftoi32_inf {x : W32} {n : Bool} (h : num32 x = .inf n) :
    ftoi32 x = (BitVec.ofInt 64 (if n then -2 ^ 63 else 2 ^ 63 - 1), flagNV) := by
  rw [ftoi32, h]
  cases n <;> rfl

theorem does_ftoi_of_rational {d a : BitVec 6} {s : State} {p : ℚ} (h : rational (num32 (s.fp a)) = some p) :
    Does (.ftoi d a) s (
      if 2 ^ 63 ≤ p then Wrote (one d (BitVec.ofInt 64 (2 ^ 63 - 1))) flagNV s
      else if p < -2 ^ 63 then Wrote (one d (BitVec.ofInt 64 (-2 ^ 63))) flagNV s
      else Wrote (one d (BitVec.ofInt 64 (towardZero p))) (if (towardZero p : ℚ) = p then 0 else flagNX) s) := by
  have hres := ftoi32_of_rational h
  by_cases htop : 2 ^ 63 ≤ p
  · rw [if_pos htop] at hres ⊢
    exact does_ftoi hres
  rw [if_neg htop] at hres ⊢
  by_cases hbottom : p < -2 ^ 63
  · rw [if_pos hbottom] at hres ⊢
    exact does_ftoi hres
  · rw [if_neg hbottom] at hres ⊢
    exact does_ftoi hres

/-! ### ITOF -/

/-- The exponent at which a magnitude is rounded to 24 significant bits. -/
def gridExp (m : Nat) (e : Int) : Int := e + bitLen m - 24

/-- The value of a normal encoding: the sign, the biased exponent b in [30:23], and the low bits f of the mantissa (R174). -/
theorem value_normal {n b f : Nat} (hb : 1 ≤ b) (hb' : b ≤ 254) (hf : f < 2 ^ 23) (hn : n % 2 ^ 31 = b * 2 ^ 23 + f) :
    (floatFmt 0).value n = .fin (decide (n / 2 ^ 31 % 2 = 1)) (2 ^ 23 + f) (b - 150) := by
  have hmant : n % 2 ^ 23 = f := by omega
  have hexp : n / 2 ^ 23 % 2 ^ 8 = b := by omega
  have htop : ¬ 0x7F7FFFFF < n % 2 ^ 31 := by omega
  have hinf : ¬ b = 2 ^ 8 - 1 := by omega
  have hsub : ¬ b = 0 := by omega
  rw [FloatFmt.value]
  simp only [floatFmt, hmant, hexp, htop, hinf, hsub, decide_false, Bool.and_false, Bool.false_eq_true, if_false]
  congr 1
  omega

theorem num32_signed {neg : Bool} {b f : Nat} (hb : 1 ≤ b) (hb' : b ≤ 254) (hf : f < 2 ^ 23) :
    num32 (BitVec.ofNat 32 ((floatFmt 0).signed neg (b * 2 ^ 23 + f))) = .fin neg (2 ^ 23 + f) (b - 150) := by
  have hnat : (BitVec.ofNat 32 ((floatFmt 0).signed neg (b * 2 ^ 23 + f))).toNat = (if neg then 2 ^ 31 else 0) + (b * 2 ^ 23 + f) := by
    rw [BitVec.toNat_ofNat]
    cases neg <;> simp [FloatFmt.signed, floatFmt] <;> omega
  have hsign : decide (((if neg then 2 ^ 31 else 0) + (b * 2 ^ 23 + f)) / 2 ^ 31 % 2 = 1) = neg := by
    cases neg <;> simp <;> omega
  rw [num32, hnat, value_normal hb hb' hf (by cases neg <;> simp <;> omega), hsign]

/-- A mantissa of 24 bits, or the next power of two, at a grid exponent in range is the value of its word. -/
theorem rational_num32_signed {neg : Bool} {t : Nat} {q : Int} (ht : 2 ^ 23 ≤ t) (ht' : t ≤ 2 ^ 24) (hq : -149 ≤ q) (hq' : q ≤ 103) :
    rational (num32 (BitVec.ofNat 32 ((floatFmt 0).signed neg ((q + 149).toNat * 2 ^ 23 + t)))) =
      some ((if neg then -1 else 1) * (t : ℚ) * 2 ^ q) := by
  obtain rfl | hlt := ht'.eq_or_lt
  · have hword : (q + 149).toNat * 2 ^ 23 + 2 ^ 24 = ((q + 149).toNat + 2) * 2 ^ 23 + 0 := by omega
    rw [hword, num32_signed (by omega) (by omega) (by omega), rational]
    have hexp : (((q + 149).toNat + 2 : Nat) : Int) - 150 = q + 1 := by omega
    rw [hexp, zpow_add_one₀ two_ne_zero]
    refine congrArg some ?_
    push_cast
    ring
  · have hword : (q + 149).toNat * 2 ^ 23 + t = ((q + 149).toNat + 1) * 2 ^ 23 + (t - 2 ^ 23) := by omega
    rw [hword, num32_signed (by omega) (by omega) (by omega), rational]
    have hexp : (((q + 149).toNat + 1 : Nat) : Int) - 150 = q := by omega
    rw [hexp, Nat.add_sub_cancel' ht]

/-- Rounding to the nearest multiple of a larger power of two is exact where the remainder is zero. -/
theorem roundTo_rne_of_lt {q e : Int} (m : Nat) (h : e < q) :
    ((roundTo .rne q m e).1 = m / 2 ^ (q - e).toNat ∨ (roundTo .rne q m e).1 = m / 2 ^ (q - e).toNat + 1) ∧
      ((roundTo .rne q m e).2 = false ↔ m % 2 ^ (q - e).toNat = 0) ∧
      (m % 2 ^ (q - e).toNat = 0 → (roundTo .rne q m e).1 = m / 2 ^ (q - e).toNat) := by
  unfold roundTo
  rw [if_neg (not_le.mpr h)]
  dsimp only
  split
  · next hrem => simp [hrem]
  · next hrem =>
    refine ⟨?_, by simp [hrem], fun h0 => absurd h0 hrem⟩
    split
    · exact .inr rfl
    · exact .inl rfl

theorem roundTo_of_le {md : Rounding} {q e : Int} (m : Nat) (h : q ≤ e) : roundTo md q m e = (m * 2 ^ (e - q).toNat, false) := if_pos h

/-- NX is not set exactly where the multiple that is taken is the value. -/
theorem roundTo_rne_exact_iff (q : Int) (m : Nat) (e : Int) :
    (roundTo .rne q m e).2 = false ↔ ((roundTo .rne q m e).1 : ℚ) * 2 ^ q = m * 2 ^ e := by
  obtain hle | hlt := le_or_gt q e
  · rw [roundTo_of_le m hle, two_zpow_eq hle]
    simp [mul_assoc]
  · obtain ⟨-, hflag, hexact⟩ := roundTo_rne_of_lt m hlt
    have hpos : (2 : ℚ) ^ e ≠ 0 := by positivity
    rw [hflag, two_zpow_eq hlt.le, ← mul_assoc, mul_left_inj' hpos]
    constructor
    · intro hrem
      rw [hexact hrem]
      exact_mod_cast Nat.div_mul_cancel (Nat.dvd_of_mod_eq_zero hrem)
    · intro hmul
      have hnat : (roundTo .rne q m e).1 * 2 ^ (q - e).toNat = m := by exact_mod_cast hmul
      exact Nat.mod_eq_zero_of_dvd (Dvd.intro_left _ hnat)

/-- At its grid exponent a number is rounded to 24 bits, or to the next power of two. -/
theorem roundTo_gridExp_bounds {m : Nat} (hm : m ≠ 0) (e : Int) :
    2 ^ 23 ≤ (roundTo .rne (gridExp m e) m e).1 ∧ (roundTo .rne (gridExp m e) m e).1 ≤ 2 ^ 24 := by
  have hlo := two_pow_bitLen_le hm
  have hhi := lt_two_pow_bitLen m
  have hlen := bitLen_pos hm
  obtain hle | hlt := le_or_gt (gridExp m e) e
  · rw [roundTo_of_le m hle]
    have hs : (e - gridExp m e).toNat = 24 - bitLen m := by unfold gridExp; omega
    have hlen' : bitLen m ≤ 24 := by unfold gridExp at hle; omega
    rw [hs]
    constructor
    · calc 2 ^ 23 = 2 ^ (bitLen m - 1) * 2 ^ (24 - bitLen m) := by rw [← pow_add]; congr 1; omega
        _ ≤ m * 2 ^ (24 - bitLen m) := Nat.mul_le_mul_right _ hlo
    · calc m * 2 ^ (24 - bitLen m) ≤ 2 ^ bitLen m * 2 ^ (24 - bitLen m) := Nat.mul_le_mul_right _ hhi.le
        _ = 2 ^ 24 := by rw [← pow_add]; congr 1; omega
  · have hs : (gridExp m e - e).toNat = bitLen m - 24 := by unfold gridExp; omega
    have hlen' : 24 < bitLen m := by unfold gridExp at hlt; omega
    obtain ⟨hmult, -, -⟩ := roundTo_rne_of_lt m hlt
    rw [hs] at hmult
    have hdiv : 2 ^ 23 ≤ m / 2 ^ (bitLen m - 24) := by
      rw [Nat.le_div_iff_mul_le (by positivity), ← pow_add]
      exact (Nat.pow_le_pow_right two_pos (by omega)).trans hlo
    have hdiv' : m / 2 ^ (bitLen m - 24) < 2 ^ 24 := by
      rw [Nat.div_lt_iff_lt_mul (by positivity), ← pow_add]
      exact hhi.trans_le (Nat.pow_le_pow_right two_pos (by omega))
    omega

theorem grid_eq_roundTo {m : Nat} (hm : m ≠ 0) {e : Int} (h : -149 ≤ gridExp m e) :
    (floatFmt 0).grid .rne m e =
      ((gridExp m e + 149).toNat * 2 ^ 23 + (roundTo .rne (gridExp m e) m e).1, (roundTo .rne (gridExp m e) m e).2) := by
  have hq : max (e + bitLen m - ((floatFmt 0).p + 1)) (floatFmt 0).qmin = gridExp m e := max_eq_left h
  have hmin : (gridExp m e - (floatFmt 0).qmin).toNat = (gridExp m e + 149).toNat := rfl
  rw [FloatFmt.grid, if_neg hm]
  dsimp only
  rw [hq, hmin]
  rfl

section
variable {m : Nat} {e : Int} (hm : m ≠ 0) (hlo : -149 ≤ gridExp m e) (hhi : gridExp m e ≤ 103)
include hm hlo hhi

/-- In the range of normal numbers the encoding does not reach that of an infinity. -/
theorem grid_le_top : ((floatFmt 0).grid .rne m e).1 ≤ (floatFmt 0).top := by
  obtain ⟨-, ht⟩ := roundTo_gridExp_bounds hm e
  rw [grid_eq_roundTo hm hlo]
  simp only [floatFmt]
  omega

/-- Rounding to FP32 in the range of normal numbers takes the nearest multiple at the grid exponent. -/
theorem rational_rne32 (neg : Bool) :
    rational (num32 (rne32 (.fin neg m e))) =
      some ((if neg then -1 else 1) * ((roundTo .rne (gridExp m e) m e).1 : ℚ) * 2 ^ gridExp m e) := by
  have hmin : min ((floatFmt 0).grid .rne m e).1 0x7F800000 = ((floatFmt 0).grid .rne m e).1 :=
    min_eq_left ((grid_le_top hm hlo hhi).trans (by decide))
  obtain ⟨ht, ht'⟩ := roundTo_gridExp_bounds hm e
  rw [rne32, round32]
  dsimp only
  rw [hmin, grid_eq_roundTo hm hlo]
  exact rational_num32_signed ht ht' hlo hhi

theorem round32_nx (neg : Bool) :
    (round32 (.fin neg m e)).2 &&& flagNX = if (roundTo .rne (gridExp m e) m e).2 then flagNX else 0 := by
  have hbig : decide ((floatFmt 0).top < ((floatFmt 0).grid .rne m e).1) = false :=
    decide_eq_false (not_lt.mpr (grid_le_top hm hlo hhi))
  rw [round32]
  dsimp only
  rw [hbig, grid_eq_roundTo hm hlo]
  dsimp only
  generalize decide (m ≠ 0 ∧ e + bitLen m - 1 < -126) = tiny
  cases (roundTo .rne (gridExp m e) m e).2 <;> cases tiny <;> rfl

/-- NX is set exactly where the rounded number is not the value. -/
theorem round32_nx_iff (neg : Bool) :
    (round32 (.fin neg m e)).2 &&& flagNX =
      if rational (num32 (rne32 (.fin neg m e))) = some ((if neg then -1 else 1) * (m : ℚ) * 2 ^ e) then 0 else flagNX := by
  have hsign : (if neg then -1 else 1 : ℚ) ≠ 0 := by cases neg <;> simp
  have hiff : rational (num32 (rne32 (.fin neg m e))) = some ((if neg then -1 else 1) * (m : ℚ) * 2 ^ e) ↔
      (roundTo .rne (gridExp m e) m e).2 = false := by
    rw [rational_rne32 hm hlo hhi, Option.some.injEq, mul_assoc, mul_assoc, mul_right_inj' hsign, roundTo_rne_exact_iff]
  rw [round32_nx hm hlo hhi]
  simp only [hiff]
  cases (roundTo .rne (gridExp m e) m e).2 <;> rfl

end

/-- A signed integer as a sign and a magnitude. -/
theorem sign_mul_natAbs (X : Int) : (if decide (X < 0) then -1 else 1) * (X.natAbs : ℚ) * 2 ^ (0 : Int) = X := by
  obtain hneg | hpos := lt_or_ge X 0
  · rw [decide_eq_true hneg, Nat.cast_natAbs, abs_of_neg hneg]
    simp
  · rw [decide_eq_false (not_lt.mpr hpos), Nat.cast_natAbs, abs_of_nonneg hpos]
    simp

/-- The finite value of an integer that ITOF rounds. -/
theorem ofInt_eq_fin (X : Int) : ofInt X 0 false = .fin (decide (X < 0)) X.natAbs 0 := by
  unfold ofInt
  split
  · next h => subst h; rfl
  · rfl

/-- ITOF sets NX exactly where the rounded number is not the integer. -/
theorem itof32_spec (x : Word) :
    itof32 x = (rne32 (.fin (decide (x.toInt < 0)) x.toInt.natAbs 0),
      if rational (num32 (rne32 (.fin (decide (x.toInt < 0)) x.toInt.natAbs 0))) = some (x.toInt : ℚ) then 0 else flagNX) := by
  rw [itof32, ofInt_eq_fin]
  refine Prod.ext rfl ?_
  dsimp only
  by_cases hx : x.toInt = 0
  · rw [hx]
    decide +kernel
  · have hm : x.toInt.natAbs ≠ 0 := Int.natAbs_ne_zero.mpr hx
    have hlen : bitLen x.toInt.natAbs ≤ 64 := bitLen_le (by have := x.toInt_lt; have := x.le_toInt; omega)
    have hlo : -149 ≤ gridExp x.toInt.natAbs 0 := by unfold gridExp; omega
    have hhi : gridExp x.toInt.natAbs 0 ≤ 103 := by unfold gridExp; omega
    rw [round32_nx_iff hm hlo hhi, sign_mul_natAbs]

theorem does_itof (d a : BitVec 6) (s : State) :
    let X := (s.sr a).toInt
    let r := rne32 (.fin (decide (X < 0)) X.natAbs 0)
    Does (.itof d a) s (Wrote (one d (r.setWidth 64)) (if rational (num32 r) = some (X : ℚ) then 0 else flagNX) s) := by
  intro X r
  obtain ⟨t, hexec, hwrote⟩ := writeFp_spec d (itof32 (s.sr a)) s
  rw [itof32_spec] at hwrote
  exact ⟨t, hexec, hwrote⟩

/-- `Claim.FloatComparesAndConversions`: by the kinds of the operands. -/
theorem comparesAndConversions : Claim.FloatComparesAndConversions := by
  intro d a b s x y nv
  refine ⟨?nan, ?finite, ?infinite, ?finiteInfinite, ?ftoiNan, ?ftoiInfinite, ?ftoiFinite, does_itof d a s⟩
  case nan => exact fun h => ⟨does_feq (feq32_nan h) rfl, does_flt (flt32_nan h) rfl⟩
  case finite =>
    intro p q hx hy
    have hxn := isNan_eq_false_of_rational hx
    have hyn := isNan_eq_false_of_rational hy
    exact ⟨does_feq (feq32_of_not_nan hxn hyn) (by rw [eq_of_rational hx hy, ofBool_decide]),
      does_flt (flt32_of_not_nan hxn hyn) (by rw [lt_of_rational hx hy, ofBool_decide])⟩
  case infinite =>
    intro n hx hy
    have hxn : isNan x = false := isNan_eq_false (by rw [hx]; exact Num.noConfusion)
    have hyn := isNan_eq_false hy
    exact ⟨does_feq (feq32_of_not_nan hxn hyn) (by rw [hx, inf_eq hy, ofBool_decide]),
      does_flt (flt32_of_not_nan hxn hyn) (by rw [hx, inf_lt hy, ofBool_decide])⟩
  case finiteInfinite =>
    intro p n hx hy
    have hxn := isNan_eq_false_of_rational hx
    have hyn : isNan y = false := isNan_eq_false (by rw [hy]; exact Num.noConfusion)
    refine ⟨does_feq (feq32_of_not_nan hxn hyn) (by rw [hy, eq_inf_of_rational n hx]; rfl),
      does_flt (flt32_of_not_nan hxn hyn) ?_⟩
    rw [hy, lt_inf_of_rational n hx]
    cases n <;> rfl
  case ftoiNan => exact fun h => does_ftoi (ftoi32_nan h)
  case ftoiInfinite => exact fun n h => does_ftoi (ftoi32_inf h)
  case ftoiFinite => exact fun p h => does_ftoi_of_rational h

/-! ### Words -/

theorem decode_isOk_of_pick_error {w : BitVec 32} {r : Reject} (h : pick w.toNat = .error r) : (decode w).isOk = false := by
  rw [decode, h]
  rfl

/-- A word that decodes is the word of the row that its opcode and its function value select. -/
theorem decode_isOk_of_ne_encode {w : BitVec 32} {i : Instr} (h : pick w.toNat = .ok i) (hw : i.encodeNat ≠ w.toNat) :
    (decode w).isOk = false := by
  rw [decode, h]
  dsimp only
  rw [if_neg hw]
  split <;> rfl

theorem pick_of_major_0E {w : Nat} (h : w % 128 = 0x0E) : pick w = pick0E w := by
  have hop : fld w 0 7 = 0x0E := by simpa [fld] using h
  unfold pick
  rw [hop]
  rfl

theorem pick_of_major_0F {w : Nat} (h : w % 128 = 0x0F) : pick w = pick0F w := by
  have hop : fld w 0 7 = 0x0F := by simpa [fld] using h
  unfold pick
  rw [hop]
  rfl

/-- The function value of a word is the number above its low 25 bits. -/
theorem fld_function (w : BitVec 32) : fld w.toNat 25 7 = w.toNat / 2 ^ 25 := by
  have := w.isLt
  unfold fld
  omega

theorem pick0E_error {w : BitVec 32} (h : 2 ≤ w.toNat / 2 ^ 25) : pick0E w.toNat = .error .function := by
  rw [pick0E, fld_function, if_neg (by omega), if_neg (by omega)]

theorem pick0F_error {w : BitVec 32} (h : 2 ≤ w.toNat / 2 ^ 25) : pick0F w.toNat = .error .function := by
  rw [pick0F, fld_function, if_neg (by omega), if_neg (by omega)]

/-- The b field of a word of format R without it is zero. -/
theorem pack6at7_6at13_field_b (f7 op : Nat) (hop : op < 128) (d a : BitVec 6) :
    pack6at7_6at13 (f7 * 2 ^ 25 + op) d a / 2 ^ 19 % 64 = 0 := by
  unfold pack6at7_6at13
  omega

/-- A word of FTOI's or ITOF's opcode whose b field is not zero is no word of either (R55, R60). -/
theorem decode_0F_field_b {w : BitVec 32} (hop : w.toNat % 128 = 0x0F) (hb : w.toNat / 2 ^ 19 % 64 ≠ 0) : (decode w).isOk = false := by
  have hpick := pick_of_major_0F hop
  rw [pick0F] at hpick
  split at hpick
  · refine decode_isOk_of_ne_encode hpick fun h => hb ?_
    rw [← h]
    exact pack6at7_6at13_field_b 0 0x0F (by decide) _ _
  split at hpick
  · refine decode_isOk_of_ne_encode hpick fun h => hb ?_
    rw [← h]
    exact pack6at7_6at13_field_b 1 0x0F (by decide) _ _
  · exact decode_isOk_of_pick_error hpick

/-- `Claim.FloatWords`: the words, and the words of their opcodes that are none. -/
theorem floatWords : FloatWords := by
  refine ⟨?words, fun w => ⟨?op0E, ?op0F⟩⟩
  case words =>
    intro d a b r
    exact ⟨encode_formatR 0 0x0E rfl (by decide) (by decide), encode_formatR 1 0x0E rfl (by decide) (by decide),
      encode_formatR_unary 0 0x0F rfl (by decide) (by decide), encode_formatR_unary 1 0x0F rfl (by decide) (by decide)⟩
  case op0E => exact fun hop hf => decode_isOk_of_pick_error ((pick_of_major_0E hop).trans (pick0E_error hf))
  case op0F =>
    rintro hop (hf | hb)
    · exact decode_isOk_of_pick_error ((pick_of_major_0F hop).trans (pick0F_error hf))
    · exact decode_0F_field_b hop hb

/-- Settles O9: comparisons by value, FTOI by the number that truncation takes, ITOF by one rounding, and the words. -/
theorem floatComparesAndConversions : Obligations.FloatComparesAndConversions :=
  ⟨comparesAndConversions, floatWords⟩

end Sys2Proof.Machine
end

section
/-! SUPPORT. O11: branches and jumps (R102, R103). -/

namespace Sys2Proof.Machine

open Claim

/-! ### Conditions -/

/-- Some lane of a predicate is set where it is not zero. -/
theorem exists_getLsbD_iff (p : BitVec 32) : (∃ i, p.getLsbD i = true) ↔ p ≠ 0 := by
  constructor
  · rintro ⟨i, hi⟩ rfl
    simp at hi
  · intro h
    by_contra hn
    push Not at hn
    exact h (BitVec.eq_of_getLsbD_eq fun i _ => by simp [hn i])

theorem forall_getLsbD_true_iff (p : BitVec 32) : (∀ i, i < 32 → p.getLsbD i = true) ↔ p = BitVec.allOnes 32 := by
  constructor
  · intro h
    exact BitVec.eq_of_getLsbD_eq fun i hi => by rw [h i hi, BitVec.getLsbD_allOnes, decide_eq_true hi]
  · rintro rfl i hi
    rw [BitVec.getLsbD_allOnes, decide_eq_true hi]

theorem forall_getLsbD_false_iff (p : BitVec 32) : (∀ i, p.getLsbD i = false) ↔ p = 0 := by
  constructor
  · intro h
    exact BitVec.eq_of_getLsbD_eq fun i _ => by simp [h i]
  · rintro rfl i
    simp

/-- The values of a field of three bits. -/
theorem bitVec3_cases : ∀ n : BitVec 3, n = 0 ∨ n = 1 ∨ n = 2 ∨ n = 3 ∨ n = 4 ∨ n = 5 ∨ n = 6 ∨ n = 7 := by decide

/-- The condition of BR is the model's comparison (R102): one case for each value of the field. -/
theorem compares_iff (n : BitVec 3) (x y : Word) : compares n x y ↔ branchTaken n x y = true := by
  unfold compares branchTaken
  obtain rfl | rfl | rfl | rfl | rfl | rfl | rfl | rfl := bitVec3_cases n <;> simp [BitVec.slt, BitVec.ult]

/-- The condition of BRP is the model's test of the predicate (R102). -/
theorem tests_iff (n : BitVec 3) (p : BitVec 32) : tests n p ↔ predTaken n p = true := by
  unfold tests predTaken
  rw [exists_getLsbD_iff, forall_getLsbD_true_iff, forall_getLsbD_false_iff]
  obtain rfl | rfl | rfl | rfl | rfl | rfl | rfl | rfl := bitVec3_cases n <;> simp

/-! ### Targets -/

/-- A word plus a sign-extended immediate is the sum of their integers modulo 2^64. -/
theorem add_sext (x : Word) {n : Nat} (i : BitVec n) : x + sext i = BitVec.ofInt 64 (x.toNat + i.toInt) := by
  rw [sext_eq_ofInt, BitVec.ofInt_add, BitVec.ofInt_natCast, BitVec.ofNat_toNat, BitVec.setWidth_eq]

theorem relTarget_eq_target (pc : Word) {n : Nat} (o : BitVec n) : relTarget pc o = target pc o.toInt := by
  rw [relTarget, target, sext_eq_ofInt, BitVec.ofInt_add, BitVec.ofInt_mul, BitVec.ofInt_natCast, BitVec.ofNat_toNat, BitVec.setWidth_eq,
    BitVec.mul_comm]
  rfl

/-! ### Branches and jumps -/

/-- Completing is the control transfer to the next instruction. -/
theorem jumped_retire (s : State) : Jumped none_ (s.me.pc + 4) s s.retire := jumped_jump s (s.me.pc + 4)

/-- A write of s0 is none. -/
theorem Jumped.of_zero {v pc : Word} {s t : State} (h : Jumped (one 0 v) pc s t) : Jumped none_ pc s t :=
  { h with scalars := fun n hn => by rw [h.scalars n hn, one, if_neg (by simpa using hn), none_] }

theorem does_br_taken {a b : BitVec 6} {n : BitVec 3} {o : BitVec 10} {s : State} (h : compares n (s.sr a) (s.sr b)) :
    Does (.br a b n o) s (Jumped none_ (target s.me.pc o.toInt) s) := by
  refine ⟨_, congrArg Host.Outcome.next (if_pos ((compares_iff _ _ _).mp h)), ?_⟩
  rw [← relTarget_eq_target]
  exact jumped_jump s _

theorem does_br_untaken {a b : BitVec 6} {n : BitVec 3} {o : BitVec 10} {s : State} (h : ¬ compares n (s.sr a) (s.sr b)) :
    Does (.br a b n o) s (Jumped none_ (s.me.pc + 4) s) :=
  ⟨_, congrArg Host.Outcome.next (if_neg (mt (compares_iff _ _ _).mpr h)), jumped_retire s⟩

theorem does_brp_taken {a : BitVec 6} {n : BitVec 3} {o : BitVec 10} {s : State} (h : tests n (s.pr a.toNat)) :
    Does (.brp a n o) s (Jumped none_ (target s.me.pc o.toInt) s) := by
  refine ⟨_, congrArg Host.Outcome.next (if_pos ((tests_iff _ _).mp h)), ?_⟩
  rw [← relTarget_eq_target]
  exact jumped_jump s _

theorem does_brp_untaken {a : BitVec 6} {n : BitVec 3} {o : BitVec 10} {s : State} (h : ¬ tests n (s.pr a.toNat)) :
    Does (.brp a n o) s (Jumped none_ (s.me.pc + 4) s) :=
  ⟨_, congrArg Host.Outcome.next (if_neg (mt (tests_iff _ _).mpr h)), jumped_retire s⟩

theorem does_jal (d : BitVec 6) (i : BitVec 19) (s : State) :
    Does (.jal d i) s (Jumped (one d (s.me.pc + 4)) (target s.me.pc i.toInt) s) := by
  refine ⟨_, rfl, ?_⟩
  rw [← relTarget_eq_target]
  exact jumped_setSr_jump s d _ _

theorem does_jalr_aligned {d a : BitVec 6} {i : BitVec 13} {s : State} (h : (s.sr a + sext i).toNat % 4 = 0) :
    Does (.jalr d a i) s (Jumped (one d (s.me.pc + 4)) (s.sr a + sext i) s) :=
  ⟨_, if_neg (not_not.mpr h), jumped_setSr_jump s d _ _⟩

theorem does_jalr_misaligned {d a : BitVec 6} {i : BitVec 13} {s : State} (h : (s.sr a + sext i).toNat % 4 ≠ 0)
    (hactive : s.me.run.active = false) (hordered : s.me.run.ordered = false) :
    Does (.jalr d a i) s (Trapped s.cur causeALIGN (s.sr a + sext i) s.me.pc s) :=
  ⟨_, if_pos h, trapped_trap s _ _ hordered hactive⟩

/-- `Claim.Branches`: a branch is taken where its condition holds, and JAL always is. -/
theorem branches : Branches := fun d _ _ _ _ i s =>
  ⟨does_br_taken, does_br_untaken, does_brp_taken, does_brp_untaken, does_jal d i s⟩

/-- `Claim.IndirectJump`: the two outcomes of JALR's check of its target. -/
theorem indirectJump : IndirectJump := by
  intro d a i s t
  have ht : s.sr a + sext i = t := add_sext _ i
  rw [← ht]
  exact ⟨does_jalr_aligned, does_jalr_misaligned⟩

/-! ### Words -/

/-- RET, the return through s1, is JALR s0, s1, 0: it jumps to s1 and writes nothing (R57, R103). -/
theorem does_ret {s : State} (h : (s.sr 1).toNat % 4 = 0) : Does (.jalr 0 1 0) s (Jumped none_ (s.sr 1) s) := by
  have ht : s.sr 1 + sext (0 : BitVec 13) = s.sr 1 := BitVec.add_zero _
  obtain ⟨t, hexec, hjump⟩ := does_jalr_aligned (d := 0) (a := 1) (i := 0) (s := s) (by rwa [ht])
  rw [ht] at hjump
  exact ⟨t, hexec, hjump.of_zero⟩

/-- `Claim.JumpWords`: the formats J and I, and the return. -/
theorem jumpWords : JumpWords := by
  refine ⟨fun d a i j => ⟨?jal, ?jalr⟩, by decide, fun s => does_ret⟩
  case jal => exact encode_formatJ 0x11 rfl (by decide)
  case jalr => exact encode_formatI 0x12 rfl (by decide)

/-- Settles O11: branches, JAL and JALR, by the condition of each transfer and JALR's check of its target. -/
theorem controlTransfers : Obligations.ControlTransfers := ⟨branches, jumpWords, indirectJump⟩

end Sys2Proof.Machine
end

section
/-! SUPPORT. Chapter 14: what its instructions share: masks of lanes, registers read clean, vector and predicate results, writes of the
register store by index, and the words of format V. -/

namespace Sys2Proof.Machine

open Claim

/-! ### Performed instructions -/

/-- What an instruction is shown to do includes all that follows from it. -/
theorem Does.imp {i : Instr} {s : State} {P Q : State → Prop} (h : Does i s P) (hPQ : ∀ t, P t → Q t) : Does i s Q := by
  obtain ⟨t, hexec, hP⟩ := h
  exact ⟨t, hexec, hPQ t hP⟩

/-! ### Masks of lanes -/

/-- Bits below n add up to a number of n bits. -/
theorem sum_lanes_lt (f : Nat → Bool) (n : Nat) : ((List.range n).map fun i => if f i then 2 ^ i else 0).sum < 2 ^ n := by
  induction n with
  | zero => exact Nat.one_pos
  | succ n ih =>
    rw [List.range_succ, List.map_append, List.sum_append, List.map_singleton, List.sum_singleton, Nat.pow_succ]
    split <;> omega

theorem testBit_sum_lanes (f : Nat → Bool) (n i : Nat) :
    ((List.range n).map fun i => if f i then 2 ^ i else 0).sum.testBit i = (decide (i < n) && f i) := by
  induction n with
  | zero => simp
  | succ n ih =>
    have hlt := sum_lanes_lt f n
    rw [List.range_succ, List.map_append, List.sum_append, List.map_singleton, List.sum_singleton]
    generalize ((List.range n).map fun i => if f i then 2 ^ i else 0).sum = x at ih hlt
    cases hf : f n with
    | false =>
      obtain rfl | hi := eq_or_ne i n
      · simp [ih, hf]
      · have hlt_iff : i < n + 1 ↔ i < n := by omega
        simp only [Bool.false_eq_true, if_false, Nat.add_zero, ih, hlt_iff]
    | true =>
      rw [if_pos rfl, Nat.add_comm]
      obtain hi | rfl | hi := lt_trichotomy i n
      · rw [Nat.testBit_two_pow_add_gt hi, ih, decide_eq_true hi, decide_eq_true (Nat.lt_succ_of_lt hi)]
      · rw [Nat.testBit_two_pow_add_eq, Nat.testBit_lt_two_pow hlt, decide_eq_true (Nat.lt_succ_self i), hf]
        rfl
      · have hx : 2 ^ n + x < 2 ^ i := calc
          2 ^ n + x < 2 ^ (n + 1) := by rw [Nat.pow_succ]; omega
          _ ≤ 2 ^ i := Nat.pow_le_pow_right (by decide) hi
        rw [Nat.testBit_lt_two_pow hx, decide_eq_false (by omega), Bool.false_and]

theorem getLsbD_lanesThat (f : Nat → Bool) (i : Nat) : (lanesThat f).getLsbD i = (decide (i < 32) && f i) := by
  rw [lanesThat, BitVec.getLsbD_ofNat, testBit_sum_lanes, ← Bool.and_assoc, Bool.and_self]

/-- The model's mask, which adds up the bits from the lowest, is the mask of the lanes where f holds. -/
theorem maskOf_eq_lanesThat (f : Nat → Bool) : maskOf f = lanesThat f := by
  have hfold (l : List Nat) (m : Nat) :
      l.foldl (fun m i => if f i then m + 2 ^ i else m) m = m + (l.map fun i => if f i then 2 ^ i else 0).sum := by
    induction l generalizing m with
    | nil => rfl
    | cons i l ih =>
      rw [List.foldl_cons, ih, List.map_cons, List.sum_cons]
      split <;> omega
  rw [maskOf, lanesThat, hfold, Nat.zero_add]

/-- A mask under a predicate holds the active lanes where f holds. -/
theorem and_maskOf (m : BitVec 32) (f : Nat → Bool) : m &&& maskOf f = lanesThat fun i => m.getLsbD i && f i := by
  apply BitVec.eq_of_getLsbD_eq
  intro i hi
  rw [BitVec.getLsbD_and, maskOf_eq_lanesThat, getLsbD_lanesThat, getLsbD_lanesThat, decide_eq_true hi, Bool.true_and, Bool.true_and]

theorem oneLane_eq_twoPow (i : Nat) : oneLane i = BitVec.twoPow 32 (i % 32) := rfl

theorem getLsbD_oneLane {i : Nat} (hi : i < 32) (j : Nat) : (oneLane i).getLsbD j = decide (i = j) := by
  rw [oneLane_eq_twoPow, Nat.mod_eq_of_lt hi, BitVec.getLsbD_twoPow, decide_eq_true hi, Bool.true_and]

theorem mem_activeLanes {m : BitVec 32} {i : Nat} : i ∈ activeLanes m ↔ i < 32 ∧ m.getLsbD i = true := by
  rw [activeLanes, List.mem_filter, List.mem_range]

/-! ### Registers read clean (R285) -/

/-- A register without an uncorrectable lane is clean under every mask. -/
theorem clean_of_whole {s : State} {regs whole : List (Nat × BitVec 32)} (h : Clean s whole)
    (hregs : ∀ x ∈ regs, (x.1, BitVec.allOnes 32) ∈ whole) : Clean s regs := by
  intro x hx
  have hbad := h _ (hregs x hx)
  rw [BitVec.and_allOnes] at hbad
  exact (congrArg (· &&& x.2) hbad).trans BitVec.zero_and

theorem clean_of_subset {s : State} {regs more : List (Nat × BitVec 32)} (h : Clean s more) (hsub : regs ⊆ more) : Clean s regs :=
  fun x hx => h x (hsub hx)

/-- Words that are not marked are clean, whatever the lanes that are read. -/
theorem clean_map {s : State} {l : List Nat} {r : Nat → Nat} (m : Nat → BitVec 32)
    (h : ∀ i ∈ l, SMap.getD s.badRegs (threadCore s.cur * 4096 + s.phys s.cur (r i)) 0 = 0) : Clean s (l.map fun i => (r i, m i)) := by
  intro x hx
  obtain ⟨i, hi, rfl⟩ := List.mem_map.mp hx
  exact (congrArg (· &&& m i) (h i hi)).trans BitVec.zero_and

/-! ### Predicate and vector results -/

theorem does_writePred {i : Instr} {d : BitVec 6} {v w : BitVec 32} {s : State} (h : exec i s = writePred d w s) (hw : w = v) :
    Does i s (WrotePred d v s) := by
  obtain ⟨t, hexec, hwrote⟩ := writePred_spec d w s
  exact ⟨t, h.trans hexec, hw ▸ hwrote⟩

/-- A vector result is described by the values of the lanes that are written. -/
theorem WroteVec.congr {r : Nat} {m : BitVec 32} {f g : Nat → W32} {s t : State} (h : WroteVec r m f s t)
    (hfg : ∀ i, i < 32 → m.getLsbD i = true → f i = g i) : WroteVec r m g s t :=
  { h with
    lanes := fun i hi => (h.lanes i hi).trans <| by
      split
      · next hm => exact hfg i hi hm
      · rfl }

theorem does_writeVec {i : Instr} {d : BitVec 6} {m : BitVec 32} {v : Vec} {f : Nat → W32} {s : State}
    (h : exec i s = writeVec d m v s) (hf : ∀ i, i < 32 → m.getLsbD i = true → lane v i = f i) : Does i s (WroteVec d.toNat m f s) := by
  obtain ⟨t, hexec, hwrote⟩ := writeVec_spec d m v s
  exact ⟨t, h.trans hexec, hwrote.congr hf⟩

/-- A vector result that is given lane by lane. -/
theorem does_writeLanes {i : Instr} {d : BitVec 6} {m : BitVec 32} {f g : Nat → W32} {s : State}
    (h : exec i s = writeVec d m (ofLanes f) s) (hfg : ∀ i, m.getLsbD i = true → f i = g i) : Does i s (WroteVec d.toNat m g s) :=
  does_writeVec h fun i hi hm => (lane_ofLanes f hi).trans (hfg i hm)

/-! ### Writes of the register store -/

/-- Only registers of the list in the store of the core of the thread that issues, with what an open run keeps of them and their marks,
differ. -/
structure OnlyStore (ks : List Nat) (s t : State) : Prop where
  thread : ∃ u, t.me = { s.me with run := { s.me.run with undoRegs := u } }
  others : ∀ k, k ∉ ks → SMap.getD (t.core (threadCore s.cur)).store k 0 = SMap.getD (s.core (threadCore s.cur)).store k 0
  core : { t.core (threadCore s.cur) with
    store := (s.core (threadCore s.cur)).store, dirty := (s.core (threadCore s.cur)).dirty } = s.core (threadCore s.cur)
  threads : ∀ v, v ≠ s.cur → t.thr v = s.thr v
  cores : ∀ h, h ≠ threadCore s.cur → t.core h = s.core h
  rest : { t with threads := s.threads, cores := s.cores, badRegs := s.badRegs } = s
  bytes : SameBytes s t

theorem OnlyStore.cur {ks : List Nat} {s t : State} (h : OnlyStore ks s t) : t.cur = s.cur := by
  have hcur := congrArg State.cur h.rest
  exact hcur

/-- The window stays where it is. -/
theorem OnlyStore.phys {ks : List Nat} {s t : State} (h : OnlyStore ks s t) (r : Nat) : t.phys s.cur r = s.phys s.cur r := by
  obtain ⟨u, hme⟩ := h.thread
  rw [State.me, h.cur] at hme
  rw [State.phys, winStart, hme]
  rfl

theorem OnlyStore.refl (s : State) : OnlyStore [] s s where
  thread := ⟨_, rfl⟩
  others _ _ := rfl
  core := rfl
  threads _ _ := rfl
  cores _ _ := rfl
  rest := rfl
  bytes _ := rfl

theorem OnlyStore.trans {ks ls : List Nat} {s t r : State} (h : OnlyStore ks s t) (k : OnlyStore ls t r) : OnlyStore (ks ++ ls) s r := by
  have hcur := h.cur
  obtain ⟨u, hu⟩ := h.thread
  obtain ⟨w, hw⟩ := k.thread
  have hothers := k.others
  have hcore := k.core
  have hthreads := k.threads
  have hcores := k.cores
  rw [hcur] at hothers hcore hthreads hcores
  refine ⟨⟨w, by rw [hw, hu]⟩, fun x hx => ?others, ?core, fun v hv => (hthreads v hv).trans (h.threads v hv),
    fun g hg => (hcores g hg).trans (h.cores g hg), ?rest, fun l => (k.bytes l).trans (h.bytes l)⟩
  case others =>
    rw [List.mem_append, not_or] at hx
    exact (hothers x hx.2).trans (h.others x hx.1)
  case core =>
    conv_rhs => rw [← h.core, ← hcore]
  case rest =>
    conv_rhs => rw [← h.rest, ← k.rest]

theorem onlyStore_setVec (s : State) (r : Nat) (m : BitVec 32) (v : Vec) : OnlyStore [s.phys s.cur r] s (s.setVec r m v) where
  thread := by
    obtain ⟨u, hu⟩ := setVecAt_thr s s.cur r m v
    refine ⟨u, ?_⟩
    rw [State.me, State.setVec, setVecAt_cur]
    exact hu
  others k hk := by
    rw [State.setVec, setVecAt_core]
    exact SMap.getD_set_ne _ _ _ (by simpa using hk)
  core := by rw [State.setVec, setVecAt_core]
  threads _ hv := setVecAt_thr_ne s s.cur r m v hv
  cores _ hg := setVecAt_core_ne s s.cur r m v hg
  rest := setVecAt_rest s s.cur r m v
  bytes _ := by rw [State.setVec, setVecAt_mem]

/-- Completing after writes of the store. -/
theorem OnlyStore.retire_thr {ks : List Nat} {s t : State} (h : OnlyStore ks s t) : ∃ u, t.retire.thr s.cur =
    { s.me with run := { s.me.run with undoRegs := u }, pc := s.me.pc + 4, insn := s.me.insn + 1, wait := .ready } := by
  obtain ⟨u, hu⟩ := h.thread
  rw [State.me, h.cur] at hu
  refine ⟨u, ?_⟩
  rw [State.retire, State.retireAt, h.cur, State.thr_setThr_self, hu]

theorem OnlyStore.retire_thr_ne {ks : List Nat} {s t : State} (h : OnlyStore ks s t) {v : Nat} (hv : v ≠ s.cur) :
    t.retire.thr v = s.thr v := by
  rw [State.retire, State.retireAt, h.cur, State.thr_setThr_ne _ _ hv, h.threads v hv]

theorem wroteRegs_retire {ks : List Nat} {s t : State} (h : OnlyStore ks s t) : WroteRegs none_ s.me.gens ks s t.retire := by
  obtain ⟨u, hthr⟩ := h.retire_thr
  refine ⟨?_, ?_, ?_, ?_, ?_, ?_, ?_, h.others, h.core, fun _ => h.retire_thr_ne, h.cores, h.rest, h.bytes⟩ <;> rw [hthr]
  · exact fun _ _ => rfl
  · rfl

theorem wroteVec_retire {r : Nat} {m : BitVec 32} {f : Nat → W32} {s t : State} (h : OnlyStore [s.phys s.cur r] s t)
    (hlanes : ∀ i, i < 32 → lane (t.vecAt s.cur r) i = if m.getLsbD i then f i else lane (s.vecAt s.cur r) i)
    (hbad : ∀ k, SMap.getD t.badRegs k 0 =
      if k = threadCore s.cur * 4096 + s.phys s.cur r then SMap.getD s.badRegs k 0 &&& ~~~m else SMap.getD s.badRegs k 0) :
    WroteVec r m f s t.retire := by
  obtain ⟨u, hthr⟩ := h.retire_thr
  have hphys : t.retire.phys s.cur r = t.phys s.cur r := by
    rw [h.phys, State.phys, winStart, hthr]
    rfl
  refine ⟨?lanes, fun k hk => h.others k (by simpa using hk), h.core, ?_, ?_, ?_, ?_, fun _ => h.retire_thr_ne, h.cores, hbad,
    h.rest, h.bytes⟩
  case lanes =>
    intro i hi
    rw [← hlanes i hi, State.vecAt, hphys]
    rfl
  all_goals rw [hthr]

/-- One lane of the store after a window register is written. -/
theorem lane_store_setVec (s : State) (r : Nat) (m : BitVec 32) (v : Vec) (k : Nat) {i : Nat} (hi : i < 32) :
    lane (SMap.getD ((s.setVec r m v).core (threadCore s.cur)).store k 0) i =
      if s.phys s.cur r = k ∧ m.getLsbD i = true then lane v i else lane (SMap.getD (s.core (threadCore s.cur)).store k 0) i := by
  obtain rfl | hk := eq_or_ne k (s.phys s.cur r)
  · have h := lane_setVecAt s s.cur r m v hi
    rw [State.vecAt, setVecAt_phys] at h
    simp only [true_and]
    exact h
  · rw [(onlyStore_setVec s r m v).others k (by simpa using hk), if_neg fun h => hk h.1.symm]

/-! ### Words of format V (R54, R55, R60) -/

/-- The word of format V: f4 [31:28], p [27:25], b [24:19], a [18:13], d [12:7] and op [6:0] (R54). -/
theorem encode_formatV {i : Instr} {d a b : BitVec 6} {p : BitVec 3} (f4 op : Nat)
    (h : i.encodeNat = pack6at7_6at13_6at19_3at25 (f4 * 2 ^ 28 + op) d a b p) (hf : f4 < 16) (hop : op < 128) :
    (encode i).toNat = f4 * 2 ^ 28 + p.toNat * 2 ^ 25 + b.toNat * 2 ^ 19 + a.toNat * 2 ^ 13 + d.toNat * 2 ^ 7 + op := by
  unfold pack6at7_6at13_6at19_3at25 at h
  refine encode_toNat (h.trans ?_) ?_ <;> omega

/-! The formats that leave out p, b or a are format V with zero fields. -/

section
variable {i : Instr} {d a b : BitVec 6} {p : BitVec 3} {k : Nat}

theorem formatV_of_no_p (h : i.encodeNat = pack6at7_6at13_6at19 k d a b) : i.encodeNat = pack6at7_6at13_6at19_3at25 k d a b 0 :=
  h.trans (by simp [pack6at7_6at13_6at19, pack6at7_6at13_6at19_3at25])

theorem formatV_of_no_b (h : i.encodeNat = pack6at7_6at13_3at25 k d a p) : i.encodeNat = pack6at7_6at13_6at19_3at25 k d a 0 p :=
  h.trans (by simp [pack6at7_6at13_3at25, pack6at7_6at13_6at19_3at25])

theorem formatV_of_no_p_b (h : i.encodeNat = pack6at7_6at13 k d a) : i.encodeNat = pack6at7_6at13_6at19_3at25 k d a 0 0 :=
  h.trans (by simp [pack6at7_6at13, pack6at7_6at13_6at19_3at25])

theorem formatV_of_no_p_b_a (h : i.encodeNat = pack6at7 k d) : i.encodeNat = pack6at7_6at13_6at19_3at25 k d 0 0 0 :=
  h.trans (by simp [pack6at7, pack6at7_6at13_6at19_3at25])

end

/-- The f4 field of a word is the number above its low 28 bits. -/
theorem fld_f4 (w : BitVec 32) : fld w.toNat 28 4 = w.toNat / 2 ^ 28 := by
  have := w.isLt
  unfold fld
  omega

/-- The fields of a word of format V. -/
theorem formatV_fields {i : Instr} {d a b : BitVec 6} {p : BitVec 3} {w : Nat} (f4 op : Nat)
    (hw : i.encodeNat = w) (h : i.encodeNat = pack6at7_6at13_6at19_3at25 (f4 * 2 ^ 28 + op) d a b p) (hop : op < 128) :
    w / 2 ^ 25 % 8 = p.toNat ∧ w / 2 ^ 19 % 64 = b.toNat ∧ w / 2 ^ 7 % 64 = d.toNat := by
  rw [← hw, h, pack6at7_6at13_6at19_3at25]
  omega

/-- A word that decodes is the word of the row that its opcode selects, and the row's registers exist (R68). -/
theorem of_decode_isOk {w : BitVec 32} (h : (decode w).isOk = true) :
    ∃ i, pick w.toNat = .ok i ∧ i.encodeNat = w.toNat ∧ i.registersOk = true := by
  cases hpick : pick w.toNat with
  | error r =>
    rw [decode_isOk_of_pick_error hpick] at h
    cases h
  | ok i =>
    have hw : i.encodeNat = w.toNat := by
      by_contra hne
      rw [decode_isOk_of_ne_encode hpick hne] at h
      cases h
    refine ⟨i, rfl, hw, ?_⟩
    rw [decode, hpick] at h
    dsimp only at h
    rw [if_pos hw] at h
    cases hr : i.registersOk with
    | true => rfl
    | false =>
      rw [hr] at h
      split at h <;> cases h

theorem decode_isOk_eq_false {w : BitVec 32}
    (h : ∀ i, pick w.toNat = .ok i → i.encodeNat = w.toNat → i.registersOk = true → False) : (decode w).isOk = false := by
  by_contra hok
  obtain ⟨i, hpick, hw, hr⟩ := of_decode_isOk (Bool.of_not_eq_false hok)
  exact h i hpick hw hr

end Sys2Proof.Machine
end

section
/-! SUPPORT. O30: compares, predicates, selections, lane moves and indirect access to the register store (R202 to R204, R212 to R215). -/

namespace Sys2Proof.Machine

open Claim

/-! ### Compares and predicates (R202, R203) -/

/-- A compare writes the mask of the active lanes where its relation holds. -/
theorem does_vecCmp {i : Instr} {d a b : BitVec 6} {p : BitVec 3} {s : State} (f : W32 → W32 → Bool)
    (hclean : Clean s [(a.toNat, s.mask p), (b.toNat, s.mask p)]) (h : exec i s = vecCmp d a b p f s) :
    Does i s (WrotePred d (lanesThat fun k => (s.mask p).getLsbD k && f (at_ s a k) (at_ s b k)) s) :=
  does_writePred (h.trans (readable_clean hclean _)) (and_maskOf _ _)

/-- `Claim.ComparesAndPredicates`: each compare is its relation on the lanes, and each predicate operation its function of the bits. -/
theorem comparesAndPredicates : ComparesAndPredicates := by
  refine fun d a b p s => ⟨fun hclean => ⟨?ceq, ?cne, ?clt, ?cle, ?cltu, ?cleu, ?fceq, ?fclt, ?fcle, ?fcun⟩, ?pand, ?por, ?pxor, ?pnot⟩
  case ceq => exact does_vecCmp (fun x y => decide (x = y)) hclean rfl
  case cne => exact does_vecCmp (fun x y => decide (x ≠ y)) hclean rfl
  case clt => exact does_vecCmp BitVec.slt hclean rfl
  case cle => exact does_vecCmp BitVec.sle hclean rfl
  case cltu => exact does_vecCmp BitVec.ult hclean rfl
  case cleu => exact does_vecCmp BitVec.ule hclean rfl
  case fceq => exact does_vecCmp (fun x y => (num32 x).eq (num32 y)) hclean rfl
  case fclt => exact does_vecCmp (fun x y => (num32 x).lt (num32 y)) hclean rfl
  case fcle => exact does_vecCmp (fun x y => (num32 x).lt (num32 y) || (num32 x).eq (num32 y)) hclean rfl
  case fcun => exact does_vecCmp (fun x y => isNan x || isNan y) hclean rfl
  case pand | por | pxor => exact does_writePred rfl rfl
  case pnot => exact does_writePred rfl BitVec.not_def

/-! ### Permute and broadcast (R203, R212, R213) -/

section
variable {d a b : BitVec 6} {p : BitVec 3} {s : State}

/-- VSEL reads each register under its own lanes only. -/
theorem does_vsel (h : Clean s [(a.toNat, s.mask p), (b.toNat, ~~~(s.mask p))]) :
    Does (.vsel d a b p) s (WroteVec d.toNat (BitVec.allOnes 32)
      (fun i => if (s.mask p).getLsbD i then at_ s a i else at_ s b i) s) :=
  does_writeLanes (readable_clean h _) fun _ _ => rfl

theorem does_vperm (h : Clean s [(a.toNat, BitVec.allOnes 32), (b.toNat, BitVec.allOnes 32)]) :
    Does (.vperm d a b) s (WroteVec d.toNat (BitVec.allOnes 32) (fun i => at_ s a ((at_ s b i).toNat % 32)) s) :=
  does_writeLanes (readable_clean (clean_of_whole h (by simp [allLanes])) _) fun _ _ => rfl

theorem does_vrot (h : Clean s [(a.toNat, BitVec.allOnes 32)]) :
    Does (.vrot d a b) s (WroteVec d.toNat (BitVec.allOnes 32) (fun i => at_ s a ((i + (s.sr b).toNat % 32) % 32)) s) :=
  does_writeLanes (readable_clean h _) fun _ _ => rfl

theorem does_vextr (h : Clean s [(a.toNat, BitVec.allOnes 32)]) :
    Does (.vextr d a b) s (Wrote (one d ((at_ s a ((s.sr b).toNat % 32)).setWidth 64)) 0 s) :=
  does_scalar (readable_clean (clean_of_whole h (by simp)) _) rfl

end

theorem oneLane_mod (k : Nat) : oneLane (k % 32) = BitVec.ofNat 32 (2 ^ (k % 32)) := by
  rw [oneLane_eq_twoPow, Nat.mod_mod]
  exact BitVec.eq_of_toNat_eq (BitVec.toNat_twoPow _ _)

theorem does_vinsr (d a b : BitVec 6) (s : State) :
    Does (.vinsr d a b) s
      (WroteVec d.toNat (BitVec.ofNat 32 (2 ^ ((s.sr b).toNat % 32))) (fun _ => BitVec.ofNat 32 (s.sr a).toNat) s) := by
  rw [← oneLane_mod]
  exact does_writeLanes rfl fun _ _ => (BitVec.ofNat_toNat 32 _).symm

/-- VPOPC counts the set lanes. -/
theorem does_vpopc (d a : BitVec 6) (s : State) :
    Does (.vpopc d a) s
      (Wrote (one d (BitVec.ofNat 64 ((List.range 32).countP fun i => (s.me.p a.toNat).getLsbD i))) 0 s) :=
  does_scalar rfl (congrArg (BitVec.ofNat 64) List.countP_eq_length_filter.symm)

/-! ### Moves by index (R214) -/

section
variable {d a : BitVec 6} {s : State}

theorem does_vmovi (hr : (s.sr a).toNat < winSize s.cur s.me) (h : Clean s [((s.sr a).toNat, BitVec.allOnes 32)]) :
    Does (.vmovi d a) s (WroteVec d.toNat (BitVec.allOnes 32) (fun i => lane (s.vecAt s.cur (s.sr a).toNat) i) s) :=
  does_writeVec ((if_neg (Nat.not_le.mpr hr)).trans (readable_clean h _)) fun _ _ _ => rfl

theorem does_vstoi (hr : (s.sr a).toNat < winSize s.cur s.me) (h : Clean s [(d.toNat, BitVec.allOnes 32)]) :
    Does (.vstoi d a) s (WroteVec (s.sr a).toNat (BitVec.allOnes 32) (at_ s d) s) :=
  ⟨_, (if_neg (Nat.not_le.mpr hr)).trans (readable_clean h _), wroteVec_retire (onlyStore_setVec s _ _ _)
    (fun _ => lane_setVecAt s s.cur _ _ _) (setVecAt_bad s s.cur _ _ _)⟩

/-- An index at or beyond W stops both, and nothing else is done. -/
theorem does_moveByIndex_trap (hr : winSize s.cur s.me ≤ (s.sr a).toNat) : ∀ i ∈ [Instr.vmovi d a, .vstoi d a],
    Does i s fun t => t = s.trap causeLAYOUT (badIndex (s.sr a).toNat).2 ∧
      (NoRun s → Trapped s.cur causeLAYOUT (badIndex (s.sr a).toNat).2 s.me.pc s t) := by
  simp only [List.forall_mem_cons, List.not_mem_nil, false_implies, implies_true, and_true]
  exact ⟨does_trap (if_pos hr), does_trap (if_pos hr)⟩

end

/-- `Claim.LaneMoves`: the moves of whole lanes, and the moves by index with their check. -/
theorem laneMoves : LaneMoves := by
  refine fun d a b p s => ⟨fun hclean => ⟨?vsel, ?vperm, ?vrot, ?vextr⟩, ?vbcast, does_vinsr d a b s, ?viota, does_vpopc d a s,
    fun hr hclean => ⟨?vmovi, ?vstoi⟩, does_moveByIndex_trap⟩
  case vsel => exact does_vsel (clean_of_whole hclean (by simp))
  case vperm => exact does_vperm hclean
  case vrot => exact does_vrot (clean_of_subset hclean (by simp))
  case vextr => exact does_vextr (clean_of_subset hclean (by simp))
  case vbcast => exact does_writeLanes rfl fun _ _ => (BitVec.ofNat_toNat 32 _).symm
  case viota => exact does_writeLanes rfl fun _ _ => rfl
  case vmovi => exact does_vmovi hr (clean_of_subset hclean (by simp))
  case vstoi => exact does_vstoi hr (clean_of_subset hclean (by simp))

/-! ### Words (R203, R204, R213 to R215) -/

/-- The rows that the opcodes select. -/
theorem pick_of_lane_major (w : Nat) :
    (w % 128 = 0x35 → pick w = pick35 w) ∧ (w % 128 = 0x36 → pick w = pick36 w) ∧ (w % 128 = 0x3F → pick w = pick3F w) ∧
    (w % 128 = 0x40 → pick w = pick40 w) ∧ (w % 128 = 0x42 → pick w = pick42 w) := by
  have hop : fld w 0 7 = w % 128 := by simp [fld]
  unfold pick
  rw [hop]
  refine ⟨?op35, ?op36, ?op3F, ?op40, ?op42⟩
  all_goals
    intro h
    rw [h]
    rfl

/-- A word of PAND, POR or PXOR has a zero p field, and its destination is not p0. -/
theorem predicateOp_fields {i : Instr} {d a b : BitVec 6} {w : Nat} (f4 : Nat)
    (hw : i.encodeNat = w) (h : i.encodeNat = pack6at7_6at13_6at19 (f4 * 2 ^ 28 + 0x35) d a b) (hd : 1 ≤ d.toNat) :
    w / 2 ^ 25 % 8 = 0 ∧ w / 2 ^ 7 % 64 ≠ 0 := by
  obtain ⟨hp, -, hfield⟩ := formatV_fields f4 0x35 hw (formatV_of_no_p h) (by decide)
  exact ⟨hp, by omega⟩

section
variable {w : BitVec 32} {i : Instr}

theorem pick35_fields (h : pick35 w.toNat = .ok i) (hw : i.encodeNat = w.toNat) (hr : i.registersOk = true) :
    w.toNat / 2 ^ 28 < 5 ∧ (1 ≤ w.toNat / 2 ^ 28 → w.toNat / 2 ^ 25 % 8 = 0 ∧ w.toNat / 2 ^ 7 % 64 ≠ 0) ∧
      (w.toNat / 2 ^ 28 = 4 → w.toNat / 2 ^ 19 % 64 = 0) := by
  rw [pick35, fld_f4] at h
  split at h
  · omega
  split at h
  · obtain rfl := Except.ok.inj h
    have := predicateOp_fields 1 hw rfl (of_decide_eq_true hr).1
    omega
  split at h
  · obtain rfl := Except.ok.inj h
    have := predicateOp_fields 2 hw rfl (of_decide_eq_true hr).1
    omega
  split at h
  · obtain rfl := Except.ok.inj h
    have := predicateOp_fields 3 hw rfl (of_decide_eq_true hr).1
    omega
  split at h
  · obtain rfl := Except.ok.inj h
    obtain ⟨hp, hb, hfield⟩ := formatV_fields 4 0x35 hw (formatV_of_no_p_b rfl) (by decide)
    have hd := (of_decide_eq_true hr).1
    exact ⟨by omega, fun _ => ⟨hp, by omega⟩, fun _ => hb⟩
  · cases h

theorem pick36_fields (h : pick36 w.toNat = .ok i) (hw : i.encodeNat = w.toNat) :
    w.toNat / 2 ^ 28 < 2 ∧ w.toNat / 2 ^ 19 % 64 = 0 := by
  rw [pick36, fld_f4] at h
  split at h
  · obtain rfl := Except.ok.inj h
    obtain ⟨-, hb, -⟩ := formatV_fields 0 0x36 hw (formatV_of_no_b rfl) (by decide)
    exact ⟨by omega, hb⟩
  split at h
  · obtain rfl := Except.ok.inj h
    obtain ⟨-, hb, -⟩ := formatV_fields 1 0x36 hw (formatV_of_no_b rfl) (by decide)
    exact ⟨by omega, hb⟩
  · cases h

theorem pick3F_fields (h : pick3F w.toNat = .ok i) (hw : i.encodeNat = w.toNat) :
    w.toNat / 2 ^ 28 < 3 ∧ (w.toNat / 2 ^ 28 ≤ 1 → w.toNat / 2 ^ 25 % 8 = 0 ∧ w.toNat / 2 ^ 19 % 64 = 0) := by
  rw [pick3F, fld_f4] at h
  split at h
  · obtain rfl := Except.ok.inj h
    obtain ⟨hp, hb, -⟩ := formatV_fields 0 0x3F hw (formatV_of_no_p_b rfl) (by decide)
    exact ⟨by omega, fun _ => ⟨hp, hb⟩⟩
  split at h
  · obtain rfl := Except.ok.inj h
    obtain ⟨hp, hb, -⟩ := formatV_fields 1 0x3F hw (formatV_of_no_p_b rfl) (by decide)
    exact ⟨by omega, fun _ => ⟨hp, hb⟩⟩
  split at h
  · omega
  · cases h

theorem pick40_fields (h : pick40 w.toNat = .ok i) : w.toNat / 2 ^ 28 < 2 := by
  rw [pick40, fld_f4] at h
  split at h
  · omega
  split at h
  · omega
  · cases h

theorem pick42_fields (h : pick42 w.toNat = .ok i) (hw : i.encodeNat = w.toNat) :
    w.toNat / 2 ^ 28 < 2 ∧ w.toNat / 2 ^ 25 % 8 = 0 ∧ w.toNat / 2 ^ 19 % 64 = 0 := by
  rw [pick42, fld_f4] at h
  split at h
  · obtain rfl := Except.ok.inj h
    obtain ⟨hp, hb, -⟩ := formatV_fields 0 0x42 hw (formatV_of_no_p_b_a rfl) (by decide)
    exact ⟨by omega, hp, hb⟩
  split at h
  · obtain rfl := Except.ok.inj h
    obtain ⟨hp, hb, -⟩ := formatV_fields 1 0x42 hw (formatV_of_no_p_b rfl) (by decide)
    exact ⟨by omega, hp, hb⟩
  · cases h

end

/-- `Claim.VectorWords`: the words, and the words of their opcodes that are none, by the fields of the row that is selected. -/
theorem vectorWords : VectorWords := by
  refine ⟨fun d a b p => ⟨?vsel, ?pand, ?por, ?pxor, ?pnot, ?vcvtif, ?vcvtfi, ?viota, ?vpopc, ?vmovi, ?vstoi⟩, fun w => ?refused⟩
  case vsel => exact encode_formatV 0 0x35 rfl (by decide) (by decide)
  case pand => simpa using encode_formatV 1 0x35 (formatV_of_no_p rfl) (by decide) (by decide)
  case por => simpa using encode_formatV 2 0x35 (formatV_of_no_p rfl) (by decide) (by decide)
  case pxor => simpa using encode_formatV 3 0x35 (formatV_of_no_p rfl) (by decide) (by decide)
  case pnot => simpa using encode_formatV 4 0x35 (formatV_of_no_p_b rfl) (by decide) (by decide)
  case vcvtif => simpa using encode_formatV 0 0x36 (formatV_of_no_b rfl) (by decide) (by decide)
  case vcvtfi => simpa using encode_formatV 1 0x36 (formatV_of_no_b rfl) (by decide) (by decide)
  case viota => simpa using encode_formatV 0 0x42 (formatV_of_no_p_b_a rfl) (by decide) (by decide)
  case vpopc => simpa using encode_formatV 1 0x42 (formatV_of_no_p_b rfl) (by decide) (by decide)
  case vmovi => simpa using encode_formatV 0 0x3F (formatV_of_no_p_b rfl) (by decide) (by decide)
  case vstoi => simpa using encode_formatV 1 0x3F (formatV_of_no_p_b rfl) (by decide) (by decide)
  case refused =>
    obtain ⟨h35, h36, h3F, h40, h42⟩ := pick_of_lane_major w.toNat
    refine ⟨?op35, ?op36, ?op3F, ?op40, ?op42⟩ <;> refine fun hop hbad => decode_isOk_eq_false fun i hpick hw hr => ?_
    case op35 =>
      have := pick35_fields ((h35 hop).symm.trans hpick) hw hr
      omega
    case op36 =>
      have := pick36_fields ((h36 hop).symm.trans hpick) hw
      omega
    case op3F =>
      have := pick3F_fields ((h3F hop).symm.trans hpick) hw
      omega
    case op40 =>
      have := pick40_fields ((h40 hop).symm.trans hpick)
      omega
    case op42 =>
      have := pick42_fields ((h42 hop).symm.trans hpick) hw
      omega

/-! ### Indirect access to the register store (R215) -/

theorem checkedLanes_ok {s : State} {p : BitVec 3} {r : Nat → Nat} (h : ∀ i ∈ activeLanes (s.mask p), r i < winSize s.cur s.me)
    (k : Out) : checkedLanes s p r k = k := by
  have hnone : ((activeLanes (s.mask p)).find? fun i => decide (s.w ≤ r i)) = none :=
    List.find?_eq_none.mpr fun i hi hle => Nat.not_le.mpr (h i hi) (of_decide_eq_true hle)
  rw [checkedLanes, hnone]

/-- The trap of a lane beyond the window names the lowest one's index (R276; log 35). -/
theorem checkedLanes_trap {s : State} {p : BitVec 3} {r : Nat → Nat} {i : Nat}
    (h : ((activeLanes (s.mask p)).find? fun i => decide (winSize s.cur s.me ≤ r i)) = some i) (k : Out) :
    checkedLanes s p r k = .next (s.trap causeLAYOUT (badIndex (r i)).2) := by
  change (activeLanes (s.mask p)).find? (fun i => decide (s.w ≤ r i)) = some i at h
  rw [checkedLanes, h]
  rfl

/-- An instruction that begins with the check of its lanes' registers stops where a lane names none, before any lane takes effect. -/
theorem does_checkedLanes_trap {i : Instr} {s : State} {p : BitVec 3} {r : Nat → Nat} {regs : List (Nat × BitVec 32)} {k : Out} {j : Nat}
    (hclean : Clean s regs) (hrun : NoRun s)
    (hj : ((activeLanes (s.mask p)).find? fun i => decide (winSize s.cur s.me ≤ r i)) = some j)
    (h : exec i s = readable s regs (checkedLanes s p r k)) :
    Does i s (Trapped s.cur causeLAYOUT (badIndex (r j)).2 s.me.pc s) :=
  (does_trap (h.trans ((readable_clean hclean _).trans (checkedLanes_trap hj k)))).imp fun _ ht => ht.2 hrun

/-- A read of one lane of the window for each active lane: of lane l i of register r i for lane i. -/
theorem does_readLanes {i : Instr} {d a : BitVec 6} {p : BitVec 3} {s : State} (r l : Nat → Nat) {m : Nat → BitVec 32}
    (hclean : Clean s [(a.toNat, s.mask p)])
    (hr : ∀ i ∈ activeLanes (s.mask p), r i < winSize s.cur s.me ∧
      SMap.getD s.badRegs (threadCore s.cur * 4096 + s.phys s.cur (r i)) 0 = 0)
    (h : exec i s = readable s [(a.toNat, s.mask p)] (checkedLanes s p r (
      readable s ((activeLanes (s.mask p)).map fun i => (r i, m i))
        (writeVec d (s.mask p) (ofLanes fun i => if (s.mask p).getLsbD i then lane (s.vec (r i)) (l i) else 0) s)))) :
    Does i s (WroteVec d.toNat (s.mask p) (fun i => lane (s.vecAt s.cur (r i)) (l i)) s) := by
  rw [readable_clean hclean, checkedLanes_ok fun i hi => (hr i hi).1, readable_clean (clean_map m fun i hi => (hr i hi).2)] at h
  exact does_writeLanes h fun i hi => if_pos hi

/-- The writes of VSTX: lane i of v to lane i of register r i, for each lane i of a list. -/
def State.storeLanes (s : State) (r : Nat → Nat) (v : Vec) (l : List Nat) : State :=
  l.foldl (fun s i => s.setVec (r i) (oneLane i) v) s

theorem storeLanes_cons (s : State) (r : Nat → Nat) (v : Vec) (i : Nat) (l : List Nat) :
    s.storeLanes r v (i :: l) = (s.setVec (r i) (oneLane i) v).storeLanes r v l := rfl

theorem onlyStore_storeLanes (r : Nat → Nat) (v : Vec) (l : List Nat) (s : State) :
    OnlyStore (l.map fun i => s.phys s.cur (r i)) s (s.storeLanes r v l) := by
  induction l generalizing s with
  | nil => exact OnlyStore.refl s
  | cons i l ih =>
    have hfirst := onlyStore_setVec s (r i) (oneLane i) v
    have hrest := ih (s.setVec (r i) (oneLane i) v)
    simp only [hfirst.cur, hfirst.phys] at hrest
    exact hfirst.trans hrest

/-- Each lane is written at most once, so the order of the writes does not matter. -/
theorem lane_store_storeLanes (r : Nat → Nat) (v : Vec) (k : Nat) {j : Nat} (hj : j < 32) (l : List Nat) (hl : ∀ i ∈ l, i < 32)
    (s : State) : lane (SMap.getD ((s.storeLanes r v l).core (threadCore s.cur)).store k 0) j =
      if j ∈ l ∧ s.phys s.cur (r j) = k then lane v j else lane (SMap.getD (s.core (threadCore s.cur)).store k 0) j := by
  induction l generalizing s with
  | nil => simp [State.storeLanes]
  | cons i l ih =>
    rw [List.forall_mem_cons] at hl
    have hfirst := onlyStore_setVec s (r i) (oneLane i) v
    have hrest := ih hl.2 (s.setVec (r i) (oneLane i) v)
    simp only [hfirst.cur, hfirst.phys] at hrest
    rw [storeLanes_cons, hrest, lane_store_setVec s _ _ v k hj, getLsbD_oneLane hl.1]
    by_cases hij : j = i
    · subst hij
      by_cases hk : s.phys s.cur (r j) = k <;> simp [hk]
    · simp only [List.mem_cons, hij, Ne.symm hij, decide_false, Bool.false_eq_true, and_false, if_false, false_or]

theorem exec_vstx {d a b : BitVec 6} {p : BitVec 3} {s : State} (h : Clean s [(a.toNat, s.mask p), (d.toNat, s.mask p)]) :
    exec (.vstx d a b p) s = checkedLanes s p (fun i => (s.sr b).toNat + (at_ s a i).toNat)
      (.next (s.storeLanes (fun i => (s.sr b).toNat + (at_ s a i).toNat) (s.v d) (activeLanes (s.mask p))).retire) := by
  rw [State.storeLanes, ← List.foldl_map (f := fun i => (i, (s.sr b).toNat + (at_ s a i).toNat))
    (g := fun (t : State) x => t.setVec x.2 (oneLane x.1) (s.v d))]
  exact readable_clean h _

theorem does_vstx {d a b : BitVec 6} {p : BitVec 3} {s : State} (h : Clean s [(a.toNat, s.mask p), (d.toNat, s.mask p)])
    (hr : ∀ i ∈ activeLanes (s.mask p), (s.sr b).toNat + (at_ s a i).toNat < winSize s.cur s.me) :
    Does (.vstx d a b p) s fun t =>
      WroteRegs none_ s.me.gens ((activeLanes (s.mask p)).map fun i => s.phys s.cur ((s.sr b).toNat + (at_ s a i).toNat)) s t ∧
      ∀ k i, i < 32 → lane (SMap.getD (t.core (threadCore s.cur)).store k 0) i =
        if i ∈ activeLanes (s.mask p) ∧ s.phys s.cur ((s.sr b).toNat + (at_ s a i).toNat) = k then at_ s d i
        else lane (SMap.getD (s.core (threadCore s.cur)).store k 0) i :=
  ⟨_, (exec_vstx h).trans (checkedLanes_ok hr _), wroteRegs_retire (onlyStore_storeLanes _ _ _ s), fun k _ hi =>
    lane_store_storeLanes _ _ k hi _ (fun _ hj => (mem_activeLanes.mp hj).1) s⟩

/-- `Claim.LaneStore`: reads and writes of the words that the active lanes name, and the check of their registers before. -/
theorem laneStore : LaneStore := by
  intro d a b p s hclean w base size active
  have hindex : Clean s [(a.toNat, s.mask p)] := clean_of_subset hclean (by simp)
  refine ⟨fun h => ?vgath, fun h => ?vldx, does_vstx hclean, fun i hi hrun => ⟨?vldxTrap, ?vstxTrap⟩, fun i hi hrun => ?vgathTrap⟩
  case vgath => exact does_readLanes (fun i => base + w i / 32) (fun i => w i % 32) hindex h rfl
  case vldx => exact does_readLanes (fun i => base + w i) (fun i => i) hindex h rfl
  case vldxTrap => exact does_checkedLanes_trap (r := fun i => base + w i) hindex hrun hi rfl
  case vstxTrap => exact does_checkedLanes_trap (r := fun i => base + w i) hclean hrun hi rfl
  case vgathTrap => exact does_checkedLanes_trap (r := fun i => base + w i / 32) hindex hrun hi rfl

/-- Settles O30: compares and predicates by their masks, lane moves by the lanes that they read, indirect access by one check of the lanes'
registers before any takes effect, and the words. -/
theorem vectorLanes : Obligations.VectorLanes := ⟨comparesAndPredicates, laneMoves, vectorWords, laneStore⟩

end Sys2Proof.Machine
end
